-- ==== Sys2Proof/Word.lean ====
section
/-! DEFINITION. The word types of the D940 and their plainest arithmetic: bytes, 32-bit and 64-bit register words,
64-bit lane masks, the 62-bit literal of an L word. -/

namespace Sys2Proof

/-- A byte of memory. -/
abbrev Byte := BitVec 8

/-- A 32-bit register word (R12, R16). -/
abbrev W32 := BitVec 32

/-- A 64-bit register pair, address or instruction word (R14, R113). -/
abbrev W64 := BitVec 64

/-- One bit per lane; bits at and above the group width are zero (R18, R21). -/
abbrev LaneMask := BitVec 64

/-- Bits [61:0] of an L word (R118). -/
abbrev Lit := BitVec 62

/-- The 64-bit word whose high half is `hi` and whose low half is `lo` (R14: the low 32 bits lie in the even register). -/
def pair (hi lo : W32) : W64 := hi ++ lo

/-- The low half of a 64-bit word. -/
def lo32 (x : W64) : W32 := x.setWidth 32

/-- The high half of a 64-bit word. -/
def hi32 (x : W64) : W32 := (x >>> 32).setWidth 32

end Sys2Proof
end

