-- ==== Sys2Proof/Syntax.lean ====
section
/-! DEFINITION. The instructions of the D940 as data: one constructor of `Instr` for each row of spec/opcode_table.json.
The rows of R149 and R152 are the words a group, a courier context or a firmware controller fetches; the other rows are the
part's own steps (95_what_each_step_holds.md): they have no encoding, and reach the machine through `State.inbox`. -/

namespace Sys2Proof

/-! ## Shared sub-fields (R147) -/

/-- STALL, the safe-point flag with its index, and the guard of an F word (R115, R116, R120). -/
structure Ctl where
  stall : BitVec 4
  safe  : Option (BitVec 8)
  neg   : Bool
  k     : BitVec 3
deriving DecidableEq, Repr

/-- Rounding codes of R96. -/
inductive Rnd | rn | rz | ru | rd | sr
deriving DecidableEq, Repr

/-- Scopes of R86. -/
inductive Scope | grp | team | die | pkg | dom | sys
deriving DecidableEq, Repr, Inhabited

/-- Ordering of an atomic (R147). -/
inductive AOrd | acq | rel | ar
deriving DecidableEq, Repr

/-- Cache hints (R221). -/
inductive Hint | none | na | stream
deriving DecidableEq, Repr

/-- Index scale 1, 2, 4, 8, 16 (R216). -/
inductive Scale | x1 | x2 | x4 | x8 | x16
deriving DecidableEq, Repr

/-- Integer condition codes (R147). -/
inductive ICC | eq | ne | lt | le | gt | ge | ltu | leu | gtu | geu
deriving DecidableEq, Repr

/-- Float condition codes (R147). -/
inductive FCC | eq | ne | lt | le | gt | ge | num | nan
deriving DecidableEq, Repr

/-- The well-formed format codes 0x01–0x0C of R26. -/
inductive Fmt | f64 | f32 | f16 | bf16 | e4m3 | e5m2 | p4 | i8 | u8 | i16 | i32 | i64
deriving DecidableEq, Repr, Inhabited

/-- P4 block types (R92). -/
inductive P4Ty | u | f | p | h
deriving DecidableEq, Repr

/-- Operand b of a scalar instruction (R147, R150): a register, an 8-bit immediate or a literal. -/
inductive SSrc
  | reg (r : BitVec 6)
  | imm (i : BitVec 8)
  | lit (l : Lit)
deriving DecidableEq, Repr

/-- Operand b of a vector instruction (R184). -/
inductive VSrc
  | v (r : BitVec 8)
  | s (r : BitVec 6)
  | imm (i : BitVec 8)
  | lit (l : Lit)
deriving DecidableEq, Repr

/-- A branch offset in words: the 8-bit field or the literal (R171). -/
inductive Tgt
  | off8 (o : BitVec 8)
  | off64 (l : Lit)
deriving DecidableEq, Repr

/-- The offset of a memory operand (R216). -/
inductive Off
  | imm (i : BitVec 8)
  | lit (l : Lit)
deriving DecidableEq, Repr

/-- A destination that DCLS makes scalar or vector (R161, R162). -/
inductive SVDst
  | s (r : BitVec 6)
  | v (r : BitVec 8)
deriving DecidableEq, Repr

/-- The special registers of R44. -/
inductive Spec
  | laneId | grpId | grpWidth | teamId | teamGroups | bgX | bgY | bgZ | bgCount | launchId
  | dieId | coreId | ctxId | ptbLo | ptbHi | capGen | spoorFlag | spoorAddr
deriving DecidableEq, Repr

/-- The system registers of R46. -/
inductive SysReg
  | ptbase | hashsel | mxchk | shadow | ckscb | trapvec | spoor | wsref | tmo | ctxsel | cause | csave
deriving DecidableEq, Repr

/-! ## Operand shapes -/

/-- `sD, sA, b` at width 32 or 64 (R163). -/
structure SBin where
  w64 : Bool
  d   : BitVec 6
  a   : BitVec 6
  b   : SSrc
deriving DecidableEq, Repr

/-- `sD, sA`. -/
structure SUn where
  w64 : Bool
  d   : BitVec 6
  a   : BitVec 6
deriving DecidableEq, Repr

/-- `vD, vA, b` (R184). -/
structure VBin where
  w64 : Bool
  d   : BitVec 8
  a   : BitVec 8
  b   : VSrc
deriving DecidableEq, Repr

/-- `vD, vA`. -/
structure VUn where
  w64 : Bool
  d   : BitVec 8
  a   : BitVec 8
deriving DecidableEq, Repr

/-- Floating `vD, vA, b`; the width is the opcode's. -/
structure FBin where
  d : BitVec 8
  a : BitVec 8
  b : VSrc
deriving DecidableEq, Repr

/-- Floating `vD, vA`. -/
structure FUn where
  d : BitVec 8
  a : BitVec 8
deriving DecidableEq, Repr

/-- The memory operand `[base + index*scale + off]` (R216). -/
structure MemAddr where
  base  : BitVec 6
  index : Option (Scale × BitVec 8)
  off   : Off
deriving DecidableEq, Repr

/-- A load or store: data register, operand, hint and the scope of `.acq` or `.rel` (R219). -/
structure MemOp where
  d    : BitVec 8
  addr : MemAddr
  hint : Hint
  ord  : Option Scope
deriving DecidableEq, Repr

/-- `ldu sD, [sA.64 + off]` (R219). -/
structure LduOp where
  d    : BitVec 6
  base : BitVec 6
  off  : Off
  ord  : Option Scope
deriving DecidableEq, Repr

/-- Atomic operation codes (R227). -/
inductive AOp
  | add | sub | minU | maxU | minS | maxS | and | or | xor | exch | cas | faddF32 | faddBf2
deriving DecidableEq, Repr

/-- `atom` and `red` (R227); `red` leaves `d` zero. -/
structure AtomOp where
  w64 : Bool
  op  : AOp
  ord : Option (AOrd × Scope)
  d   : BitVec 8
  a   : BitVec 8
  b   : BitVec 8
  c   : BitVec 8
deriving DecidableEq, Repr

/-- Reduction and scan operations (R211). -/
inductive RedOp
  | add | minS | maxS | minU | maxU | and | or | xor | fadd | fmin | fmax
deriving DecidableEq, Repr

/-- Shuffle modes (R209). -/
inductive ShMode | idx | xor | up | down
deriving DecidableEq, Repr

/-- Targets of `vsat` (R192). -/
inductive SatT | i8 | u8 | i16 | i32
deriving DecidableEq, Repr

/-- Operand formats of `mma` (R148). -/
inductive MFmt | bf16 | f16 | f8e4 | f8e5 | i8 | p4
deriving DecidableEq, Repr

/-- Activations of `epi` (R256). -/
inductive Act | none | relu | lrelu | tanh | sigm | silu
deriving DecidableEq, Repr

/-- Reductions of `tew.rrow` and `tew.rcol` (R265). -/
inductive TRed | add | max | min
deriving DecidableEq, Repr

/-- Collective kinds and operations (R302). -/
inductive CKind | ar | rs | ag | bcast
deriving DecidableEq, Repr

/-- Collective combination (R302). -/
inductive COp | sum | max | mean
deriving DecidableEq, Repr

/-- `cvt` (R204). -/
structure CvtOp where
  dst : Fmt
  src : Fmt
  ty  : P4Ty
  sat : Bool
  rnd : Rnd
  d   : BitVec 8
  a   : BitVec 8
deriving DecidableEq, Repr

/-- `p4pack` (R206). -/
structure PackOp where
  ty  : P4Ty
  sat : Bool
  rnd : Rnd
  d   : BitVec 8
  a   : BitVec 8
  sb  : BitVec 6
deriving DecidableEq, Repr

/-- `epi` (R256). -/
structure EpiOp where
  rcpt : BitVec 3
  act  : Act
  sat  : Bool
  rnd  : Rnd
  td   : BitVec 6
  z    : BitVec 4
  tb   : BitVec 6
  sc   : BitVec 6
deriving DecidableEq, Repr

/-- `zrd` (R255). -/
structure ZrdOp where
  fmt : Fmt
  sat : Bool
  rnd : Rnd
  d   : BitVec 8
  z   : BitVec 4
  row : SSrc
deriving DecidableEq, Repr

/-- Rounding and saturation of a `tew` with its destination (R265). -/
structure TewC where
  sat : Bool
  rnd : Rnd
  td  : BitVec 6
  ta  : BitVec 6
deriving DecidableEq, Repr

/-- `copy` and `copy.dl` (R281); `pbx` names SC when PBX is 1. -/
structure CopyOp where
  trans : Bool
  pad   : Bool
  blk   : Bool
  pbx   : Option (BitVec 6)
  rcpt  : BitVec 3
  queue : BitVec 2
  td    : BitVec 6
  ta    : BitVec 6
deriving DecidableEq, Repr

/-- `copy.seal` (R290); `last` names SC when LAST is 1. -/
structure SealOp where
  last  : Option (BitVec 6)
  rcpt  : BitVec 3
  queue : BitVec 2
  td    : BitVec 6
  ta    : BitVec 6
  sb    : BitVec 6
deriving DecidableEq, Repr

/-- `layout` (R297). -/
structure LayoutOp where
  pbx  : Option (BitVec 6)
  rcpt : BitVec 3
  td   : BitVec 6
  ta   : BitVec 6
  sb   : BitVec 6
deriving DecidableEq, Repr

/-- `coll` (R302). -/
structure CollOp where
  rcpt : BitVec 3
  op   : COp
  kind : CKind
  td   : BitVec 6
  ta   : BitVec 6
  sb   : BitVec 6
deriving DecidableEq, Repr

/-- Source b of an H half (R152): a register of the half's class or an unsigned immediate. -/
inductive HSrc
  | v (r : BitVec 8)
  | s (r : BitVec 6)
  | imm (i : BitVec 8)
deriving DecidableEq, Repr

/-- Integer vector opcodes of the H map. -/
inductive HVOp | vadd | vsub | vmul | vand | vor | vxor | vshl | vshr | vsra | vmin | vmax
deriving DecidableEq, Repr

/-- FP32 opcodes of the H map. -/
inductive HFOp | fadd | fsub | fmul | fmin | fmax
deriving DecidableEq, Repr

/-- Scalar opcodes of the H map. -/
inductive HSOp | sadd | ssub | sand | sor | sxor | sshl | sshr
deriving DecidableEq, Repr

/-- Predicate opcodes of the H map. -/
inductive HKOp | kand | kor | kxor
deriving DecidableEq, Repr

/-- One half of an H word (R121, R152): `nop`, or an operation with DST as source a. -/
inductive HalfOp
  | nop
  | vi (op : HVOp) (sgn : Bool) (d : BitVec 8) (b : HSrc)
  | vf (op : HFOp) (rnd : Rnd) (d : BitVec 8) (b : HSrc)
  | vh (mul bf : Bool) (rnd : Rnd) (d b : BitVec 8)
  | si (op : HSOp) (d : BitVec 6) (b : HSrc)
  | kp (op : HKOp) (d b : BitVec 3)
deriving DecidableEq, Repr

/-- A half with its stall count and guard (R121: no negate). -/
structure Half where
  stall : BitVec 2
  k     : BitVec 3
  op    : HalfOp
deriving DecidableEq, Repr

/-! ## Operands of the part's own steps -/

/-- A remote-atomic request as its home receives it (R230). -/
structure RemReq where
  pkg  : Nat
  die  : Nat
  core : Nat
  tag  : Nat
  t0   : Nat
  pa   : Nat
  w64  : Bool
  op   : AOp
  b    : W64
  c    : W64
  ctx  : Nat
  gen  : Nat
deriving DecidableEq, Repr

/-- The header of a packet, and whether the CRC of its flit holds; `crc`, where given, is the CRC that came beside it (R420). -/
structure FlitHdr where
  dst  : BitVec 6
  src  : BitVec 6
  vc   : BitVec 2 := 0
  len  : BitVec 4
  op   : BitVec 8 := 0
  tag  : BitVec 16 := 0
  ctx  : BitVec 6 := 0
  gen  : BitVec 16 := 0
  pkg  : BitVec 8 := 0
  addr : BitVec 56 := 0
  mask : BitVec 128 := 0
  crcOk : Bool
  crc  : Option (BitVec 16) := none
deriving DecidableEq, Repr

/-- A tier-migration command (R390). -/
structure MigCmd where
  src : Nat
  dst : Nat
  pte : Nat
  ctx : Nat
  /-- The die whose controller sent it, and whose is the completion record. -/
  dc  : Nat := 0
deriving DecidableEq, Repr

/-- A DHP message (R439, R440): the pair (host address × 2^16 + host UDP port) it comes from, its header but for TYPE, RESP, ACKONLY and READFORM,
which choose the step, and its payload. `rsv` joins the header's reserved fields: FLAGS[15:3] and bytes 30–31. In an Ethernet frame `raw`, where it
is not empty, is the UDP datagram whose header gives the fields instead, and `frame` the frame's length in bytes; of an ARP request or a neighbour
solicitation `arg` is the address asked for (R438). -/
structure Dhp where
  session : Nat
  seq     : Nat
  arg     : Nat
  len     : Nat
  payload : List Byte
  peer    : Nat := 0
  magic   : Nat := 0xD4A7
  version : Nat := 1
  ack     : Nat := 0xFFFFFFFF
  ctx     : Nat := 0
  rsv     : Nat := 0
  raw     : List Byte := []
  frame   : Nat := 0
deriving DecidableEq, Repr

/-- What an Ethernet frame carries (R438). -/
inductive EthKind | dhp | ptp | arp | nd | other
deriving DecidableEq, Repr

/-- What of a node an error with cause 0x01 lies in (R445, R448, R452): a line of the L2, a line of a core's L1, 8 bytes of a core's scratchpad
(`addr` the offset in it), another array that holds no program data, or the die's distributors, walker or controller. -/
inductive ErrPart | l2 | l1 | scratch | other | control
deriving DecidableEq, Repr

/-- Where an error was detected and what a node found (R445–R450). -/
structure ErrInfo where
  node  : Nat
  unit  : Nat
  addr  : Nat
  cause : Nat
  req   : Nat
  part  : ErrPart := .l2
deriving DecidableEq, Repr

/-- One constructor per row of spec/opcode_table.json, in the table's order. `c` is the control part of an F word; Nat
operands of a step name agents (`Agent.key`), dies, cores, homes and lines by number. -/
inductive Instr
  /-- NOP (R180): Does nothing except apply its stall count and its safe-point flag. -/
  | nop (c : Ctl)
  /-- EXIT (R181): Ends the threads of the lanes active under the guard, then ends the group, pops the divergence stack or advances the PC. -/
  | exit (c : Ctl)
  /-- YIELD (R179): Takes the group out of its pipe's ready set until 8 issue opportunities pass or no other group is ready. -/
  | yield (c : Ctl)
  /-- REFORM (R178): Files each active thread into a pigeonhole keyed by its next PC and frees the group's slot. -/
  | reform (c : Ctl) (va : BitVec 8)
  /-- BRA (R172): Uniform branch to a PC-relative target. -/
  | bra (c : Ctl) (t : Tgt)
  /-- BRS (R172): Branches when a scalar register is zero or nonzero, as the Z bit selects. -/
  | brs (c : Ctl) (z : Bool) (sa : BitVec 6) (t : Tgt)
  /-- BRK (R174): Divergent branch that pushes one divergence entry and runs the taken lanes first. -/
  | brk (c : Ctl) (ka : BitVec 3) (t : Tgt)
  /-- JOIN (R175): Pops a divergence entry and either merges the lanes or switches to the pending path. -/
  | join (c : Ctl)
  /-- CALL (R172): Writes the return address to a scalar pair and branches. -/
  | call (c : Ctl) (d : BitVec 6) (t : Tgt)
  /-- RET (R172): Branches to the address held in a scalar pair. -/
  | ret (c : Ctl) (sa : BitVec 6)
  /-- JMPR (R172): Jumps to the address held in a scalar pair. -/
  | jmpr (c : Ctl) (sa : BitVec 6)
  /-- LOOP (R172): Decrements a 32-bit counter and branches while the new value is nonzero. -/
  | loop (c : Ctl) (sa : BitVec 6) (t : Tgt)
  /-- MOVI (R161): Moves a scalar register or an immediate into a scalar register, or into a vector register in every active lane. -/
  | movi (c : Ctl) (w64 : Bool) (d : SVDst) (b : SSrc)
  /-- SADD (R163): Scalar addition modulo 2^n. -/
  | sadd (c : Ctl) (o : SBin)
  /-- SSUB (R163): Scalar subtraction modulo 2^n. -/
  | ssub (c : Ctl) (o : SBin)
  /-- SMUL (R163): Low n bits of a scalar product. -/
  | smul (c : Ctl) (o : SBin)
  /-- SMULH (R163): High n bits of a signed or unsigned scalar product. -/
  | smulh (c : Ctl) (sgn : Bool) (o : SBin)
  /-- SDIVU (R164): Unsigned scalar division on the pipe's single, unpipelined divider. -/
  | sdivu (c : Ctl) (o : SBin)
  /-- SAND (R163): Scalar bitwise AND. -/
  | sand (c : Ctl) (o : SBin)
  /-- SOR (R163): Scalar bitwise OR. -/
  | sor (c : Ctl) (o : SBin)
  /-- SXOR (R163): Scalar bitwise XOR. -/
  | sxor (c : Ctl) (o : SBin)
  /-- SSHL (R163): Scalar shift left. -/
  | sshl (c : Ctl) (o : SBin)
  /-- SSHR (R163): Scalar logical shift right. -/
  | sshr (c : Ctl) (o : SBin)
  /-- SSRA (R163): Scalar arithmetic shift right. -/
  | ssra (c : Ctl) (o : SBin)
  /-- SMIN (R163): Scalar minimum, compared signed or unsigned. -/
  | smin (c : Ctl) (sgn : Bool) (o : SBin)
  /-- SMAX (R163): Scalar maximum, compared signed or unsigned. -/
  | smax (c : Ctl) (sgn : Bool) (o : SBin)
  /-- SCLZ (R163): Counts the leading zero bits of a scalar register. -/
  | sclz (c : Ctl) (o : SUn)
  /-- SPOPC (R163): Counts the one bits of a scalar register. -/
  | spopc (c : Ctl) (o : SUn)
  /-- SBFE (R165): Extracts a scalar bit field. -/
  | sbfe (c : Ctl) (o : SBin)
  /-- SBFI (R165): Inserts a scalar bit field. -/
  | sbfi (c : Ctl) (o : SBin) (sc : BitVec 6)
  /-- SLEA (R166): Forms a 64-bit address from a base, a shifted index and an addend. -/
  | slea (c : Ctl) (sh : BitVec 4) (o : SBin) (sc : BitVec 6)
  /-- SSEL (R167): Selects between two scalar values by the mask bit of the lowest active lane. -/
  | ssel (c : Ctl) (o : SBin) (kc : BitVec 3)
  /-- SCMP (R168): Scalar compare whose uniform result is written to a predicate mask. -/
  | scmp (c : Ctl) (cc : ICC) (w64 : Bool) (kd : BitVec 3) (sa : BitVec 6) (b : SSrc)
  /-- MOVS (R162): Reads a special register into a scalar or vector register. -/
  | movs (c : Ctl) (sel : Spec) (d : SVDst)
  /-- PTB_LO_LATCH (R45): A read of ptb.lo latches ptb.hi for the next ptb.hi read by the same reader. -/
  | ptbLoLatch (agent : Nat)
  /-- KAND (R169): Per-lane predicate AND. -/
  | kand (c : Ctl) (kd ka kb : BitVec 3)
  /-- KOR (R169): Per-lane predicate OR. -/
  | kor (c : Ctl) (kd ka kb : BitVec 3)
  /-- KXOR (R169): Per-lane predicate XOR. -/
  | kxor (c : Ctl) (kd ka kb : BitVec 3)
  /-- KNOT (R169): Per-lane predicate NOT. -/
  | knot (c : Ctl) (kd ka : BitVec 3)
  /-- KMOV (R169): Per-lane predicate move. -/
  | kmov (c : Ctl) (kd ka : BitVec 3)
  /-- KPOPC (R170): Counts the active lanes whose mask bit is set. -/
  | kpopc (c : Ctl) (d : BitVec 6) (ka : BitVec 3)
  /-- KFIRST (R170): Lowest active lane whose mask bit is set. -/
  | kfirst (c : Ctl) (d : BitVec 6) (ka : BitVec 3)
  /-- KANY (R170): 1 when any active lane has its mask bit set. -/
  | kany (c : Ctl) (d : BitVec 6) (ka : BitVec 3)
  /-- KALL (R170): 1 when every active lane has its mask bit set. -/
  | kall (c : Ctl) (d : BitVec 6) (ka : BitVec 3)
  /-- VADD (R189): Vector integer addition, wrapping or saturating. -/
  | vadd (c : Ctl) (sat : Bool) (o : VBin)
  /-- VSUB (R189): Vector integer subtraction, wrapping or saturating. -/
  | vsub (c : Ctl) (sat : Bool) (o : VBin)
  /-- VMUL (R189): Low bits of a vector integer product, wrapping or saturating. -/
  | vmul (c : Ctl) (sat : Bool) (o : VBin)
  /-- VMULH (R189): High bits of a signed or unsigned vector product. -/
  | vmulh (c : Ctl) (sgn : Bool) (o : VBin)
  /-- VMAD (R190): Vector integer multiply-add. -/
  | vmad (c : Ctl) (sat : Bool) (o : VBin) (vc : BitVec 8)
  /-- VAND (R189): Vector bitwise AND. -/
  | vand (c : Ctl) (o : VBin)
  /-- VOR (R189): Vector bitwise OR. -/
  | vor (c : Ctl) (o : VBin)
  /-- VXOR (R189): Vector bitwise XOR. -/
  | vxor (c : Ctl) (o : VBin)
  /-- VNOT (R191): Vector bitwise NOT. -/
  | vnot (c : Ctl) (o : VUn)
  /-- VSHL (R189): Vector shift left. -/
  | vshl (c : Ctl) (o : VBin)
  /-- VSHR (R189): Vector logical shift right, with a signed count when SGN is set. -/
  | vshr (c : Ctl) (sgn : Bool) (o : VBin)
  /-- VSRA (R189): Vector arithmetic shift right. -/
  | vsra (c : Ctl) (o : VBin)
  /-- VMIN (R189): Vector minimum, compared signed or unsigned. -/
  | vmin (c : Ctl) (sgn : Bool) (o : VBin)
  /-- VMAX (R189): Vector maximum, compared signed or unsigned. -/
  | vmax (c : Ctl) (sgn : Bool) (o : VBin)
  /-- VABS (R191): Vector absolute value of a signed source. -/
  | vabs (c : Ctl) (o : VUn)
  /-- VCLZ (R191): Counts the leading zero bits in each lane. -/
  | vclz (c : Ctl) (o : VUn)
  /-- VPOPC (R191): Counts the one bits in each lane. -/
  | vpopc (c : Ctl) (o : VUn)
  /-- VBREV (R191): Reverses the bits in each lane. -/
  | vbrev (c : Ctl) (o : VUn)
  /-- VBFE (R193): Extracts a bit field in each lane. -/
  | vbfe (c : Ctl) (sgn : Bool) (o : VBin) (vc : BitVec 8)
  /-- VBFI (R193): Inserts a bit field in each lane. -/
  | vbfi (c : Ctl) (o : VBin) (vc : BitVec 8)
  /-- VSAT (R192): Clamps each lane to the range of an integer target. -/
  | vsat (c : Ctl) (t : SatT) (sgn : Bool) (o : VUn)
  /-- VCMP (R194): Vector integer compare into a predicate mask. -/
  | vcmp (c : Ctl) (cc : ICC) (w64 : Bool) (kd : BitVec 3) (va : BitVec 8) (b : VSrc)
  /-- VSEL (R195): Per-lane select by a predicate mask. -/
  | vsel (c : Ctl) (o : VBin) (kc : BitVec 3)
  /-- FADD_F32 (R196): FP32 addition, rounded once. -/
  | faddF32 (c : Ctl) (rnd : Rnd) (o : FBin)
  /-- FSUB_F32 (R196): FP32 subtraction, rounded once. -/
  | fsubF32 (c : Ctl) (rnd : Rnd) (o : FBin)
  /-- FMUL_F32 (R196): FP32 multiplication, rounded once. -/
  | fmulF32 (c : Ctl) (rnd : Rnd) (o : FBin)
  /-- FMA_F32 (R196): FP32 fused multiply-add with one rounding. -/
  | fmaF32 (c : Ctl) (rnd : Rnd) (o : FBin) (vc : BitVec 8)
  /-- FMIN_F32 (R197): FP32 minimum. -/
  | fminF32 (c : Ctl) (o : FBin)
  /-- FMAX_F32 (R197): FP32 maximum. -/
  | fmaxF32 (c : Ctl) (o : FBin)
  /-- FABS_F32 (R196): FP32 absolute value. -/
  | fabsF32 (c : Ctl) (o : FUn)
  /-- FNEG_F32 (R196): FP32 negation. -/
  | fnegF32 (c : Ctl) (o : FUn)
  /-- FCMP_F32 (R198): FP32 compare into a predicate mask. -/
  | fcmpF32 (c : Ctl) (cc : FCC) (kd : BitVec 3) (va : BitVec 8) (b : VSrc)
  /-- FCLASS_F32 (R199): Writes the one-hot class mask of an FP32 value. -/
  | fclassF32 (c : Ctl) (o : FUn)
  /-- FADD_F64 (R196): FP64 addition. -/
  | faddF64 (c : Ctl) (rnd : Rnd) (o : FBin)
  /-- FSUB_F64 (R196): FP64 subtraction. -/
  | fsubF64 (c : Ctl) (rnd : Rnd) (o : FBin)
  /-- FMUL_F64 (R196): FP64 multiplication. -/
  | fmulF64 (c : Ctl) (rnd : Rnd) (o : FBin)
  /-- FMA_F64 (R196): FP64 fused multiply-add. -/
  | fmaF64 (c : Ctl) (rnd : Rnd) (o : FBin) (vc : BitVec 8)
  /-- FMIN_F64 (R197): FP64 minimum. -/
  | fminF64 (c : Ctl) (o : FBin)
  /-- FMAX_F64 (R197): FP64 maximum. -/
  | fmaxF64 (c : Ctl) (o : FBin)
  /-- FABS_F64 (R196): FP64 absolute value. -/
  | fabsF64 (c : Ctl) (o : FUn)
  /-- FNEG_F64 (R196): FP64 negation. -/
  | fnegF64 (c : Ctl) (o : FUn)
  /-- FCMP_F64 (R198): FP64 compare into a predicate mask. -/
  | fcmpF64 (c : Ctl) (cc : FCC) (kd : BitVec 3) (va : BitVec 8) (b : VSrc)
  /-- FCLASS_F64 (R199): Writes the one-hot class mask of an FP64 value. -/
  | fclassF64 (c : Ctl) (o : FUn)
  /-- HADD2 (R200): Packed FP16 or BF16 addition. -/
  | hadd2 (c : Ctl) (bf : Bool) (rnd : Rnd) (o : FBin)
  /-- HMUL2 (R200): Packed FP16 or BF16 multiplication. -/
  | hmul2 (c : Ctl) (bf : Bool) (rnd : Rnd) (o : FBin)
  /-- HFMA2 (R200): Packed FP16 or BF16 fused multiply-add. -/
  | hfma2 (c : Ctl) (bf : Bool) (rnd : Rnd) (o : FBin) (vc : BitVec 8)
  /-- HMIN2 (R200): Packed FP16 or BF16 minimum. -/
  | hmin2 (c : Ctl) (bf : Bool) (o : FBin)
  /-- HMAX2 (R200): Packed FP16 or BF16 maximum. -/
  | hmax2 (c : Ctl) (bf : Bool) (o : FBin)
  /-- FRCP (R202): FP32 reciprocal on the special-function unit. -/
  | frcp (c : Ctl) (o : FUn)
  /-- FRSQ (R202): FP32 reciprocal square root. -/
  | frsq (c : Ctl) (o : FUn)
  /-- FSQRT (R202): FP32 square root, correctly rounded. -/
  | fsqrt (c : Ctl) (o : FUn)
  /-- FEXP2 (R202): FP32 base-2 exponential. -/
  | fexp2 (c : Ctl) (o : FUn)
  /-- FLOG2 (R202): FP32 base-2 logarithm. -/
  | flog2 (c : Ctl) (o : FUn)
  /-- FSIN (R202): FP32 sine. -/
  | fsin (c : Ctl) (o : FUn)
  /-- FCOS (R202): FP32 cosine. -/
  | fcos (c : Ctl) (o : FUn)
  /-- FTANH (R202): FP32 hyperbolic tangent. -/
  | ftanh (c : Ctl) (o : FUn)
  /-- CVT (R204): Converts each lane between formats under the conversion rules. -/
  | cvt (c : Ctl) (o : CvtOp)
  /-- P4PACK (R206): Packs FP32 lanes into P4 blocks together with their scale bytes. -/
  | p4pack (c : Ctl) (o : PackOp)
  /-- P4UNPACK (R207): Decodes one P4 code per lane into FP32. -/
  | p4unpack (c : Ctl) (rnd : Rnd) (d va vb : BitVec 8)
  /-- VNBR (R208): Reads a register of the left or right chain neighbour. -/
  | vnbr (c : Ctl) (right wrap : Bool) (o : FUn)
  /-- VSHFL (R209): Shuffles values between the lanes of a group. -/
  | vshfl (c : Ctl) (m : ShMode) (o : FBin)
  /-- VBCAST (R210): Broadcasts one lane's value to every active lane. -/
  | vbcast (c : Ctl) (o : FBin)
  /-- VRED (R211): Reduces over the active lanes along a fixed tree. -/
  | vred (c : Ctl) (op : RedOp) (o : FUn)
  /-- VSCAN (R212): Inclusive or exclusive scan over the active lanes. -/
  | vscan (c : Ctl) (op : RedOp) (excl : Bool) (o : FUn)
  /-- VFLAGS (R213): Waits for pending flags, then reads and clears the sticky flag word. -/
  | vflags (c : Ctl) (d : BitVec 6)
  /-- H_WORD (R122): Issues the two halves of an H word together in the same pipe cycles. -/
  | hWord (ha hb : Half)
  /-- LD_B8 (R219): Loads 1 byte per active lane. -/
  | ldB8 (c : Ctl) (o : MemOp)
  /-- LD_B16 (R219): Loads 2 bytes per active lane. -/
  | ldB16 (c : Ctl) (o : MemOp)
  /-- LD_B32 (R219): Loads 4 bytes per active lane. -/
  | ldB32 (c : Ctl) (o : MemOp)
  /-- LD_B64 (R219): Loads 8 bytes per active lane. -/
  | ldB64 (c : Ctl) (o : MemOp)
  /-- LD_B128 (R219): Loads 16 bytes per active lane. -/
  | ldB128 (c : Ctl) (o : MemOp)
  /-- ST_B8 (R219): Stores 1 byte per active lane through the store queue. -/
  | stB8 (c : Ctl) (o : MemOp)
  /-- ST_B16 (R219): Stores 2 bytes per active lane. -/
  | stB16 (c : Ctl) (o : MemOp)
  /-- ST_B32 (R219): Stores 4 bytes per active lane. -/
  | stB32 (c : Ctl) (o : MemOp)
  /-- ST_B64 (R219): Stores 8 bytes per active lane. -/
  | stB64 (c : Ctl) (o : MemOp)
  /-- ST_B128 (R219): Stores 16 bytes per active lane. -/
  | stB128 (c : Ctl) (o : MemOp)
  /-- LDU_B32 (R219): Uniform 4-byte load into a scalar register. -/
  | lduB32 (c : Ctl) (o : LduOp)
  /-- LDU_B64 (R219): Uniform 8-byte load into a scalar pair. -/
  | lduB64 (c : Ctl) (o : LduOp)
  /-- PREFETCH (R224): Requests the line of each lane's address into the caches, without faulting. -/
  | prefetch (c : Ctl) (h : Hint) (m : MemAddr)
  /-- CLEAN (R225): Writes the line's dirty or combined bytes to home by class, keeping the line. -/
  | clean (c : Ctl) (m : MemAddr)
  /-- INVAL (R225): Writes the line's dirty or combined bytes to home by class, then drops the line. -/
  | inval (c : Ctl) (m : MemAddr)
  /-- LINESET (R226): Writes 128 zero bytes as a full-line write and clears the line's LOST mark. -/
  | lineset (c : Ctl) (m : MemAddr)
  /-- ATOM (R227): Indivisible read-modify-write per lane, returning the old value. -/
  | atom (c : Ctl) (o : AtomOp)
  /-- RED (R227): Indivisible read-modify-write per lane, returning no value. -/
  | red (c : Ctl) (o : AtomOp)
  /-- FENCE_ACQ (R232): Waits for earlier loads, then takes the acquire actions of its scope. -/
  | fenceAcq (c : Ctl) (sc : Scope)
  /-- FENCE_REL (R232): Completes earlier accesses with the release actions of its scope before later stores. -/
  | fenceRel (c : Ctl) (sc : Scope)
  /-- FENCE_AR (R232): Release fence followed by an acquire fence. -/
  | fenceAr (c : Ctl) (sc : Scope)
  /-- FENCE_SC (R232): Acquire-release fence that also performs earlier accesses at home, in one total order. -/
  | fenceSc (c : Ctl) (sc : Scope)
  /-- PBINIT (R233): Arms, re-arms or disarms a scratchpad postbox. -/
  | pbinit (c : Ctl) (sc : Scope) (sa : BitVec 6) (b : SSrc)
  /-- PBEXPECT (R233): Adds bytes to a postbox's PENDING count. -/
  | pbexpect (c : Ctl) (sa : BitVec 6) (b : SSrc)
  /-- PBARRIVE (R233): Releases at the postbox's scope, then counts one arrival. -/
  | pbarrive (c : Ctl) (sa : BitVec 6)
  /-- PBWAIT (R233): Waits until the postbox phase flips, then acquires. -/
  | pbwait (c : Ctl) (sa : BitVec 6) (b : SSrc)
  /-- PBTEST (R233): Reads a postbox's phase and armed bit, with an acquire. -/
  | pbtest (c : Ctl) (d sa : BitVec 6)
  /-- BAR_ARRIVE (R235): Releases at team scope and arrives at a named barrier without waiting. -/
  | barArrive (c : Ctl) (b : BitVec 4) (cnt : SSrc)
  /-- BAR_SYNC (R235): Arrives at a named barrier and waits for the phase to complete. -/
  | barSync (c : Ctl) (b : BitVec 4) (cnt : SSrc)
  /-- GBAR (R236): Grid barrier arrival of a resident launch, with a release and acquire at pkg. -/
  | gbar (c : Ctl)
  /-- DISCARD (R237): Marks pages discarded and drops their cached lines without write-back. -/
  | discard (c : Ctl) (sa : BitVec 6) (b : SSrc)
  /-- PGCLASS (R238): Changes a page's home class table entry through a recall transition. -/
  | pgclass (c : Ctl) (sa : BitVec 6) (b : SSrc)
  /-- TLBI_PAGE (R239): Removes one page's translation on every die. -/
  | tlbiPage (c : Ctl) (sa : BitVec 6)
  /-- TLBI_CTX (R239): Removes every translation of one context. -/
  | tlbiCtx (c : Ctl)
  /-- TLBI_ALL (R239): Removes every translation of every context. -/
  | tlbiAll (c : Ctl)
  /-- GANG_SET (R243): Checks and writes the group's gang register. -/
  | gangSet (c : Ctl) (sa : BitVec 6)
  /-- MMA (R248): A member arrives at the gang's rendezvous latch with a matrix multiply-accumulate. -/
  | mma (c : Ctl) (acc : Bool) (fmt : MFmt) (zd : BitVec 4) (ta : BitVec 6) (vb : BitVec 8)
  /-- MMA_ENGINE_START (R251): The engine starts a latched mma when it is free, reads B and A, and re-inserts the members. -/
  | mmaEngineStart (die core : Nat)
  /-- MMA_TILE_WRITE (R251): In its last cycle the mma writes the tile and raises flags, after the self-check compare when checked. -/
  | mmaTileWrite (die core : Nat)
  /-- ZCLR (R253): Zeros an accumulator tile and sets its valid bit. -/
  | zclr (c : Ctl) (z : BitVec 4)
  /-- ZWR (R254): Writes one tile row from vector registers. -/
  | zwr (c : Ctl) (z : BitVec 4) (va : BitVec 8) (row : SSrc)
  /-- ZRD (R255): Reads and converts one tile row into vector registers. -/
  | zrd (c : Ctl) (o : ZrdOp)
  /-- EPI (R258): Snapshots a tile and runs the fused epilogue, synchronously into the scratchpad or as an eq command for a global destination. -/
  | epi (c : Ctl) (o : EpiOp)
  /-- TTSET (R262): Writes one field of a tensor table image. -/
  | ttset (c : Ctl) (td sa : BitVec 6) (sel : BitVec 8)
  /-- TTLD (R263): Loads a 64-byte tensor table image from memory. -/
  | ttld (c : Ctl) (td sa : BitVec 6)
  /-- TTST (R263): Stores a tensor table image to memory. -/
  | ttst (c : Ctl) (ta sb : BitVec 6)
  /-- TTIDX (R264): Reads or writes one index counter of a tensor table entry. -/
  | ttidx (c : Ctl) (wr : Bool) (d : BitVec 6) (ta : BitVec 6) (ax : BitVec 3)
  /-- TEW_ADD (R265): Element-wise tensor addition. -/
  | tewAdd (c : Ctl) (o : TewC) (tb : BitVec 6)
  /-- TEW_SUB (R265): Element-wise tensor subtraction. -/
  | tewSub (c : Ctl) (o : TewC) (tb : BitVec 6)
  /-- TEW_MUL (R265): Element-wise tensor multiplication. -/
  | tewMul (c : Ctl) (o : TewC) (tb : BitVec 6)
  /-- TEW_FMA (R265): Element-wise tensor multiply-add. -/
  | tewFma (c : Ctl) (o : TewC) (tb tc : BitVec 6)
  /-- TEW_MIN (R265): Element-wise tensor minimum. -/
  | tewMin (c : Ctl) (o : TewC) (tb : BitVec 6)
  /-- TEW_MAX (R265): Element-wise tensor maximum. -/
  | tewMax (c : Ctl) (o : TewC) (tb : BitVec 6)
  /-- TEW_SCALE (R265): Scales a tensor by a scalar. -/
  | tewScale (c : Ctl) (o : TewC) (sb : BitVec 6)
  /-- TEW_CVT (R265): Converts a tensor's format element by element. -/
  | tewCvt (c : Ctl) (o : TewC)
  /-- TEW_EXP2 (R265): Element-wise base-2 exponential. -/
  | tewExp2 (c : Ctl) (o : TewC)
  /-- TEW_RELU (R265): Element-wise ReLU. -/
  | tewRelu (c : Ctl) (o : TewC)
  /-- TEW_SELECT (R265): Element-wise select by a condition tensor. -/
  | tewSelect (c : Ctl) (o : TewC) (tb tc : BitVec 6)
  /-- TEW_COPY (R265): Element-wise bit copy of a tensor. -/
  | tewCopy (c : Ctl) (o : TewC)
  /-- TEW_RROW (R268): Reduces a tensor along axis 0. -/
  | tewRrow (c : Ctl) (r : TRed) (o : TewC)
  /-- TEW_RCOL (R268): Reduces a tensor along axis 1. -/
  | tewRcol (c : Ctl) (r : TRed) (o : TewC)
  /-- COPY (R283): Places a copy command in a copy queue. -/
  | copy (c : Ctl) (o : CopyOp)
  /-- COPY_DL (R287): Places a multicast copy to the teams of a distribution list. -/
  | copyDl (c : Ctl) (o : CopyOp) (list : BitVec 4)
  /-- COPY_SEAL (R291): Places a sealed copy that continues the queue's CRC-32C chain. -/
  | copySeal (c : Ctl) (o : SealOp)
  /-- LAYOUT (R297): Places a layout command in lq. -/
  | layout (c : Ctl) (o : LayoutOp)
  /-- QWAIT (R278): Waits until the named receipts reach COUNT zero, then acquires at dom. -/
  | qwait (c : Ctl) (mask : BitVec 8)
  /-- QFENCE (R279): Places join markers in the named queues. -/
  | qfence (c : Ctl) (mask : BitVec 7)
  /-- QSTAT (R280): Reads a receipt record. -/
  | qstat (c : Ctl) (d : BitVec 6) (q : BitVec 3)
  /-- DLCHK (R288): Reads whether a distribution list is idle. -/
  | dlchk (c : Ctl) (d : BitVec 6) (list : BitVec 4)
  /-- COLL (R302): Places a collective command in xq. -/
  | coll (c : Ctl) (o : CollOp)
  /-- CGMEM (R301): Reads the live-member mask of a collective group. -/
  | cgmem (c : Ctl) (d sb : BitVec 6)
  /-- TRAP (R320): Raises TRAP with a code, or returns from the handler with code 255. -/
  | trap (c : Ctl) (code : BitVec 8)
  /-- ERET (R315): Returns the die controller from trap entry and carries out the dispositions of released ring records. -/
  | eret (c : Ctl)
  /-- MFS (R321): Reads a system register. -/
  | mfs (c : Ctl) (sel : SysReg) (d : BitVec 6)
  /-- MTS (R321): Writes a system register that has no behaviour of its own. -/
  | mts (c : Ctl) (sel : SysReg) (sb : BitVec 6)
  /-- SYS_SPOOR_CLEAR (R46): Writing 1 to sys.spoor clears spoor.flag and spoor.addr. -/
  | sysSpoorClear (ctx : Nat)
  /-- SLICE_RETIRE (R47): Writing 1 to a set SLICES bit retires that L2 slice. -/
  | sliceRetire (die : Nat) (mask : BitVec 16)
  /-- HASH_VARIANT_WRITE (R378): An accepted VARIANT write writes back and drops every L2 line, switches the hash and resumes the stalled misses. -/
  | hashVariantWrite (die : Nat) (variant : BitVec 2)
  /-- MXCHK_INTERVAL_WRITE (R48): Writing sys.mxchk sets N and clears the core's mma counter. -/
  | mxchkIntervalWrite (die : Nat) (n : BitVec 13)
  /-- LAUNCH (R322): Releases at dom and hands a device launch request to the chip distributor. -/
  | launch (c : Ctl) (sa sb sc : BitVec 6)
  /-- CAPQ (R324): Writes the capacity record into eight scalar registers. -/
  | capq (c : Ctl) (d : BitVec 6) (sel : BitVec 8)
  /-- PTBRD (R325): Reads the node's 64-bit package time base. -/
  | ptbrd (c : Ctl) (d : BitVec 6)
  /-- EVSIG (R326): Releases at sys and places an event in the context's event queue. -/
  | evsig (c : Ctl) (code : BitVec 8)
  /-- CTXSAVE (R327): Stops admission and pre-empts every team of a context. -/
  | ctxsave (c : Ctl) (sa : BitVec 6)
  /-- CTXREST (R328): Hands a saved context's teams to placement and restarts its admission. -/
  | ctxrest (c : Ctl) (sa : BitVec 6)
  /-- SAFEPOINT (R329): A flagged safe-point word with no other effect. -/
  | safepoint (c : Ctl)
  /-- WSLD (R330): Copies bytes from global memory into the die's weight store. -/
  | wsld (c : Ctl) (sa sb sc : BitVec 6)
  /-- ISSUE_OPPORTUNITY (R62): At each issue opportunity the pipe picks the ready group of the highest class that has waited longest. -/
  | issueOpportunity (die core pipe : Nat)
  /-- RESULT_LAND (R127): An interlocked result (load, atomic, SFU, sdivu and others) lands and releases the instructions that wait on it. -/
  | resultLand (agent : Nat)
  /-- STORE_QUEUE_DRAIN (R220): The oldest store-queue entry leaves when its target accepts it. -/
  | storeQueueDrain (agent : Nat)
  /-- DIVIDER_FREE (R164): The pipe's divider becomes free, and the group that waits for it rejoins the ready set. -/
  | dividerFree (die core pipe : Nat)
  /-- YIELD_REJOIN (R179): A yielded group rejoins the ready set after 8 issue opportunities or when no other group is ready. -/
  | yieldRejoin (agent : Nat)
  /-- PIGEONHOLE_AGE_RELEASE (R69): A pigeonhole is released when REFORM.AGE cycles have passed since its birth. -/
  | pigeonholeAgeRelease (die core hole : Nat)
  /-- PIGEONHOLE_SLOT_GRANT (R72): A released pigeonhole waiting for a slot takes a freed slot of its team. -/
  | pigeonholeSlotGrant (die core hole : Nat)
  /-- CROSSBAR_MOVE (R72): The register crossbar moves a released group's threads, and the group becomes ready. -/
  | crossbarMove (die core : Nat)
  /-- PREEMPT_REQUEST (R79): A pre-emption request reaches a team, which releases its pigeonholes and runs its groups to safe points. -/
  | preemptRequest (team : Nat)
  /-- SAFE_POINT_STOP (R79): A group reaching a safe point after a request stops, writes its frame and runs its save routine. -/
  | safePointStop (agent : Nat)
  /-- TEAM_SAVE_COMPLETE (R79): When every group and courier has saved, the die releases at pkg and frees the team's resources. -/
  | teamSaveComplete (team : Nat)
  /-- PREEMPT_TIMEOUT (R82): A team not saved within 2 × MAXSAFE cycles is killed together with its context. -/
  | preemptTimeout (team : Nat)
  /-- TEAM_RESUME (R83): A saved team is placed again, acquires at pkg, reloads its state and runs its restore routines. -/
  | teamResume (team die core : Nat)
  /-- CONTEXT_KILL (R84): A context is killed: its agents and queues stop and every home raises its generation. -/
  | contextKill (ctx : Nat)
  /-- HOME_GENERATION_RAISE (R84): A home raises a killed context's generation and discards its older writes from then on. -/
  | homeGenerationRaise (home ctx : Nat)
  /-- KILL_RESOURCES_FREE (R84): When every home has acknowledged the raise, the killed context's slots, scratchpad, tiles and pages become free. -/
  | killResourcesFree (ctx : Nat)
  /-- TEAM_END (R75): A team ends when its groups are finished and its courier contexts have exited with every command complete. -/
  | teamEnd (team : Nat)
  /-- ADMISSION_DECISION (R407): Admission examines one queued request, reads its header and prefix, and admits, refuses or leaves it waiting. -/
  | admissionDecision
  /-- PLACEMENT_STEP (R409): A distributor places the next fitting block group, reserving its slots and resources. -/
  | placementStep (die : Nat)
  /-- STEAL (R412): A distributor with room and no work takes half the unstarted block groups of its busiest sibling. -/
  | steal (launch thief : Nat)
  /-- PRIORITY_PREEMPTION (R414): The chip distributor pre-empts lower-class block groups to make room for a waiting one. -/
  | priorityPreemption (launch : Nat)
  /-- TIMETABLE_SLOT (R403): A timetable slot falls due and launches, or is handled as an overrun by its policy. -/
  | timetableSlot (entry : Nat)
  /-- HELD_INSTANCE_SUBMIT (R404): A held timetable instance is submitted once no overrun condition holds. -/
  | heldInstanceSubmit (entry : Nat)
  /-- WEIGHT_STORE_ZERO (R331): A weight-load launch on a die owned by another context zeros the weight store and takes ownership. -/
  | weightStoreZero (die ctx : Nat)
  /-- WS_REFRESH_WINDOW (R49): A weight-store bank's refresh window opens or closes on the package time base, stalling or releasing loads and writes. -/
  | wsRefreshWindow (die bank : Nat)
  /-- COMMAND_START (R108): An engine starts a queued command and checks its images, halting the queue with an error record if one is ill-formed. -/
  | commandStart (agent queue : Nat)
  /-- COPY_ENGINE_LINE (R286): The copy engine takes one 128-byte destination line from the commands in progress in rotation. -/
  | copyEngineLine (die core : Nat)
  /-- LAYOUT_ENGINE_COMMAND (R299): The cluster's layout engine takes the oldest lq command and writes its destination in batches. -/
  | layoutEngineCommand (die cluster : Nat)
  /-- EPILOGUE_START (R512): The epilogue unit starts a global epi command when it reaches the head of its eq. -/
  | epilogueStart (die core : Nat)
  /-- COMMAND_FAULT_RESUME (R276): A command stalled on a page fault resumes at its saved progress once firmware has served the fault. -/
  | commandFaultResume (agent queue : Nat)
  /-- COMMAND_COMPLETE (R275): A command completes, makes its writes visible at dom and updates its receipt. -/
  | commandComplete (agent queue : Nat)
  /-- COLL_RESTART (R306): A change of the live set rebuilds the collective trees and restarts the collectives in progress. -/
  | collRestart (ctx group : Nat)
  /-- MEMBER_LIVENESS_LOSS (R437): A member whose beacon relay or keepalive is missing on every path for 50 µs is no longer live. -/
  | memberLivenessLoss (pkg : Nat)
  /-- COLL_TABLE_WRITE (R436): Firmware writes a collective group table entry, which sets every member's count to zero. -/
  | collTableWrite (ctx group : Nat) (mask : W64)
  /-- DC_TRAP_ENTRY (R312): A record pending in the trap ring raises trap entry on the die controller at sys.trapvec. -/
  | dcTrapEntry (die : Nat)
  /-- TLB_ENTRY_DROP (R393): A translation cache drops an entry at any time, and a later access walks again. -/
  | tlbEntryDrop (die index : Nat)
  /-- READS (R382): A home receives a ReadS for an SC line and grants S or E by its directory state. -/
  | reads (die line : Nat)
  /-- READM (R382): A home receives a ReadM and grants M after invalidating or forwarding. -/
  | readm (die line : Nat)
  /-- UPGRADE (R382): A home receives an Upgrade from an S holder and grants M after every invalidation. -/
  | upgrade (die line : Nat)
  /-- WRITE_BACK (R382): A home receives an SC write-back, writes or discards it and acknowledges. -/
  | writeBack (die line : Nat)
  /-- CLEAN_EVICT (R382): A home receives a CleanEvict and removes the holder. -/
  | cleanEvict (die line : Nat)
  /-- INV (R381): A die receives an Inv, acknowledges it and drops its S copy. -/
  | inv (die line : Nat)
  /-- FWD_S (R381): A die receives a Fwd-S and supplies its data, downgrading to S. -/
  | fwdS (die line : Nat)
  /-- FWD_I (R381): A die receives a Fwd-I and supplies its data, going to I. -/
  | fwdI (die line : Nat)
  /-- SNOOP_ACK (R382): A home receives an acknowledgement of an invalidation or forward. -/
  | snoopAck (die line : Nat)
  /-- GRANT (R381): A die receives data with a grant and takes the line in the granted state. -/
  | grant (die line : Nat)
  /-- READRC (R383): A home receives a ReadRC, returns the line and adds the holder. -/
  | readrc (die line : Nat)
  /-- DIRTYNOTICE (R383): A home receives a DirtyNotice and sets the die's dirty bit. -/
  | dirtynotice (die line : Nat)
  /-- MERGE_WRITE_BACK (R383): A home receives a merge write-back, writes the masked bytes and clears the dirty bit. -/
  | mergeWriteBack (die line : Nat)
  /-- RECALL (R383): A die receives a recall and merges and drops its copy. -/
  | recall (die line : Nat)
  /-- REMOTE_ATOMIC_REQUEST (R230): A home receives a tagged remote atomic and performs it, or answers a resend from its replay window. -/
  | remoteAtomicRequest (r : RemReq)
  /-- REMOTE_ATOMIC_RESEND (R230): With no response at 250, 500 or 750 µs, the requester resends with the same tag and T0. -/
  | remoteAtomicResend (request : Nat)
  /-- ATOM_INDETERMINATE (R231): With no response within 1 ms, the lane completes INDETERMINATE and the group traps. -/
  | atomIndeterminate (request : Nat)
  /-- REPLAY_WINDOW_EXPIRY (R230): A home's replay window entry expires 1 ms after its performance. -/
  | replayWindowExpiry (pkg die core tag : Nat)
  /-- RESPONSE_ARRIVE (R425): A response reaches its requester and completes the request, or is discarded when it comes late. -/
  | responseArrive (request : Nat) (data : W64) (abort : Bool)
  /-- REQUEST_TIMEOUT (R425): A request with no response within sys.tmo aborts with cause TIMEOUT. -/
  | requestTimeout (request : Nat)
  /-- CREDIT_RETURN (R433): A request-slot credit returns and is granted to the oldest waiting request toward that package. -/
  | creditReturn (die core pkg : Nat)
  /-- SYNC_RELEASE_FORWARD (R430): A sync-plane release held at the I/O die is sent once earlier bulk writes are acknowledged. -/
  | syncReleaseForward (pkg : Nat)
  /-- FLIT_RECEIVE (R420): A router receives a flit, checks its CRC, requests a resend or forwards the packet. -/
  | flitReceive (x y : Nat) (h : FlitHdr)
  /-- PTB_CODE (R423): Every 10 ns the I/O die sends the package time base code, which every node takes. -/
  | ptbCode
  /-- TIME_BEACON (R424): A time beacon arrives every 1 µs and the package time base is disciplined to it. -/
  | timeBeacon (value : Nat)
  /-- PTP_MESSAGE (R443): The I/O die processes a PTP message with a hardware timestamp. -/
  | ptpMessage (value : Nat) (usable : Bool)
  /-- TIME_LOCK_LOSS (R424): After 10 s without beacon or PTP, the package clears its time-lock bit. -/
  | timeLockLoss
  /-- AFL_FRAME (R428): An AFL link frame arrives and is checked by FEC and CRC, and resent from replay on failure. -/
  | aflFrame (port seq : Nat) (bulk crcOk : Bool)
  /-- LANE_RETRAIN (R428): A lane that fails its FEC or needs too many resends is removed by retraining. -/
  | laneRetrain (port lane : Nat)
  /-- UCIE_MODULE_REMOVE (R419): A UCIe module that fails training or retry is removed. -/
  | ucieModuleRemove (node module : Nat)
  /-- NODE_FENCE (R422): The interposer closes a node's port, resets its modules and removes its power. -/
  | nodeFence (node : Nat)
  /-- WATCHDOG_FENCE (R426): A node with no valid time code or responsive module for 2 µs is fenced by its watchdog. -/
  | watchdogFence (node : Nat)
  /-- FENCE_NOTICE (R453): The I/O die sends the fence notice to every node and package and drops unsent egress of the fenced node. -/
  | fenceNotice (die : Nat)
  /-- HOME_FENCE_MARK (R454): A home processes a fence notice, sets its fence mark and marks the fenced die's lines LOST. -/
  | homeFenceMark (home die : Nat)
  /-- FENCE_CAPACITY_UPDATE (R453): The chip distributor takes the fenced die out of placement and raises cap.gen. -/
  | fenceCapacityUpdate (die : Nat)
  /-- FENCE_LAUNCH_HANDLING (R76): The fenced die's block groups enter the re-run list, or their launch ends with DIE_LOST. -/
  | fenceLaunchHandling (die : Nat)
  /-- SPARE_JOIN_START (R458): The I/O die powers a joining die, releases its clock and reset, and trains its modules. -/
  | spareJoinStart (die : Nat)
  /-- DIE_SELF_TEST (R458): A joining die self-tests, harvests failing cores and sets its hash variant. -/
  | dieSelfTest (die : Nat) (badCores slices : BitVec 16)
  /-- REJOIN_NOTICE (R458): A home receives a rejoin notice and clears its fence mark for the die. -/
  | rejoinNotice (home die : Nat)
  /-- JOIN_COMPLETE (R458): Firmware clears the fence and the die enters service with cap.gen raised. -/
  | joinComplete (die : Nat)
  /-- ERROR_DETECTED (R447): A check detects an error, which is corrected, retried or counted, with a health record. -/
  | errorDetected (e : ErrInfo) (corrected : Bool)
  /-- ERROR_RETRY (R447): The retry of an uncorrected error ends, classifying it as transient or lasting. -/
  | errorRetry (e : ErrInfo) (again : Bool)
  /-- HEALTH_CLEAR (R450): Writing 1 to a health register's CLR clears its counters. -/
  | healthClear (node : Nat)
  /-- REGISTER_WRITE (R450): Firmware writes a node register that has no behaviour of its own, such as THRESH. -/
  | registerWrite (node : Nat) (thresh : BitVec 8)
  /-- SLICE_FAILURE (R378): A failed L2 slice is isolated, its lines are lost, and the die's misses stall until a new variant is written. -/
  | sliceFailure (die slice : Nat)
  /-- STACK_LOSS (R385): A failed stack is entered in the loss map and cap.gen is raised. -/
  | stackLoss (stack : Nat)
  /-- CHANNEL_LOSS (R385): A failed channel's lines are entered in the loss map and cap.gen is raised. -/
  | channelLoss (home channel : Nat)
  /-- REHASH_UNIT_MOVE (R387): A forwarder recalls and moves one unit to its place under the new variant. -/
  | rehashUnitMove (home : Nat)
  /-- BOUNDARY_ADVANCE (R388): The forwarder advances the boundary pointer after every die has acknowledged the previous value. -/
  | boundaryAdvance (home : Nat)
  /-- REQUEST_RETRY (R388): A requester receives a retry and computes HomeOf again. -/
  | requestRetry (request : Nat)
  /-- TIER_MIGRATION (R390): A forwarder migrates a page between tiers, ending with a completion record. -/
  | tierMigration (m : MigCmd)
  /-- ETH_FRAME (R438): The host port receives an Ethernet frame, checks it and dispatches DHP, PTP, ARP or ND. -/
  | ethFrame (fcsOk : Bool) (kind : EthKind) (typ : Nat) (m : Dhp)
  /-- DHP_READ (R440): Performs a host read of device memory at home. -/
  | dhpRead (m : Dhp)
  /-- DHP_WRITE (R440): Performs a host write at home as a release at sys. -/
  | dhpWrite (m : Dhp)
  /-- DHP_LAUNCH (R440): Enters a launch request into its admission queue and returns a launch.id. -/
  | dhpLaunch (m : Dhp)
  /-- DHP_TTSET (R402): Writes bytes 0–35 of a timetable entry. -/
  | dhpTtset (m : Dhp)
  /-- DHP_TTSET_READ (R440): Returns a 64-byte timetable entry. -/
  | dhpTtsetRead (m : Dhp)
  /-- DHP_CAPQ (R440): Returns a capacity record. -/
  | dhpCapq (m : Dhp)
  /-- DHP_REDIRECT (R460): Starts a redirection, or reports the progress of one already running. -/
  | dhpRedirect (m : Dhp)
  /-- DHP_ACKONLY (R441): The device receives an acknowledgement and stops resending the acknowledged events. -/
  | dhpAckonly (session ack : Nat)
  /-- DHP_ACK_TIMER (R441): A side with nothing to send acknowledges within 50 µs with an ACKONLY message. -/
  | dhpAckTimer (session : Nat)
  /-- EVENT_SEND (R326): The I/O die sends a queued event as a DHP EVENT message. -/
  | eventSend (ctx : Nat)
  /-- EVENT_RESEND (R441): An EVENT not acknowledged within 1 ms is sent again. -/
  | eventResend (session seq : Nat)
  /-- REDIRECT_STREAM (R460): After the pre-emptions, the package streams its contexts and memory to the neighbour. -/
  | redirectStream (bytes : Nat)
  /-- ROUTE_DRAIN (R460): Each peer drains its routes to the redirecting package and acknowledges. -/
  | routeDrain (peer : Nat)
  /-- UNLATCH_PERMITTED (R465): After every peer acknowledges, UNLATCH_OK is asserted and unlatching is reported. -/
  | unlatchPermitted
  /-- REDIRECT_FAILURE (R462): With no working port for 1 s, or a refused stream, the redirection fails. -/
  | redirectFailure
  /-- I3C_ENTDAA (R463): The bus controller assigns the management endpoint a dynamic address. -/
  | i3cEntdaa (addr : BitVec 7)
  /-- IDENTITY_ROM_READ (R466): The bus reads identity ROM bytes, wrapping after byte 255. -/
  | identityRomRead (offset len : Nat)
  /-- GET_ID (R464): Returns the 256 identity ROM bytes. -/
  | getId
  /-- GET_CAP (R464): Returns a capacity record. -/
  | getCap (sel : Nat)
  /-- GET_HEALTH (R464): Returns a node's health register and up to 16 health records. -/
  | getHealth (node seq : Nat)
  /-- GET_THERMAL (R464): Returns the node temperatures, the power state and the module power. -/
  | getThermal
  /-- SET_POWER (R471): Sets the power state and the cap. -/
  | setPower (state cap : Nat)
  /-- MGMT_REDIRECT (R464): Starts or reports a redirection over the management bus. -/
  | mgmtRedirect (neighbour : Nat)
  /-- GET_ATTEST (R469): Returns a doubly signed attestation report. -/
  | getAttest (nonce : List Byte)
  /-- GET_STATUS (R464): Returns time lock, UNLATCH_OK, fatal and boot-slot status. -/
  | getStatus
  /-- MAIN_POWER_ON (R471): Main power is applied and the package enters BOOT. -/
  | mainPowerOn
  /-- BOOT_IMAGE_CHECK (R468): The boot ROM verifies an image slot and, on acceptance, the package enters RUN. -/
  | bootImageCheck (slot : Nat) (rollback : Nat) (hashOk rsaOk slhOk : Bool)
  /-- MAIN_POWER_OFF (R471): Main power is removed and only the identity ROM answers. -/
  | mainPowerOff
  /-- THERMAL_SAMPLE (R472): A node temperature sample causes a clock stretch, a fence or a thermal trip. -/
  | thermalSample (node temp : Nat)
  /-- REMOTE_TAG_AGE_OUT (R230): One of the 4,096 remote-atomic tags a core sent to a home in the last 1 ms ages out, and a stalled remote atomic may be sent. -/
  | remoteTagAgeOut (die core home : Nat)
  /-- ATOMIC_AT_HOME (R228): An RC or per-thread-stack atomic from a die of the same package reaches its home and is performed there. -/
  | atomicAtHome (die : Nat) (pa : Nat) (w64 : Bool) (op : AOp) (b : W64) (cmp : W64)
  /-- WS_PV_LINE_READ (R228): A home supplies a WS or PV line to a die, recording the die as owner for a PV line. -/
  | wsPvLineRead (die line : Nat)
  /-- WS_PV_WRITE_BACK (R347): A home receives forwarded WS combined bytes or a whole-line PV write-back and writes them, the last PV line to arrive winning. -/
  | wsPvWriteBack (die line : Nat)
  /-- LINESET_AT_HOME (R226): A lineset's full-line zero write reaches home, granting ownership without a read on SC and clearing the line's LOST mark. -/
  | linesetAtHome (die line : Nat)
  /-- AFL_PORT_UP (R398): A fabric port comes back up, so route entries regain it and summary word 5 and cap.gen change. -/
  | aflPortUp (port : Nat)
  /-- MCTP_MESSAGE (R464): An MCTP message arrives whole at the management endpoint and is queued, refused RESOURCES as a ninth command, or answered ILLEGAL for another enterprise number or an undefined command. -/
  | mctpMessage (vendor : BitVec 32) (cmd : Nat) (payload : List Byte)
deriving DecidableEq, Repr

end Sys2Proof
end

