-- ==== Sys2Proof/WellFormed.lean ====
section
/-! DEFINITION. Which instruction values stand for words the D940 executes: the checks of R14, R20, R96, R116–R120, R123,
R147–R154 that the operand types of `Instr` do not already make. A value that fails is the word that traps ILLEGAL at decode,
or no word at all. The part's own steps have no encoding and are always well formed. -/

namespace Sys2Proof

/-- A register index that names a pair (R14). -/
def evenReg (r : BitVec n) : Bool := r.toNat % 2 == 0

/-- A register index that names a quad (R14). -/
def quadReg (r : BitVec n) : Bool := r.toNat % 4 == 0

/-- Guard and safe-point flag (R116, R120): `g` says the opcode takes a guard, `f` that SC is free for the index. -/
def Ctl.ok (c : Ctl) (g f : Bool) : Bool :=
  (g || (!c.neg && c.k == 0)) && (f || c.safe.isNone)

/-- A literal for a 32-bit operand has bits [61:32] zero (R118). That another one traps ILLEGAL at decode is read into "legal" (log 16). -/
def lit32 (l : Lit) : Bool := decide (l.toNat < 2 ^ 32)

/-- Source b of a scalar instruction at its width (R14, R118). -/
def SSrc.ok (w64 : Bool) : SSrc → Bool
  | .reg r => !w64 || evenReg r
  | .imm _ => true
  | .lit l => w64 || lit32 l

/-- A scalar source of an opcode with no literal operand. -/
def SSrc.noLit : SSrc → Bool
  | .lit _ => false
  | _ => true

/-- Source b of a vector instruction at its width. -/
def VSrc.ok (w64 : Bool) : VSrc → Bool
  | .v r => !w64 || evenReg r
  | .s r => !w64 || evenReg r
  | .imm _ => true
  | .lit l => w64 || lit32 l

/-- A vector source of an opcode with no literal operand. -/
def VSrc.noLit : VSrc → Bool
  | .lit _ => false
  | _ => true

/-- Whether an immediate or literal of a scalar source satisfies `p` (R233, R235, R238, R254). -/
def SSrc.immAll (p : Nat → Bool) : SSrc → Bool
  | .reg _ => true
  | .imm i => p i.toNat
  | .lit l => p l.toNat

def SBin.ok (o : SBin) : Bool := (!o.w64 || (evenReg o.d && evenReg o.a)) && o.b.ok o.w64
def SUn.ok (o : SUn) : Bool := !o.w64 || (evenReg o.d && evenReg o.a)
def VBin.ok (o : VBin) : Bool := (!o.w64 || (evenReg o.d && evenReg o.a)) && o.b.ok o.w64
def VUn.ok (o : VUn) : Bool := !o.w64 || (evenReg o.d && evenReg o.a)

/-- Operands of a floating-point form: pairs in FP64 (R196). -/
def FBin.ok (f64 : Bool) (o : FBin) : Bool := (!f64 || (evenReg o.d && evenReg o.a)) && o.b.ok f64
def FUn.ok (f64 : Bool) (o : FUn) : Bool := !f64 || (evenReg o.d && evenReg o.a)

/-- Whether a branch target is one the encoding holds: always. -/
def Tgt.ok (_ : Tgt) : Bool := true

/-- SC is free for a safe-point index when the offset is a literal (R120, R150). -/
def Off.free : Off → Bool
  | .imm _ => false
  | .lit _ => true

def MemAddr.ok (m : MemAddr) : Bool := evenReg m.base

/-- A load or store of `k` registers (R219). -/
def MemOp.ok (k : Nat) (o : MemOp) : Bool := o.addr.ok && o.d.toNat % k == 0

/-- Whether a format occupies a register pair (R186). -/
def Fmt.wide : Fmt → Bool
  | .f64 | .i64 => true
  | _ => false

/-- Destinations that may round stochastically (R96). -/
def Fmt.srOk : Fmt → Bool
  | .f16 | .bf16 | .e4m3 | .e5m2 | .p4 => true
  | _ => false

def CvtOp.ok (o : CvtOp) : Bool :=
  o.src != .p4 && (o.rnd != .sr || o.dst.srOk) && (o.ty == .u || o.dst == .p4) &&
  (!o.dst.wide || evenReg o.d) && (!o.src.wide || evenReg o.a)

/-- Formats `zrd` converts to (R255). -/
def Fmt.zrdOk : Fmt → Bool
  | .f64 | .p4 | .i64 => false
  | _ => true

/-- Operations with a 64-bit form (R227). -/
def AOp.wideOk : AOp → Bool
  | .faddF32 | .faddBf2 => false
  | _ => true

def AtomOp.ok (o : AtomOp) : Bool :=
  evenReg o.a && (!o.w64 || (o.op.wideOk && evenReg o.d && evenReg o.b && evenReg o.c)) && (o.op == .cas || o.c == 0)

def AtomOp.redOk (o : AtomOp) : Bool := o.ok && o.op != .exch && o.op != .cas && o.d == 0

def TewC.ok (sr : Bool) (o : TewC) : Bool := sr || o.rnd != .sr

/-- A postbox operand of a command (R274). -/
def pbxOk : Option (BitVec 6) → Bool
  | none => true
  | some r => evenReg r

/-- System registers of 64 bits (R321). -/
def SysReg.wide : SysReg → Bool
  | .ptbase | .trapvec | .wsref | .csave => true
  | _ => false

/-- Special registers of 64 bits (R44). -/
def Spec.wide : Spec → Bool
  | .spoorAddr => true
  | _ => false

def SVDst.even : SVDst → Bool
  | .s r => evenReg r
  | .v r => evenReg r

/-! ## H words (R121, R123, R152) -/

def HVOp.signed : HVOp → Bool
  | .vshr | .vmin | .vmax => true
  | _ => false

def HFOp.rounds : HFOp → Bool
  | .fmin | .fmax => false
  | _ => true

def HalfOp.ok : HalfOp → Bool
  | .nop => true
  | .vi op sgn _ _ => op.signed || !sgn
  | .vf op rnd _ b => (if op.rounds then rnd != .sr else rnd == .rn) && (match b with | .imm _ => false | _ => true)
  | .vh _ _ rnd _ _ => rnd != .sr
  | .si _ _ b => (match b with | .v _ => false | _ => true)
  | .kp _ _ _ => true

/-- The vector registers a half reads, DST first (R123). -/
def HalfOp.vreads : HalfOp → List (BitVec 8)
  | .vi _ _ d b => d :: (match b with | .v r => [r] | _ => [])
  | .vf _ _ d b => d :: (match b with | .v r => [r] | _ => [])
  | .vh _ _ _ d b => [d, b]
  | _ => []

/-- The vector destination of a half. -/
def HalfOp.vdst : HalfOp → Option (BitVec 8)
  | .vi _ _ d _ | .vf _ _ d _ | .vh _ _ _ d _ => some d
  | _ => none

/-- Register bank of a vector register (R123). -/
def bank (r : BitVec 8) : Nat := r.toNat % 4

/-- The bank and destination rules of R123 for two halves. -/
def HalfOp.compatible (a b : HalfOp) : Bool :=
  (List.range 4).all (fun k => ((a.vreads ++ b.vreads).filter (fun r => bank r == k)).length ≤ 2) &&
  (match a.vdst, b.vdst with | some x, some y => bank x != bank y | _, _ => true) &&
  (match a, b with
   | .si _ x _, .si _ y _ => x != y
   | .kp _ x _, .kp _ y _ => x != y
   | _, _ => true)

def Half.ok (h : Half) : Bool := h.op.ok && (h.op != .nop || h.k == 0)

/-! ## Instructions -/

/-- Well-formedness of an instruction. -/
def Instr.wf : Instr → Bool
  | .nop c | .exit c | .yield c => c.ok true true
  | .reform c va => c.ok false true && evenReg va
  | .bra c t => c.ok true true && t.ok
  | .brs c _ _ t | .brk c _ t | .loop c _ t => c.ok true true && t.ok
  | .join c => c.ok false true
  | .call c d t => c.ok false true && evenReg d && t.ok
  | .ret c sa => c.ok false true && evenReg sa
  | .jmpr c sa => c.ok true true && evenReg sa
  | .movi c w64 d b => c.ok true true && (!w64 || d.even) && b.ok w64
  | .sadd c o | .ssub c o | .smul c o | .sdivu c o | .sand c o | .sor c o | .sxor c o | .sshl c o | .sshr c o
  | .ssra c o | .sbfe c o => c.ok true true && o.ok
  | .smulh c _ o | .smin c _ o | .smax c _ o => c.ok true true && o.ok
  | .sclz c o | .spopc c o => c.ok true true && o.ok
  | .sbfi c o sc => c.ok true false && o.ok && (!o.w64 || evenReg sc)
  | .slea c _ o _ => c.ok true false && evenReg o.d && evenReg o.a && o.b.ok o.w64
  | .ssel c o _ => c.ok true false && o.ok
  | .scmp c _ w64 _ sa b => c.ok true true && (!w64 || evenReg sa) && b.ok w64
  | .movs c sel d => c.ok true true && (!sel.wide || d.even)
  | .kand c _ _ _ | .kor c _ _ _ | .kxor c _ _ _ | .knot c _ _ | .kmov c _ _ => c.ok true true
  | .kpopc c _ _ | .kfirst c _ _ | .kany c _ _ | .kall c _ _ => c.ok true true
  | .vadd c _ o | .vsub c _ o | .vmul c _ o | .vmulh c _ o | .vshr c _ o | .vmin c _ o | .vmax c _ o => c.ok true true && o.ok
  | .vand c o | .vor c o | .vxor c o | .vshl c o | .vsra c o => c.ok true true && o.ok
  | .vnot c o | .vabs c o | .vclz c o | .vpopc c o | .vbrev c o => c.ok true true && o.ok
  | .vsat c _ _ o => c.ok true true && o.ok
  | .vmad c _ o vc | .vbfe c _ o vc => c.ok true false && o.ok && (!o.w64 || evenReg vc)
  | .vbfi c o vc => c.ok true false && o.ok && (!o.w64 || evenReg vc)
  | .vcmp c _ w64 _ va b => c.ok true true && (!w64 || evenReg va) && b.ok w64
  | .vsel c o _ => c.ok true false && o.ok
  | .faddF32 c rnd o | .fsubF32 c rnd o | .fmulF32 c rnd o => c.ok true true && rnd != .sr && o.ok false
  | .fmaF32 c rnd o _ => c.ok true false && rnd != .sr && o.ok false
  | .fminF32 c o | .fmaxF32 c o => c.ok true true && o.ok false
  | .fabsF32 c _ | .fnegF32 c _ | .fclassF32 c _ => c.ok true true
  | .fcmpF32 c _ _ _ b => c.ok true true && b.ok false
  | .faddF64 c rnd o | .fsubF64 c rnd o | .fmulF64 c rnd o => c.ok true true && rnd != .sr && o.ok true
  | .fmaF64 c rnd o vc => c.ok true false && rnd != .sr && o.ok true && evenReg vc
  | .fminF64 c o | .fmaxF64 c o => c.ok true true && o.ok true
  | .fabsF64 c o | .fnegF64 c o => c.ok true true && o.ok true
  | .fclassF64 c o => c.ok true true && evenReg o.a
  | .fcmpF64 c _ _ va b => c.ok true true && evenReg va && b.ok true
  | .hadd2 c _ rnd o | .hmul2 c _ rnd o => c.ok true true && rnd != .sr && o.ok false
  | .hfma2 c _ rnd o _ => c.ok true false && rnd != .sr && o.ok false
  | .hmin2 c _ o | .hmax2 c _ o => c.ok true true && o.ok false
  | .frcp c _ | .frsq c _ | .fsqrt c _ | .fexp2 c _ | .flog2 c _ | .fsin c _ | .fcos c _ | .ftanh c _ => c.ok true true
  | .cvt c o => c.ok true false && o.ok
  | .p4pack c _ => c.ok true true
  | .p4unpack c rnd _ _ _ => c.ok true true && rnd != .sr
  | .vnbr c _ _ _ | .vred c _ _ | .vscan c _ _ _ => c.ok true true
  | .vshfl c _ o | .vbcast c o => c.ok true true && o.b.noLit
  | .vflags c _ => c.ok true true
  | .hWord ha hb => ha.ok && hb.ok && ha.op.compatible hb.op
  | .ldB8 c o | .ldB16 c o | .ldB32 c o | .stB8 c o | .stB16 c o | .stB32 c o => c.ok true o.addr.off.free && o.ok 1
  | .ldB64 c o | .stB64 c o => c.ok true o.addr.off.free && o.ok 2
  | .ldB128 c o | .stB128 c o => c.ok true o.addr.off.free && o.ok 4
  | .lduB32 c o => c.ok true o.off.free && evenReg o.base
  | .lduB64 c o => c.ok true o.off.free && evenReg o.base && evenReg o.d
  | .prefetch c _ m | .clean c m | .inval c m | .lineset c m => c.ok true m.off.free && m.ok
  | .atom c o => c.ok true (o.op != .cas) && o.ok
  | .red c o => c.ok true true && o.redOk
  | .fenceAcq c _ | .fenceRel c _ | .fenceAr c _ | .fenceSc c _ => c.ok true true
  | .pbinit c sc sa b => c.ok true true && sc != .grp && evenReg sa && b.ok false
  | .pbexpect c sa b | .discard c sa b => c.ok true true && evenReg sa && b.ok false
  | .pbwait c sa b => c.ok true true && evenReg sa && b.ok false && b.immAll (· ≤ 1)
  | .pgclass c sa b => c.ok true true && evenReg sa && b.ok false && b.immAll (· ≤ 3)
  | .pbarrive c sa | .tlbiPage c sa => c.ok true true && evenReg sa
  | .pbtest c _ sa => c.ok true true && evenReg sa
  | .barArrive c _ cnt | .barSync c _ cnt => c.ok true true && cnt.noLit && cnt.immAll (fun n => 1 ≤ n && n ≤ 64)
  | .gbar c => c.ok false true
  | .tlbiCtx c | .tlbiAll c => c.ok true true
  | .gangSet c _ => c.ok false true
  | .mma c _ _ _ _ _ => c.ok false true
  | .zclr c _ => c.ok true true
  | .zwr c _ _ row => c.ok true true && row.noLit && row.immAll (· ≤ 63)
  | .zrd c o => c.ok true true && o.row.noLit && o.row.immAll (· ≤ 63) && o.fmt.zrdOk && o.rnd != .sr
  | .epi c _ => c.ok true false
  | .ttset c _ sa sel => c.ok true true && evenReg sa && sel.toNat ≤ 17
  | .ttld c _ sa => c.ok true true && evenReg sa
  | .ttst c _ sb => c.ok true true && evenReg sb
  | .ttidx c _ _ _ _ => c.ok true true
  | .tewAdd c o _ | .tewSub c o _ | .tewMul c o _ | .tewMin c o _ | .tewMax c o _ => c.ok true true && o.ok false
  | .tewFma c o _ _ | .tewSelect c o _ _ => c.ok true false && o.ok false
  | .tewScale c o _ => c.ok true true && o.ok false
  | .tewCvt c o => c.ok true true && o.ok true
  | .tewExp2 c o | .tewRelu c o | .tewCopy c o => c.ok true true && o.ok false
  | .tewRrow c _ o | .tewRcol c _ o => c.ok true true && o.ok false
  | .copy c o | .copyDl c o _ => c.ok true o.pbx.isNone && pbxOk o.pbx
  | .copySeal c o => c.ok true o.last.isNone
  | .layout c o => c.ok true o.pbx.isNone && pbxOk o.pbx && evenReg o.sb
  | .qwait c mask => c.ok true true && mask != 0
  | .qfence c mask => c.ok true true && mask != 0
  | .qstat c d _ => c.ok true true && evenReg d
  | .dlchk c _ _ => c.ok true true
  | .coll c _ => c.ok true true
  | .cgmem c d _ => c.ok true true && evenReg d
  | .trap c _ | .evsig c _ => c.ok true true
  | .eret c => c.ok false true
  | .mfs c sel d => c.ok true true && (!sel.wide || evenReg d)
  | .mts c sel sb => c.ok true true && (!sel.wide || evenReg sb)
  | .launch c sa sb _ => c.ok true false && evenReg sa && evenReg sb
  | .capq c d sel => c.ok true true && (sel.toNat ≤ 21 || sel == 255) && d.toNat % 8 == 0
  | .ptbrd c d => c.ok true true && evenReg d
  | .ctxsave c _ | .ctxrest c _ => c.ok false true
  | .safepoint c => c.ok false true && c.safe.isSome
  | .wsld c sa _ _ => c.ok true false && evenReg sa
  | _ => true

end Sys2Proof
end

