-- ==== Sys2Proof/Decode.lean ====
section
/-! DEFINITION. The words of the D940: the fields of an F word (R115), its L word (R118), the halves of an H word (R121), the
opcode maps of R147–R152, and the decoder and the encoder over them. The decoder reads the fields of a word into an
instruction, and accepts it only when the instruction is well formed and its own encoding is that word again; so a reserved
or unused bit that is set is refused (R148, R154), and no word has two readings. -/

namespace Sys2Proof

/-- Why a word is not an instruction; every one is an ILLEGAL at decode (R154). -/
inductive Reject
  /-- Fewer bytes than a word. -/
  | truncated
  /-- KIND 0b11 (R113). -/
  | reservedKind
  /-- An L word where an instruction is expected (R119). -/
  | strayLiteral
  /-- LIT = 1 and the next word is no L word (R119). -/
  | missingLiteral
  /-- An F opcode R149 does not assign. -/
  | undefinedOpcode
  /-- A reserved sub-field code (R147). -/
  | reservedCode
  /-- A bit set in a field the opcode leaves unused, or a literal it does not take (R115, R119, R148). -/
  | strayBits
  /-- A register, guard or flag outside what the opcode allows (R14, R20, R116, R120). -/
  | illFormed
  /-- An undefined H opcode or half (R152). -/
  | badHalf
deriving DecidableEq, Repr

/-- The fields of an F word with its literal (R115, R118). -/
structure FWord where
  stall : BitVec 4
  sp    : Bool
  gn    : Bool
  gk    : BitVec 3
  opc   : BitVec 10
  dst   : BitVec 8
  sa    : BitVec 8
  sb    : BitVec 8
  sc    : BitVec 8
  mod   : BitVec 10
  lit   : Option Lit
deriving DecidableEq, Repr

/-- One bit of a field. -/
def bit1 (b : Bool) : BitVec 1 := BitVec.ofBool b

/-- The F word of a field record (R115). -/
def FWord.word (f : FWord) : W64 :=
  0#2 ++ f.stall ++ bit1 f.sp ++ bit1 f.lit.isSome ++ bit1 f.gn ++ f.gk ++ f.opc ++ f.dst ++ f.sa ++ f.sb ++ f.sc ++ f.mod

/-- The fields of an F word; the literal is that of the word that follows. -/
def FWord.ofWord (w : W64) (lit : Option Lit) : FWord where
  stall := w.extractLsb' 58 4
  sp := w.getLsbD 57
  gn := w.getLsbD 55
  gk := w.extractLsb' 52 3
  opc := w.extractLsb' 42 10
  dst := w.extractLsb' 34 8
  sa := w.extractLsb' 26 8
  sb := w.extractLsb' 18 8
  sc := w.extractLsb' 10 8
  mod := w.extractLsb' 0 10
  lit := lit

/-! ## Sub-field codes (R26, R44, R46, R147, R148): lists in code order -/

/-- The code of a value is its place in the list. -/
def codeIn [BEq α] (l : List α) (x : α) : Nat := l.idxOf x

def rnds : List Rnd := [.rn, .rz, .ru, .rd, .sr]
def scopes : List Scope := [.grp, .team, .die, .pkg, .dom, .sys]
def aords : List (Option AOrd) := [none, some .acq, some .rel, some .ar]
def hints : List Hint := [.none, .na, .stream]
def scales : List (Option Scale) := [none, some .x1, some .x2, some .x4, some .x8, some .x16]
def iccs : List ICC := [.eq, .ne, .lt, .le, .gt, .ge, .ltu, .leu, .gtu, .geu]
def fccs : List FCC := [.eq, .ne, .lt, .le, .gt, .ge, .num, .nan]
def p4tys : List P4Ty := [.u, .f, .p, .h]
def specs : List Spec := [.laneId, .grpId, .grpWidth, .teamId, .teamGroups, .bgX, .bgY, .bgZ, .bgCount, .launchId,
  .dieId, .coreId, .ctxId, .ptbLo, .ptbHi, .capGen, .spoorFlag, .spoorAddr]
def sysRegs : List SysReg := [.ptbase, .hashsel, .mxchk, .shadow, .ckscb, .trapvec, .spoor, .wsref, .tmo, .ctxsel, .cause, .csave]
def aops : List AOp := [.add, .sub, .minU, .maxU, .minS, .maxS, .and, .or, .xor, .exch, .cas, .faddF32, .faddBf2]
def redOps : List RedOp := [.add, .minS, .maxS, .minU, .maxU, .and, .or, .xor, .fadd, .fmin, .fmax]
def shModes : List ShMode := [.idx, .xor, .up, .down]
def satTs : List SatT := [.i8, .u8, .i16, .i32]
def mfmts : List MFmt := [.bf16, .f16, .f8e4, .f8e5, .i8, .p4]
def acts : List Act := [.none, .relu, .lrelu, .tanh, .sigm, .silu]
def treds : List TRed := [.add, .max, .min]
def ckinds : List CKind := [.ar, .rs, .ag, .bcast]
def cops : List COp := [.sum, .max, .mean]
def fmts : List Fmt := [.f64, .f32, .f16, .bf16, .e4m3, .e5m2, .p4, .i8, .u8, .i16, .i32, .i64]

/-- Format codes run from 0x01 (R26). -/
def Fmt.code (f : Fmt) : Nat := codeIn fmts f + 1

/-- The format of a code (R26). -/
def Fmt.ofCode (n : Nat) : Option Fmt := if n = 0 then none else fmts[n - 1]?

/-! ## Operands in fields -/

def SSrc.sb : SSrc → BitVec 8
  | .reg r => r.setWidth 8
  | .imm i => i
  | .lit _ => 0

def SSrc.bsel : SSrc → BitVec 2
  | .reg _ => 0
  | _ => 2

def SSrc.lit? : SSrc → Option Lit
  | .lit l => some l
  | _ => none

/-- Whether the row operand is an immediate (X and Y classes, bit 9). -/
def SSrc.isImm : SSrc → Bool
  | .reg _ => false
  | _ => true

def VSrc.sb : VSrc → BitVec 8
  | .v r => r
  | .s r => r.setWidth 8
  | .imm i => i
  | .lit _ => 0

def VSrc.bsel : VSrc → BitVec 2
  | .v _ => 0
  | .s _ => 1
  | _ => 2

def VSrc.lit? : VSrc → Option Lit
  | .lit l => some l
  | _ => none

def Tgt.sb : Tgt → BitVec 8
  | .off8 o => o
  | .off64 _ => 0

def Tgt.lit? : Tgt → Option Lit
  | .off8 _ => none
  | .off64 l => some l

def Off.lit? : Off → Option Lit
  | .imm _ => none
  | .lit l => some l

def SVDst.field : SVDst → BitVec 8
  | .s r => r.setWidth 8
  | .v r => r

def SVDst.dcls : SVDst → Bool
  | .s _ => false
  | .v _ => true

/-- SC of a memory word: the offset, or the safe-point index beside a literal (R150). -/
def Off.sc (c : Ctl) : Off → BitVec 8
  | .imm i => i
  | .lit _ => c.safe.getD 0

/-- SB of a memory word: the index register (R216). -/
def MemAddr.sb (m : MemAddr) : BitVec 8 := (m.index.map (·.2)).getD 0

/-- IDX of a memory word. -/
def MemAddr.idx (m : MemAddr) : BitVec 3 := BitVec.ofNat 3 (codeIn scales (m.index.map (·.1)))

/-- SC of a courier word with an optional register there, else the safe-point index. -/
def optSc (c : Ctl) (r : Option (BitVec 6)) : BitVec 8 := (r.map (·.setWidth 8)).getD (c.safe.getD 0)

/-- Source b of a scalar class (R147, R150). -/
def FWord.ssrc (f : FWord) : Option SSrc :=
  match (f.mod.extractLsb' 8 2).toNat with
  | 0 => some (.reg (f.sb.setWidth 6))
  | 2 => some (match f.lit with | none => .imm f.sb | some l => .lit l)
  | _ => none

/-- Source b under an IMM bit (Y and X classes). -/
def FWord.yimm (f : FWord) : SSrc :=
  if f.mod.getLsbD 9 then (match f.lit with | none => .imm f.sb | some l => .lit l) else .reg (f.sb.setWidth 6)

/-- Source b of a vector class. -/
def FWord.vsrc (f : FWord) : Option VSrc :=
  match (f.mod.extractLsb' 8 2).toNat with
  | 0 => some (.v f.sb)
  | 1 => some (.s (f.sb.setWidth 6))
  | 2 => some (match f.lit with | none => .imm f.sb | some l => .lit l)
  | _ => none

/-- The control part of a word; a safe-point index is read from SC whenever SP is set (R120). -/
def FWord.ctl (f : FWord) : Ctl := { stall := f.stall, safe := if f.sp then some f.sc else none, neg := f.gn, k := f.gk }

/-- The branch target of a word (R171). -/
def FWord.tgt (f : FWord) : Tgt := match f.lit with | none => .off8 f.sb | some l => .off64 l

/-- The offset of a memory word (R216). -/
def FWord.off (f : FWord) : Off := match f.lit with | none => .imm f.sc | some l => .lit l
def FWord.w64 (f : FWord) : Bool := f.mod.getLsbD 0
def FWord.sgn (f : FWord) : Bool := f.mod.getLsbD 1
def FWord.d6 (f : FWord) : BitVec 6 := f.dst.setWidth 6
def FWord.a6 (f : FWord) : BitVec 6 := f.sa.setWidth 6
def FWord.b6 (f : FWord) : BitVec 6 := f.sb.setWidth 6
def FWord.c6 (f : FWord) : BitVec 6 := f.sc.setWidth 6
def FWord.d3 (f : FWord) : BitVec 3 := f.dst.setWidth 3
def FWord.a3 (f : FWord) : BitVec 3 := f.sa.setWidth 3
def FWord.b3 (f : FWord) : BitVec 3 := f.sb.setWidth 3
def FWord.c3 (f : FWord) : BitVec 3 := f.sc.setWidth 3
def FWord.sbin (f : FWord) : Option SBin := f.ssrc.map (fun b => ⟨f.w64, f.d6, f.a6, b⟩)
def FWord.sun (f : FWord) : SUn := ⟨f.w64, f.d6, f.a6⟩
def FWord.vbin (f : FWord) : Option VBin := f.vsrc.map (fun b => ⟨f.w64, f.dst, f.sa, b⟩)
def FWord.vun (f : FWord) : VUn := ⟨f.w64, f.dst, f.sa⟩
def FWord.fbin (f : FWord) : Option FBin := f.vsrc.map (fun b => ⟨f.dst, f.sa, b⟩)
def FWord.fun1 (f : FWord) : FUn := ⟨f.dst, f.sa⟩
def FWord.svd (f : FWord) : SVDst := if f.mod.getLsbD 7 then .v f.dst else .s f.d6
def FWord.rnd (f : FWord) : Option Rnd := rnds[(f.mod.extractLsb' 0 3).toNat]?
def FWord.icc (f : FWord) (at_ : Nat) : Option ICC := iccs[(f.mod.extractLsb' at_ 4).toNat]?
def FWord.fcc (f : FWord) : Option FCC := fccs[(f.mod.extractLsb' 4 4).toNat]?
def FWord.scope (f : FWord) (at_ : Nat) : Option Scope := scopes[(f.mod.extractLsb' at_ 3).toNat]?
def FWord.rop (f : FWord) : Option RedOp := redOps[(f.mod.extractLsb' 0 4).toNat]?
def FWord.hint (f : FWord) : Option Hint := hints[(f.mod.extractLsb' 8 2).toNat]?

def FWord.addr (f : FWord) : Option MemAddr :=
  (scales[(f.mod.extractLsb' 0 3).toNat]?).map (fun s => ⟨f.a6, s.map (fun x => (x, f.sb)), f.off⟩)

/-- `.acq` or `.rel` of a load or store: `code` is the one the opcode may carry (R147). -/
def FWord.mord (f : FWord) (code : Nat) : Option (Option Scope) :=
  let o := (f.mod.extractLsb' 3 2).toNat
  if o = 0 then some none else if o = code then (f.scope 5).map some else none

def FWord.memOp (f : FWord) (code : Nat) : Option MemOp := do
  let a ← f.addr
  let h ← f.hint
  let o ← f.mord code
  return ⟨f.dst, a, h, o⟩

def FWord.ldu (f : FWord) : Option LduOp := (f.mord 1).map (fun o => ⟨f.d6, f.a6, f.off, o⟩)

def FWord.atomOp (f : FWord) : Option AtomOp := do
  let op ← aops[(f.mod.extractLsb' 0 4).toNat]?
  let ord ← aords[(f.mod.extractLsb' 4 2).toNat]?
  let sc ← f.scope 6
  return ⟨f.mod.getLsbD 9, op, ord.map (fun o => (o, sc)), f.dst, f.sa, f.sb, if op == .cas then f.sc else 0⟩

def FWord.tewC (f : FWord) : Option TewC := f.rnd.map (fun r => ⟨f.mod.getLsbD 3, r, f.d6, f.a6⟩)

def FWord.copyOp (f : FWord) : CopyOp :=
  { trans := f.mod.getLsbD 5, pad := f.mod.getLsbD 6, blk := f.mod.getLsbD 7,
    pbx := if f.mod.getLsbD 8 then some f.c6 else none, rcpt := f.mod.extractLsb' 2 3, queue := f.mod.extractLsb' 0 2,
    td := f.d6, ta := f.a6 }

/-! ## MOD layouts of R148 -/

def modS (bsel : BitVec 2) (dcls : Bool) (sub : BitVec 4) (sgn w64 : Bool) : BitVec 10 :=
  bsel ++ bit1 dcls ++ 0#1 ++ sub ++ bit1 sgn ++ bit1 w64

def modV (bsel : BitVec 2) (sub : BitVec 4) (sat sgn w64 : Bool) : BitVec 10 :=
  bsel ++ 0#1 ++ sub ++ bit1 sat ++ bit1 sgn ++ bit1 w64

def modFP (bsel : BitVec 2) (cc : BitVec 4) (bf : Bool) (rnd : Rnd) : BitVec 10 :=
  bsel ++ cc ++ bit1 bf ++ BitVec.ofNat 3 (codeIn rnds rnd)

def modCV (ty : P4Ty) (sat : Bool) (rnd : Rnd) : BitVec 10 :=
  0#4 ++ BitVec.ofNat 2 (codeIn p4tys ty) ++ bit1 sat ++ BitVec.ofNat 3 (codeIn rnds rnd)

def modL (bsel : BitVec 2) (excl : Bool) (op : BitVec 4) : BitVec 10 := bsel ++ 0#2 ++ bit1 excl ++ 0#1 ++ op

/-- ORD and SCOPE of a load or store, with the code its ordering has. -/
def modM (h : Hint) (ord : Option Scope) (code : BitVec 2) (idx : BitVec 3) : BitVec 10 :=
  BitVec.ofNat 2 (codeIn hints h) ++ (match ord with | none => 0#3 | some s => BitVec.ofNat 3 (codeIn scopes s)) ++
    (if ord.isSome then code else 0#2) ++ idx

def modFence (s : Scope) (kind : BitVec 2) : BitVec 10 := 0#2 ++ BitVec.ofNat 3 (codeIn scopes s) ++ 0#3 ++ kind

def modA (o : AtomOp) : BitVec 10 :=
  bit1 o.w64 ++ (match o.ord with | none => 0#3 | some (_, s) => BitVec.ofNat 3 (codeIn scopes s)) ++
    BitVec.ofNat 2 (codeIn aords (o.ord.map (·.1))) ++ BitVec.ofNat 4 (codeIn aops o.op)

def modY (imm : Bool) (scope : BitVec 3) (kind : BitVec 2) : BitVec 10 := bit1 imm ++ 0#1 ++ scope ++ 0#3 ++ kind

def modZrd (o : ZrdOp) : BitVec 10 :=
  bit1 o.row.isImm ++ bit1 o.sat ++ BitVec.ofNat 5 o.fmt.code ++ BitVec.ofNat 3 (codeIn rnds o.rnd)

def modMma (acc : Bool) (f : MFmt) : BitVec 10 := 0#6 ++ bit1 acc ++ BitVec.ofNat 3 (codeIn mfmts f)

def modE (o : EpiOp) : BitVec 10 :=
  o.rcpt ++ BitVec.ofNat 3 (codeIn acts o.act) ++ bit1 o.sat ++ BitVec.ofNat 3 (codeIn rnds o.rnd)

def modW (red : BitVec 2) (o : TewC) : BitVec 10 := 0#4 ++ red ++ bit1 o.sat ++ BitVec.ofNat 3 (codeIn rnds o.rnd)

def modQ (last pbx blk pad trans : Bool) (rcpt : BitVec 3) (q : BitVec 2) : BitVec 10 :=
  bit1 last ++ bit1 pbx ++ bit1 blk ++ bit1 pad ++ bit1 trans ++ rcpt ++ q

def modCopy (o : CopyOp) : BitVec 10 := modQ false o.pbx.isSome o.blk o.pad o.trans o.rcpt o.queue

def modK (o : CollOp) : BitVec 10 :=
  0#3 ++ o.rcpt ++ BitVec.ofNat 2 (codeIn cops o.op) ++ BitVec.ofNat 2 (codeIn ckinds o.kind)

/-! ## Encoding tables (R149) -/

/-- A word with only its opcode and control part: SC holds the safe-point index (R120). -/
def FWord.base (c : Ctl) (opc : Nat) : FWord :=
  { stall := c.stall, sp := c.safe.isSome, gn := c.neg, gk := c.k, opc := BitVec.ofNat 10 opc,
    dst := 0, sa := 0, sb := 0, sc := c.safe.getD 0, mod := 0, lit := none }

/-- `sD, sA, b`. -/
def FWord.encS (c : Ctl) (opc : Nat) (o : SBin) (sub : BitVec 4) (sgn : Bool) : FWord :=
  { FWord.base c opc with dst := o.d.setWidth 8, sa := o.a.setWidth 8, sb := o.b.sb, mod := modS o.b.bsel false sub sgn o.w64, lit := o.b.lit? }

/-- `vD, vA, b`. -/
def FWord.encV (c : Ctl) (opc : Nat) (o : VBin) (sat sgn : Bool) : FWord :=
  { FWord.base c opc with dst := o.d, sa := o.a, sb := o.b.sb, mod := modV o.b.bsel 0 sat sgn o.w64, lit := o.b.lit? }

/-- `vD, vA`. -/
def FWord.encVU (c : Ctl) (opc : Nat) (o : VUn) (sub : BitVec 4) (sgn : Bool) : FWord :=
  { FWord.base c opc with dst := o.d, sa := o.a, mod := modV 0 sub false sgn o.w64 }

/-- Floating `vD, vA, b`. -/
def FWord.encF (c : Ctl) (opc : Nat) (o : FBin) (bf : Bool) (rnd : Rnd) : FWord :=
  { FWord.base c opc with dst := o.d, sa := o.a, sb := o.b.sb, mod := modFP o.b.bsel 0 bf rnd, lit := o.b.lit? }

/-- Floating `vD, vA`, or any other two-register word with MOD zero. -/
def FWord.encFU (c : Ctl) (opc : Nat) (o : FUn) : FWord := { FWord.base c opc with dst := o.d, sa := o.a }

/-- Loads and stores; `code` is the ordering's code. -/
def FWord.encM (c : Ctl) (opc : Nat) (d : BitVec 8) (m : MemAddr) (h : Hint) (ord : Option Scope) (code : BitVec 2) : FWord :=
  { FWord.base c opc with dst := d, sa := m.base.setWidth 8, sb := m.sb, sc := m.off.sc c, mod := modM h ord code m.idx, lit := m.off.lit? }

/-- `ldu`. -/
def FWord.encLdu (c : Ctl) (opc : Nat) (o : LduOp) : FWord :=
  { FWord.base c opc with dst := o.d.setWidth 8, sa := o.base.setWidth 8, sc := o.off.sc c, mod := modM .none o.ord 1 0, lit := o.off.lit? }

/-- `atom` and `red`. -/
def FWord.encA (c : Ctl) (opc : Nat) (o : AtomOp) : FWord :=
  { FWord.base c opc with dst := o.d, sa := o.a, sb := o.b, sc := if o.op == .cas then o.c else c.safe.getD 0, mod := modA o }

/-- `tew`. -/
def FWord.encW (c : Ctl) (opc : Nat) (o : TewC) (sb : BitVec 6) (red : BitVec 2) : FWord :=
  { FWord.base c opc with dst := o.td.setWidth 8, sa := o.ta.setWidth 8, sb := sb.setWidth 8, mod := modW red o }

/-- The fields of an instruction, an H word and the steps that are no words apart (R149). -/
def Instr.fields : Instr → Option FWord
  | .nop c => some (FWord.base c 0x000)
  | .exit c => some (FWord.base c 0x001)
  | .yield c => some (FWord.base c 0x002)
  | .reform c va => some ({ FWord.base c 0x003 with sa := va })
  | .bra c t => some ({ FWord.base c 0x004 with sb := t.sb, lit := t.lit? })
  | .brs c z sa t => some ({ FWord.base c 0x005 with sa := sa.setWidth 8, sb := t.sb, mod := 0#9 ++ bit1 z, lit := t.lit? })
  | .brk c ka t => some ({ FWord.base c 0x006 with sa := ka.setWidth 8, sb := t.sb, lit := t.lit? })
  | .join c => some (FWord.base c 0x007)
  | .call c d t => some ({ FWord.base c 0x008 with dst := d.setWidth 8, sb := t.sb, lit := t.lit? })
  | .ret c sa => some ({ FWord.base c 0x009 with sa := sa.setWidth 8 })
  | .jmpr c sa => some ({ FWord.base c 0x00a with sa := sa.setWidth 8 })
  | .loop c sa t => some ({ FWord.base c 0x00b with sa := sa.setWidth 8, sb := t.sb, lit := t.lit? })
  | .movi c w64 d b => some ({ FWord.base c 0x040 with dst := d.field, sb := b.sb, mod := modS b.bsel d.dcls 0 false w64, lit := b.lit? })
  | .sadd c o => some (FWord.encS c 0x041 o 0 false)
  | .ssub c o => some (FWord.encS c 0x042 o 0 false)
  | .smul c o => some (FWord.encS c 0x043 o 0 false)
  | .smulh c sgn o => some (FWord.encS c 0x044 o 0 sgn)
  | .sdivu c o => some (FWord.encS c 0x045 o 0 false)
  | .sand c o => some (FWord.encS c 0x046 o 0 false)
  | .sor c o => some (FWord.encS c 0x047 o 0 false)
  | .sxor c o => some (FWord.encS c 0x048 o 0 false)
  | .sshl c o => some (FWord.encS c 0x049 o 0 false)
  | .sshr c o => some (FWord.encS c 0x04a o 0 false)
  | .ssra c o => some (FWord.encS c 0x04b o 0 false)
  | .smin c sgn o => some (FWord.encS c 0x04c o 0 sgn)
  | .smax c sgn o => some (FWord.encS c 0x04d o 0 sgn)
  | .sclz c o => some ({ FWord.base c 0x04e with dst := o.d.setWidth 8, sa := o.a.setWidth 8, mod := modS 0 false 0 false o.w64 })
  | .spopc c o => some ({ FWord.base c 0x04f with dst := o.d.setWidth 8, sa := o.a.setWidth 8, mod := modS 0 false 0 false o.w64 })
  | .sbfe c o => some (FWord.encS c 0x050 o 0 false)
  | .sbfi c o sc => some ({ FWord.encS c 0x051 o 0 false with sc := sc.setWidth 8 })
  | .slea c sh o sc => some ({ FWord.encS c 0x052 o sh false with sc := sc.setWidth 8 })
  | .ssel c o kc => some ({ FWord.encS c 0x053 o 0 false with sc := kc.setWidth 8 })
  | .scmp c cc w64 kd sa b => some ({ FWord.base c 0x054 with dst := kd.setWidth 8, sa := sa.setWidth 8, sb := b.sb, mod := modS b.bsel false (BitVec.ofNat 4 (codeIn iccs cc)) false w64, lit := b.lit? })
  | .movs c sel d => some ({ FWord.base c 0x055 with dst := d.field, sa := BitVec.ofNat 8 (codeIn specs sel), mod := modS 0 d.dcls 0 false false })
  | .kand c kd ka kb => some ({ FWord.base c 0x060 with dst := kd.setWidth 8, sa := ka.setWidth 8, sb := kb.setWidth 8 })
  | .kor c kd ka kb => some ({ FWord.base c 0x061 with dst := kd.setWidth 8, sa := ka.setWidth 8, sb := kb.setWidth 8 })
  | .kxor c kd ka kb => some ({ FWord.base c 0x062 with dst := kd.setWidth 8, sa := ka.setWidth 8, sb := kb.setWidth 8 })
  | .knot c kd ka => some ({ FWord.base c 0x063 with dst := kd.setWidth 8, sa := ka.setWidth 8 })
  | .kmov c kd ka => some ({ FWord.base c 0x064 with dst := kd.setWidth 8, sa := ka.setWidth 8 })
  | .kpopc c d ka => some ({ FWord.base c 0x065 with dst := d.setWidth 8, sa := ka.setWidth 8 })
  | .kfirst c d ka => some ({ FWord.base c 0x066 with dst := d.setWidth 8, sa := ka.setWidth 8 })
  | .kany c d ka => some ({ FWord.base c 0x067 with dst := d.setWidth 8, sa := ka.setWidth 8 })
  | .kall c d ka => some ({ FWord.base c 0x068 with dst := d.setWidth 8, sa := ka.setWidth 8 })
  | .vadd c sat o => some (FWord.encV c 0x080 o sat false)
  | .vsub c sat o => some (FWord.encV c 0x081 o sat false)
  | .vmul c sat o => some (FWord.encV c 0x082 o sat false)
  | .vmulh c sgn o => some (FWord.encV c 0x083 o false sgn)
  | .vmad c sat o vc => some ({ FWord.encV c 0x084 o sat false with sc := vc })
  | .vand c o => some (FWord.encV c 0x085 o false false)
  | .vor c o => some (FWord.encV c 0x086 o false false)
  | .vxor c o => some (FWord.encV c 0x087 o false false)
  | .vnot c o => some (FWord.encVU c 0x088 o 0 false)
  | .vshl c o => some (FWord.encV c 0x089 o false false)
  | .vshr c sgn o => some (FWord.encV c 0x08a o false sgn)
  | .vsra c o => some (FWord.encV c 0x08b o false false)
  | .vmin c sgn o => some (FWord.encV c 0x08c o false sgn)
  | .vmax c sgn o => some (FWord.encV c 0x08d o false sgn)
  | .vabs c o => some (FWord.encVU c 0x08e o 0 true)
  | .vclz c o => some (FWord.encVU c 0x08f o 0 false)
  | .vpopc c o => some (FWord.encVU c 0x090 o 0 false)
  | .vbrev c o => some (FWord.encVU c 0x091 o 0 false)
  | .vbfe c sgn o vc => some ({ FWord.encV c 0x092 o false sgn with sc := vc })
  | .vbfi c o vc => some ({ FWord.encV c 0x093 o false false with sc := vc })
  | .vsat c t sgn o => some (FWord.encVU c 0x094 o (BitVec.ofNat 4 (codeIn satTs t)) sgn)
  | .vcmp c cc w64 kd va b => some ({ FWord.base c 0x095 with dst := kd.setWidth 8, sa := va, sb := b.sb, mod := modV b.bsel (BitVec.ofNat 4 (codeIn iccs cc)) false false w64, lit := b.lit? })
  | .vsel c o kc => some ({ FWord.encV c 0x096 o false false with sc := kc.setWidth 8 })
  | .faddF32 c rnd o => some (FWord.encF c 0x0a0 o false rnd)
  | .fsubF32 c rnd o => some (FWord.encF c 0x0a1 o false rnd)
  | .fmulF32 c rnd o => some (FWord.encF c 0x0a2 o false rnd)
  | .fmaF32 c rnd o vc => some ({ FWord.encF c 0x0a3 o false rnd with sc := vc })
  | .fminF32 c o => some (FWord.encF c 0x0a4 o false .rn)
  | .fmaxF32 c o => some (FWord.encF c 0x0a5 o false .rn)
  | .fabsF32 c o => some (FWord.encFU c 0x0a6 o)
  | .fnegF32 c o => some (FWord.encFU c 0x0a7 o)
  | .fcmpF32 c cc kd va b => some ({ FWord.base c 0x0a8 with dst := kd.setWidth 8, sa := va, sb := b.sb, mod := modFP b.bsel (BitVec.ofNat 4 (codeIn fccs cc)) false .rn, lit := b.lit? })
  | .fclassF32 c o => some (FWord.encFU c 0x0a9 o)
  | .faddF64 c rnd o => some (FWord.encF c 0x0c0 o false rnd)
  | .fsubF64 c rnd o => some (FWord.encF c 0x0c1 o false rnd)
  | .fmulF64 c rnd o => some (FWord.encF c 0x0c2 o false rnd)
  | .fmaF64 c rnd o vc => some ({ FWord.encF c 0x0c3 o false rnd with sc := vc })
  | .fminF64 c o => some (FWord.encF c 0x0c4 o false .rn)
  | .fmaxF64 c o => some (FWord.encF c 0x0c5 o false .rn)
  | .fabsF64 c o => some (FWord.encFU c 0x0c6 o)
  | .fnegF64 c o => some (FWord.encFU c 0x0c7 o)
  | .fcmpF64 c cc kd va b => some ({ FWord.base c 0x0c8 with dst := kd.setWidth 8, sa := va, sb := b.sb, mod := modFP b.bsel (BitVec.ofNat 4 (codeIn fccs cc)) false .rn, lit := b.lit? })
  | .fclassF64 c o => some (FWord.encFU c 0x0c9 o)
  | .hadd2 c bf rnd o => some (FWord.encF c 0x0e0 o bf rnd)
  | .hmul2 c bf rnd o => some (FWord.encF c 0x0e1 o bf rnd)
  | .hfma2 c bf rnd o vc => some ({ FWord.encF c 0x0e2 o bf rnd with sc := vc })
  | .hmin2 c bf o => some (FWord.encF c 0x0e3 o bf .rn)
  | .hmax2 c bf o => some (FWord.encF c 0x0e4 o bf .rn)
  | .frcp c o => some (FWord.encFU c 0x0f0 o)
  | .frsq c o => some (FWord.encFU c 0x0f1 o)
  | .fsqrt c o => some (FWord.encFU c 0x0f2 o)
  | .fexp2 c o => some (FWord.encFU c 0x0f3 o)
  | .flog2 c o => some (FWord.encFU c 0x0f4 o)
  | .fsin c o => some (FWord.encFU c 0x0f5 o)
  | .fcos c o => some (FWord.encFU c 0x0f6 o)
  | .ftanh c o => some (FWord.encFU c 0x0f7 o)
  | .cvt c o => some ({ FWord.base c 0x100 with dst := o.d, sa := o.a, sb := BitVec.ofNat 8 o.dst.code, sc := BitVec.ofNat 8 o.src.code, mod := modCV o.ty o.sat o.rnd })
  | .p4pack c o => some ({ FWord.base c 0x101 with dst := o.d, sa := o.a, sb := o.sb.setWidth 8, mod := modCV o.ty o.sat o.rnd })
  | .p4unpack c rnd d va vb => some ({ FWord.base c 0x102 with dst := d, sa := va, sb := vb, mod := modCV .u false rnd })
  | .vnbr c right wrap o => some ({ FWord.encFU c 0x110 o with mod := 0#8 ++ bit1 wrap ++ bit1 right })
  | .vshfl c m o => some ({ FWord.base c 0x111 with dst := o.d, sa := o.a, sb := o.b.sb, mod := modL o.b.bsel false (BitVec.ofNat 4 (codeIn shModes m)), lit := o.b.lit? })
  | .vbcast c o => some ({ FWord.base c 0x112 with dst := o.d, sa := o.a, sb := o.b.sb, mod := modL o.b.bsel false 0, lit := o.b.lit? })
  | .vred c op o => some ({ FWord.encFU c 0x113 o with mod := modL 0 false (BitVec.ofNat 4 (codeIn redOps op)) })
  | .vscan c op excl o => some ({ FWord.encFU c 0x114 o with mod := modL 0 excl (BitVec.ofNat 4 (codeIn redOps op)) })
  | .vflags c d => some ({ FWord.base c 0x115 with dst := d.setWidth 8 })
  | .ldB8 c o => some (FWord.encM c 0x140 o.d o.addr o.hint o.ord 1)
  | .ldB16 c o => some (FWord.encM c 0x141 o.d o.addr o.hint o.ord 1)
  | .ldB32 c o => some (FWord.encM c 0x142 o.d o.addr o.hint o.ord 1)
  | .ldB64 c o => some (FWord.encM c 0x143 o.d o.addr o.hint o.ord 1)
  | .ldB128 c o => some (FWord.encM c 0x144 o.d o.addr o.hint o.ord 1)
  | .stB8 c o => some (FWord.encM c 0x148 o.d o.addr o.hint o.ord 2)
  | .stB16 c o => some (FWord.encM c 0x149 o.d o.addr o.hint o.ord 2)
  | .stB32 c o => some (FWord.encM c 0x14a o.d o.addr o.hint o.ord 2)
  | .stB64 c o => some (FWord.encM c 0x14b o.d o.addr o.hint o.ord 2)
  | .stB128 c o => some (FWord.encM c 0x14c o.d o.addr o.hint o.ord 2)
  | .lduB32 c o => some (FWord.encLdu c 0x150 o)
  | .lduB64 c o => some (FWord.encLdu c 0x151 o)
  | .prefetch c h m => some (FWord.encM c 0x152 0 m h none 0)
  | .clean c m => some (FWord.encM c 0x153 0 m .none none 0)
  | .inval c m => some (FWord.encM c 0x154 0 m .none none 0)
  | .lineset c m => some (FWord.encM c 0x155 0 m .none none 0)
  | .atom c o => some (FWord.encA c 0x158 o)
  | .red c o => some (FWord.encA c 0x159 o)
  | .fenceAr c s => some ({ FWord.base c 0x15a with mod := modFence s 0 })
  | .fenceAcq c s => some ({ FWord.base c 0x15a with mod := modFence s 1 })
  | .fenceRel c s => some ({ FWord.base c 0x15a with mod := modFence s 2 })
  | .fenceSc c s => some ({ FWord.base c 0x15a with mod := modFence s 3 })
  | .pbinit c sc sa b => some ({ FWord.base c 0x160 with sa := sa.setWidth 8, sb := b.sb, mod := modY b.isImm (BitVec.ofNat 3 (codeIn scopes sc)) 0, lit := b.lit? })
  | .pbexpect c sa b => some ({ FWord.base c 0x161 with sa := sa.setWidth 8, sb := b.sb, mod := modY b.isImm 0 0, lit := b.lit? })
  | .pbarrive c sa => some ({ FWord.base c 0x162 with sa := sa.setWidth 8 })
  | .pbwait c sa b => some ({ FWord.base c 0x163 with sa := sa.setWidth 8, sb := b.sb, mod := modY b.isImm 0 0, lit := b.lit? })
  | .pbtest c d sa => some ({ FWord.base c 0x164 with dst := d.setWidth 8, sa := sa.setWidth 8 })
  | .barArrive c b cnt => some ({ FWord.base c 0x168 with dst := b.setWidth 8, sb := cnt.sb, mod := modY cnt.isImm 0 0, lit := cnt.lit? })
  | .barSync c b cnt => some ({ FWord.base c 0x169 with dst := b.setWidth 8, sb := cnt.sb, mod := modY cnt.isImm 0 0, lit := cnt.lit? })
  | .gbar c => some (FWord.base c 0x16a)
  | .discard c sa b => some ({ FWord.base c 0x170 with sa := sa.setWidth 8, sb := b.sb, mod := modY b.isImm 0 0, lit := b.lit? })
  | .pgclass c sa b => some ({ FWord.base c 0x171 with sa := sa.setWidth 8, sb := b.sb, mod := modY b.isImm 0 0, lit := b.lit? })
  | .tlbiPage c sa => some ({ FWord.base c 0x172 with sa := sa.setWidth 8 })
  | .tlbiCtx c => some ({ FWord.base c 0x172 with mod := modY false 0 1 })
  | .tlbiAll c => some ({ FWord.base c 0x172 with mod := modY false 0 2 })
  | .gangSet c sa => some ({ FWord.base c 0x180 with sa := sa.setWidth 8 })
  | .mma c acc fmt zd ta vb => some ({ FWord.base c 0x181 with dst := zd.setWidth 8, sa := ta.setWidth 8, sb := vb, mod := modMma acc fmt })
  | .zclr c z => some ({ FWord.base c 0x182 with dst := z.setWidth 8 })
  | .zwr c z va row => some ({ FWord.base c 0x183 with dst := z.setWidth 8, sa := va, sb := row.sb, mod := bit1 row.isImm ++ 0#9, lit := row.lit? })
  | .zrd c o => some ({ FWord.base c 0x184 with dst := o.d, sa := o.z.setWidth 8, sb := o.row.sb, mod := modZrd o, lit := o.row.lit? })
  | .epi c o => some ({ FWord.base c 0x185 with dst := o.td.setWidth 8, sa := o.z.setWidth 8, sb := o.tb.setWidth 8, sc := o.sc.setWidth 8, mod := modE o })
  | .ttset c td sa sel => some ({ FWord.base c 0x186 with dst := td.setWidth 8, sa := sa.setWidth 8, sb := sel })
  | .ttld c td sa => some ({ FWord.base c 0x187 with dst := td.setWidth 8, sa := sa.setWidth 8 })
  | .ttst c ta sb => some ({ FWord.base c 0x188 with sa := ta.setWidth 8, sb := sb.setWidth 8 })
  | .ttidx c wr d ta ax => some ({ FWord.base c 0x189 with dst := d.setWidth 8, sa := ta.setWidth 8, sb := ax.setWidth 8, mod := 0#9 ++ bit1 wr })
  | .tewAdd c o tb => some (FWord.encW c 0x1a0 o tb 0)
  | .tewSub c o tb => some (FWord.encW c 0x1a1 o tb 0)
  | .tewMul c o tb => some (FWord.encW c 0x1a2 o tb 0)
  | .tewFma c o tb tc => some ({ FWord.encW c 0x1a3 o tb 0 with sc := tc.setWidth 8 })
  | .tewMin c o tb => some (FWord.encW c 0x1a4 o tb 0)
  | .tewMax c o tb => some (FWord.encW c 0x1a5 o tb 0)
  | .tewScale c o tb => some (FWord.encW c 0x1a6 o tb 0)
  | .tewCvt c o => some (FWord.encW c 0x1a7 o 0 0)
  | .tewExp2 c o => some (FWord.encW c 0x1a8 o 0 0)
  | .tewRelu c o => some (FWord.encW c 0x1a9 o 0 0)
  | .tewSelect c o tb tc => some ({ FWord.encW c 0x1aa o tb 0 with sc := tc.setWidth 8 })
  | .tewCopy c o => some (FWord.encW c 0x1ab o 0 0)
  | .tewRrow c r o => some (FWord.encW c 0x1ac o 0 (BitVec.ofNat 2 (codeIn treds r)))
  | .tewRcol c r o => some (FWord.encW c 0x1ad o 0 (BitVec.ofNat 2 (codeIn treds r)))
  | .copy c o => some ({ FWord.base c 0x1c0 with dst := o.td.setWidth 8, sa := o.ta.setWidth 8, sc := optSc c o.pbx, mod := modCopy o })
  | .copyDl c o list => some ({ FWord.base c 0x1c1 with dst := o.td.setWidth 8, sa := o.ta.setWidth 8, sb := list.setWidth 8, sc := optSc c o.pbx, mod := modCopy o })
  | .copySeal c o => some ({ FWord.base c 0x1c2 with dst := o.td.setWidth 8, sa := o.ta.setWidth 8, sb := o.sb.setWidth 8, sc := optSc c o.last, mod := modQ o.last.isSome false false false false o.rcpt o.queue })
  | .layout c o => some ({ FWord.base c 0x1c3 with dst := o.td.setWidth 8, sa := o.ta.setWidth 8, sb := o.sb.setWidth 8, sc := optSc c o.pbx, mod := modQ false o.pbx.isSome false false false o.rcpt 0 })
  | .qwait c mask => some ({ FWord.base c 0x1c4 with sb := mask })
  | .qfence c mask => some ({ FWord.base c 0x1c5 with sb := mask.setWidth 8 })
  | .qstat c d q => some ({ FWord.base c 0x1c6 with dst := d.setWidth 8, sa := q.setWidth 8 })
  | .dlchk c d list => some ({ FWord.base c 0x1c7 with dst := d.setWidth 8, sb := list.setWidth 8 })
  | .coll c o => some ({ FWord.base c 0x1c8 with dst := o.td.setWidth 8, sa := o.ta.setWidth 8, sb := o.sb.setWidth 8, mod := modK o })
  | .cgmem c d sb => some ({ FWord.base c 0x1c9 with dst := d.setWidth 8, sb := sb.setWidth 8 })
  | .trap c code => some ({ FWord.base c 0x1e0 with sb := code })
  | .eret c => some (FWord.base c 0x1e1)
  | .mfs c sel d => some ({ FWord.base c 0x1e2 with dst := d.setWidth 8, sa := BitVec.ofNat 8 (codeIn sysRegs sel) })
  | .mts c sel sb => some ({ FWord.base c 0x1e3 with sa := BitVec.ofNat 8 (codeIn sysRegs sel), sb := sb.setWidth 8 })
  | .launch c sa sb sc => some ({ FWord.base c 0x1e4 with sa := sa.setWidth 8, sb := sb.setWidth 8, sc := sc.setWidth 8 })
  | .capq c d sel => some ({ FWord.base c 0x1e5 with dst := d.setWidth 8, sb := sel })
  | .ptbrd c d => some ({ FWord.base c 0x1e6 with dst := d.setWidth 8 })
  | .evsig c code => some ({ FWord.base c 0x1e7 with sb := code })
  | .ctxsave c sa => some ({ FWord.base c 0x1e8 with sa := sa.setWidth 8 })
  | .ctxrest c sa => some ({ FWord.base c 0x1e9 with sa := sa.setWidth 8 })
  | .safepoint c => some (FWord.base c 0x1ea)
  | .wsld c sa sb sc => some ({ FWord.base c 0x1eb with sa := sa.setWidth 8, sb := sb.setWidth 8, sc := sc.setWidth 8 })
  | _ => none

/-- Codes 0x000–0x03F (R149). -/
def parseControl (f : FWord) : Option Instr :=
  match f.opc.toNat with
  | 0x000 => some (.nop f.ctl)
  | 0x001 => some (.exit f.ctl)
  | 0x002 => some (.yield f.ctl)
  | 0x003 => some (.reform f.ctl f.sa)
  | 0x004 => some (.bra f.ctl f.tgt)
  | 0x005 => some (.brs f.ctl (f.mod.getLsbD 0) f.a6 f.tgt)
  | 0x006 => some (.brk f.ctl f.a3 f.tgt)
  | 0x007 => some (.join f.ctl)
  | 0x008 => some (.call f.ctl f.d6 f.tgt)
  | 0x009 => some (.ret f.ctl f.a6)
  | 0x00a => some (.jmpr f.ctl f.a6)
  | 0x00b => some (.loop f.ctl f.a6 f.tgt)
  | _ => none

/-- Codes 0x040–0x07F (R149). -/
def parseScalar (f : FWord) : Option Instr :=
  match f.opc.toNat with
  | 0x040 => f.ssrc.map (fun b => .movi f.ctl f.w64 f.svd b)
  | 0x041 => f.sbin.map (.sadd f.ctl)
  | 0x042 => f.sbin.map (.ssub f.ctl)
  | 0x043 => f.sbin.map (.smul f.ctl)
  | 0x044 => f.sbin.map (.smulh f.ctl f.sgn)
  | 0x045 => f.sbin.map (.sdivu f.ctl)
  | 0x046 => f.sbin.map (.sand f.ctl)
  | 0x047 => f.sbin.map (.sor f.ctl)
  | 0x048 => f.sbin.map (.sxor f.ctl)
  | 0x049 => f.sbin.map (.sshl f.ctl)
  | 0x04a => f.sbin.map (.sshr f.ctl)
  | 0x04b => f.sbin.map (.ssra f.ctl)
  | 0x04c => f.sbin.map (.smin f.ctl f.sgn)
  | 0x04d => f.sbin.map (.smax f.ctl f.sgn)
  | 0x04e => some (.sclz f.ctl f.sun)
  | 0x04f => some (.spopc f.ctl f.sun)
  | 0x050 => f.sbin.map (.sbfe f.ctl)
  | 0x051 => f.sbin.map (fun o => .sbfi f.ctl o f.c6)
  | 0x052 => f.sbin.map (fun o => .slea f.ctl (f.mod.extractLsb' 2 4) o f.c6)
  | 0x053 => f.sbin.map (fun o => .ssel f.ctl o f.c3)
  | 0x054 => (f.icc 2).bind (fun cc => f.ssrc.map (.scmp f.ctl cc f.w64 f.d3 f.a6))
  | 0x055 => specs[f.sa.toNat]?.map (fun sel => .movs f.ctl sel f.svd)
  | 0x060 => some (.kand f.ctl f.d3 f.a3 f.b3)
  | 0x061 => some (.kor f.ctl f.d3 f.a3 f.b3)
  | 0x062 => some (.kxor f.ctl f.d3 f.a3 f.b3)
  | 0x063 => some (.knot f.ctl f.d3 f.a3)
  | 0x064 => some (.kmov f.ctl f.d3 f.a3)
  | 0x065 => some (.kpopc f.ctl f.d6 f.a3)
  | 0x066 => some (.kfirst f.ctl f.d6 f.a3)
  | 0x067 => some (.kany f.ctl f.d6 f.a3)
  | 0x068 => some (.kall f.ctl f.d6 f.a3)
  | _ => none

/-- Codes 0x080–0x09F (R149). -/
def parseVInt (f : FWord) : Option Instr :=
  match f.opc.toNat with
  | 0x080 => f.vbin.map (.vadd f.ctl (f.mod.getLsbD 2))
  | 0x081 => f.vbin.map (.vsub f.ctl (f.mod.getLsbD 2))
  | 0x082 => f.vbin.map (.vmul f.ctl (f.mod.getLsbD 2))
  | 0x083 => f.vbin.map (.vmulh f.ctl f.sgn)
  | 0x084 => f.vbin.map (fun o => .vmad f.ctl (f.mod.getLsbD 2) o f.sc)
  | 0x085 => f.vbin.map (.vand f.ctl)
  | 0x086 => f.vbin.map (.vor f.ctl)
  | 0x087 => f.vbin.map (.vxor f.ctl)
  | 0x088 => some (.vnot f.ctl f.vun)
  | 0x089 => f.vbin.map (.vshl f.ctl)
  | 0x08a => f.vbin.map (.vshr f.ctl f.sgn)
  | 0x08b => f.vbin.map (.vsra f.ctl)
  | 0x08c => f.vbin.map (.vmin f.ctl f.sgn)
  | 0x08d => f.vbin.map (.vmax f.ctl f.sgn)
  | 0x08e => some (.vabs f.ctl f.vun)
  | 0x08f => some (.vclz f.ctl f.vun)
  | 0x090 => some (.vpopc f.ctl f.vun)
  | 0x091 => some (.vbrev f.ctl f.vun)
  | 0x092 => f.vbin.map (fun o => .vbfe f.ctl f.sgn o f.sc)
  | 0x093 => f.vbin.map (fun o => .vbfi f.ctl o f.sc)
  | 0x094 => satTs[(f.mod.extractLsb' 3 4).toNat]?.map (fun t => .vsat f.ctl t f.sgn f.vun)
  | 0x095 => (f.icc 3).bind (fun cc => f.vsrc.map (.vcmp f.ctl cc f.w64 f.d3 f.sa))
  | 0x096 => f.vbin.map (fun o => .vsel f.ctl o f.c3)
  | _ => none

/-- Codes 0x0A0–0x0BF (R149). -/
def parseF32 (f : FWord) : Option Instr :=
  match f.opc.toNat with
  | 0x0a0 => f.rnd.bind (fun r => f.fbin.map (.faddF32 f.ctl r))
  | 0x0a1 => f.rnd.bind (fun r => f.fbin.map (.fsubF32 f.ctl r))
  | 0x0a2 => f.rnd.bind (fun r => f.fbin.map (.fmulF32 f.ctl r))
  | 0x0a3 => f.rnd.bind (fun r => f.fbin.map (fun o => .fmaF32 f.ctl r o f.sc))
  | 0x0a4 => f.fbin.map (.fminF32 f.ctl)
  | 0x0a5 => f.fbin.map (.fmaxF32 f.ctl)
  | 0x0a6 => some (.fabsF32 f.ctl f.fun1)
  | 0x0a7 => some (.fnegF32 f.ctl f.fun1)
  | 0x0a8 => f.fcc.bind (fun cc => f.vsrc.map (.fcmpF32 f.ctl cc f.d3 f.sa))
  | 0x0a9 => some (.fclassF32 f.ctl f.fun1)
  | _ => none

/-- Codes 0x0C0–0x0DF (R149). -/
def parseF64 (f : FWord) : Option Instr :=
  match f.opc.toNat with
  | 0x0c0 => f.rnd.bind (fun r => f.fbin.map (.faddF64 f.ctl r))
  | 0x0c1 => f.rnd.bind (fun r => f.fbin.map (.fsubF64 f.ctl r))
  | 0x0c2 => f.rnd.bind (fun r => f.fbin.map (.fmulF64 f.ctl r))
  | 0x0c3 => f.rnd.bind (fun r => f.fbin.map (fun o => .fmaF64 f.ctl r o f.sc))
  | 0x0c4 => f.fbin.map (.fminF64 f.ctl)
  | 0x0c5 => f.fbin.map (.fmaxF64 f.ctl)
  | 0x0c6 => some (.fabsF64 f.ctl f.fun1)
  | 0x0c7 => some (.fnegF64 f.ctl f.fun1)
  | 0x0c8 => f.fcc.bind (fun cc => f.vsrc.map (.fcmpF64 f.ctl cc f.d3 f.sa))
  | 0x0c9 => some (.fclassF64 f.ctl f.fun1)
  | _ => none

/-- Codes 0x0E0–0x10F (R149). -/
def parsePacked (f : FWord) : Option Instr :=
  match f.opc.toNat with
  | 0x0e0 => f.rnd.bind (fun r => f.fbin.map (.hadd2 f.ctl (f.mod.getLsbD 3) r))
  | 0x0e1 => f.rnd.bind (fun r => f.fbin.map (.hmul2 f.ctl (f.mod.getLsbD 3) r))
  | 0x0e2 => f.rnd.bind (fun r => f.fbin.map (fun o => .hfma2 f.ctl (f.mod.getLsbD 3) r o f.sc))
  | 0x0e3 => f.fbin.map (.hmin2 f.ctl (f.mod.getLsbD 3))
  | 0x0e4 => f.fbin.map (.hmax2 f.ctl (f.mod.getLsbD 3))
  | 0x0f0 => some (.frcp f.ctl f.fun1)
  | 0x0f1 => some (.frsq f.ctl f.fun1)
  | 0x0f2 => some (.fsqrt f.ctl f.fun1)
  | 0x0f3 => some (.fexp2 f.ctl f.fun1)
  | 0x0f4 => some (.flog2 f.ctl f.fun1)
  | 0x0f5 => some (.fsin f.ctl f.fun1)
  | 0x0f6 => some (.fcos f.ctl f.fun1)
  | 0x0f7 => some (.ftanh f.ctl f.fun1)
  | 0x100 => (Fmt.ofCode f.sb.toNat).bind (fun d => (Fmt.ofCode f.sc.toNat).bind (fun s => f.rnd.bind (fun r =>
    p4tys[(f.mod.extractLsb' 4 2).toNat]?.map (fun t => .cvt f.ctl ⟨d, s, t, f.mod.getLsbD 3, r, f.dst, f.sa⟩))))
  | 0x101 => f.rnd.bind (fun r => p4tys[(f.mod.extractLsb' 4 2).toNat]?.map (fun t => .p4pack f.ctl ⟨t, f.mod.getLsbD 3, r, f.dst, f.sa, f.b6⟩))
  | 0x102 => f.rnd.map (fun r => .p4unpack f.ctl r f.dst f.sa f.sb)
  | _ => none

/-- Codes 0x110–0x13F (R149). -/
def parseLane (f : FWord) : Option Instr :=
  match f.opc.toNat with
  | 0x110 => some (.vnbr f.ctl (f.mod.getLsbD 0) (f.mod.getLsbD 1) f.fun1)
  | 0x111 => shModes[(f.mod.extractLsb' 0 2).toNat]?.bind (fun m => f.fbin.map (.vshfl f.ctl m))
  | 0x112 => f.fbin.map (.vbcast f.ctl)
  | 0x113 => f.rop.map (fun op => .vred f.ctl op f.fun1)
  | 0x114 => f.rop.map (fun op => .vscan f.ctl op (f.mod.getLsbD 5) f.fun1)
  | 0x115 => some (.vflags f.ctl f.d6)
  | _ => none

/-- Codes 0x140–0x17F (R149). -/
def parseMem (f : FWord) : Option Instr :=
  match f.opc.toNat with
  | 0x140 => (f.memOp 1).map (.ldB8 f.ctl)
  | 0x141 => (f.memOp 1).map (.ldB16 f.ctl)
  | 0x142 => (f.memOp 1).map (.ldB32 f.ctl)
  | 0x143 => (f.memOp 1).map (.ldB64 f.ctl)
  | 0x144 => (f.memOp 1).map (.ldB128 f.ctl)
  | 0x148 => (f.memOp 2).map (.stB8 f.ctl)
  | 0x149 => (f.memOp 2).map (.stB16 f.ctl)
  | 0x14a => (f.memOp 2).map (.stB32 f.ctl)
  | 0x14b => (f.memOp 2).map (.stB64 f.ctl)
  | 0x14c => (f.memOp 2).map (.stB128 f.ctl)
  | 0x150 => f.ldu.map (.lduB32 f.ctl)
  | 0x151 => f.ldu.map (.lduB64 f.ctl)
  | 0x152 => f.hint.bind (fun h => f.addr.map (.prefetch f.ctl h))
  | 0x153 => f.addr.map (.clean f.ctl)
  | 0x154 => f.addr.map (.inval f.ctl)
  | 0x155 => f.addr.map (.lineset f.ctl)
  | 0x158 => f.atomOp.map (.atom f.ctl)
  | 0x159 => f.atomOp.map (.red f.ctl)
  | 0x15a => (f.scope 5).map (fun s => match (f.mod.extractLsb' 0 2).toNat with
    | 0 => .fenceAr f.ctl s
    | 1 => .fenceAcq f.ctl s
    | 2 => .fenceRel f.ctl s
    | _ => .fenceSc f.ctl s)
  | 0x160 => (f.scope 5).map (fun s => .pbinit f.ctl s f.a6 f.yimm)
  | 0x161 => some (.pbexpect f.ctl f.a6 f.yimm)
  | 0x162 => some (.pbarrive f.ctl f.a6)
  | 0x163 => some (.pbwait f.ctl f.a6 f.yimm)
  | 0x164 => some (.pbtest f.ctl f.d6 f.a6)
  | 0x168 => some (.barArrive f.ctl (f.dst.setWidth 4) f.yimm)
  | 0x169 => some (.barSync f.ctl (f.dst.setWidth 4) f.yimm)
  | 0x16a => some (.gbar f.ctl)
  | 0x170 => some (.discard f.ctl f.a6 f.yimm)
  | 0x171 => some (.pgclass f.ctl f.a6 f.yimm)
  | 0x172 => match (f.mod.extractLsb' 0 2).toNat with
    | 0 => some (.tlbiPage f.ctl f.a6)
    | 1 => some (.tlbiCtx f.ctl)
    | 2 => some (.tlbiAll f.ctl)
    | _ => none
  | _ => none

/-- Codes 0x180–0x19F (R149). -/
def parseMatrix (f : FWord) : Option Instr :=
  match f.opc.toNat with
  | 0x180 => some (.gangSet f.ctl f.a6)
  | 0x181 => mfmts[(f.mod.extractLsb' 0 3).toNat]?.map (fun m => .mma f.ctl (f.mod.getLsbD 3) m (f.dst.setWidth 4) f.a6 f.sb)
  | 0x182 => some (.zclr f.ctl (f.dst.setWidth 4))
  | 0x183 => some (.zwr f.ctl (f.dst.setWidth 4) f.sa f.yimm)
  | 0x184 => (Fmt.ofCode (f.mod.extractLsb' 3 5).toNat).bind (fun m => f.rnd.map (fun r =>
    .zrd f.ctl ⟨m, f.mod.getLsbD 8, r, f.dst, f.sa.setWidth 4, f.yimm⟩))
  | 0x185 => acts[(f.mod.extractLsb' 4 3).toNat]?.bind (fun a => f.rnd.map (fun r =>
    .epi f.ctl ⟨f.mod.extractLsb' 7 3, a, f.mod.getLsbD 3, r, f.d6, f.sa.setWidth 4, f.b6, f.c6⟩))
  | 0x186 => some (.ttset f.ctl f.d6 f.a6 f.sb)
  | 0x187 => some (.ttld f.ctl f.d6 f.a6)
  | 0x188 => some (.ttst f.ctl f.a6 f.b6)
  | 0x189 => some (.ttidx f.ctl (f.mod.getLsbD 0) f.d6 f.a6 f.b3)
  | _ => none

/-- Codes 0x1A0–0x1BF (R149). -/
def parseTensor (f : FWord) : Option Instr :=
  match f.opc.toNat with
  | 0x1a0 => f.tewC.map (fun o => .tewAdd f.ctl o f.b6)
  | 0x1a1 => f.tewC.map (fun o => .tewSub f.ctl o f.b6)
  | 0x1a2 => f.tewC.map (fun o => .tewMul f.ctl o f.b6)
  | 0x1a3 => f.tewC.map (fun o => .tewFma f.ctl o f.b6 f.c6)
  | 0x1a4 => f.tewC.map (fun o => .tewMin f.ctl o f.b6)
  | 0x1a5 => f.tewC.map (fun o => .tewMax f.ctl o f.b6)
  | 0x1a6 => f.tewC.map (fun o => .tewScale f.ctl o f.b6)
  | 0x1a7 => f.tewC.map (fun o => .tewCvt f.ctl o)
  | 0x1a8 => f.tewC.map (fun o => .tewExp2 f.ctl o)
  | 0x1a9 => f.tewC.map (fun o => .tewRelu f.ctl o)
  | 0x1aa => f.tewC.map (fun o => .tewSelect f.ctl o f.b6 f.c6)
  | 0x1ab => f.tewC.map (fun o => .tewCopy f.ctl o)
  | 0x1ac => treds[(f.mod.extractLsb' 4 2).toNat]?.bind (fun r => f.tewC.map (.tewRrow f.ctl r))
  | 0x1ad => treds[(f.mod.extractLsb' 4 2).toNat]?.bind (fun r => f.tewC.map (.tewRcol f.ctl r))
  | _ => none

/-- Codes 0x1C0–0x1DF (R149). -/
def parseCourier (f : FWord) : Option Instr :=
  match f.opc.toNat with
  | 0x1c0 => some (.copy f.ctl f.copyOp)
  | 0x1c1 => some (.copyDl f.ctl f.copyOp (f.sb.setWidth 4))
  | 0x1c2 => let last := if f.mod.getLsbD 9 then some f.c6 else none
    some (.copySeal f.ctl ⟨last, f.mod.extractLsb' 2 3, f.mod.extractLsb' 0 2, f.d6, f.a6, f.b6⟩)
  | 0x1c3 => let pbx := if f.mod.getLsbD 8 then some f.c6 else none
    some (.layout f.ctl ⟨pbx, f.mod.extractLsb' 2 3, f.d6, f.a6, f.b6⟩)
  | 0x1c4 => some (.qwait f.ctl f.sb)
  | 0x1c5 => some (.qfence f.ctl (f.sb.setWidth 7))
  | 0x1c6 => some (.qstat f.ctl f.d6 f.a3)
  | 0x1c7 => some (.dlchk f.ctl f.d6 (f.sb.setWidth 4))
  | 0x1c8 => cops[(f.mod.extractLsb' 2 2).toNat]?.bind (fun op => ckinds[(f.mod.extractLsb' 0 2).toNat]?.map (fun k =>
    .coll f.ctl ⟨f.mod.extractLsb' 4 3, op, k, f.d6, f.a6, f.b6⟩))
  | 0x1c9 => some (.cgmem f.ctl f.d6 f.b6)
  | _ => none

/-- Codes 0x1E0–0x1FF (R149). -/
def parseSystem (f : FWord) : Option Instr :=
  match f.opc.toNat with
  | 0x1e0 => some (.trap f.ctl f.sb)
  | 0x1e1 => some (.eret f.ctl)
  | 0x1e2 => sysRegs[f.sa.toNat]?.map (fun s => .mfs f.ctl s f.d6)
  | 0x1e3 => sysRegs[f.sa.toNat]?.map (fun s => .mts f.ctl s f.b6)
  | 0x1e4 => some (.launch f.ctl f.a6 f.b6 f.c6)
  | 0x1e5 => some (.capq f.ctl f.d6 f.sb)
  | 0x1e6 => some (.ptbrd f.ctl f.d6)
  | 0x1e7 => some (.evsig f.ctl f.sb)
  | 0x1e8 => some (.ctxsave f.ctl f.a6)
  | 0x1e9 => some (.ctxrest f.ctl f.a6)
  | 0x1ea => some (.safepoint f.ctl)
  | 0x1eb => some (.wsld f.ctl f.a6 f.b6 f.c6)
  | _ => none

/-- The instruction whose fields a record looks like, before the checks. -/
def parse (f : FWord) : Option Instr :=
  let n := f.opc.toNat
  if n < 0x040 then parseControl f
  else if n < 0x080 then parseScalar f
  else if n < 0x0a0 then parseVInt f
  else if n < 0x0c0 then parseF32 f
  else if n < 0x0e0 then parseF64 f
  else if n < 0x110 then parsePacked f
  else if n < 0x140 then parseLane f
  else if n < 0x180 then parseMem f
  else if n < 0x1a0 then parseMatrix f
  else if n < 0x1c0 then parseTensor f
  else if n < 0x1e0 then parseCourier f
  else if n < 0x200 then parseSystem f
  else none

/-- The codes R149 assigns, as (first, last). -/
def assigned : List (Nat × Nat) :=
  [(0x000, 0x00b), (0x040, 0x055), (0x060, 0x068), (0x080, 0x096), (0x0a0, 0x0a9), (0x0c0, 0x0c9), (0x0e0, 0x0e4), (0x0f0, 0x0f7), (0x100, 0x102), (0x110, 0x115),
   (0x140, 0x144), (0x148, 0x14c), (0x150, 0x155), (0x158, 0x15a), (0x160, 0x164), (0x168, 0x16a), (0x170, 0x172), (0x180, 0x189), (0x1a0, 0x1ad), (0x1c0, 0x1c9), (0x1e0, 0x1eb)]

/-- The instruction of an F word's fields, refused by name otherwise (R154). -/
def decodeFields (f : FWord) : Except Reject Instr :=
  if assigned.all (fun r => f.opc.toNat < r.1 || r.2 < f.opc.toNat) then .error .undefinedOpcode
  else match parse f with
    | none => .error .reservedCode
    | some i => if i.fields ≠ some f then .error .strayBits else if i.wf then .ok i else .error .illFormed

/-! ## H words (R121, R152) -/

def hvops : List HVOp := [.vadd, .vsub, .vmul, .vand, .vor, .vxor, .vshl, .vshr, .vsra, .vmin, .vmax]
def hfops : List HFOp := [.fadd, .fsub, .fmul, .fmin, .fmax]
def hsops : List HSOp := [.sadd, .ssub, .sand, .sor, .sxor, .sshl, .sshr]
def hkops : List HKOp := [.kand, .kor, .kxor]

def HSrc.sb : HSrc → BitVec 8
  | .v r => r
  | .s r => r.setWidth 8
  | .imm i => i

def HSrc.bsel : HSrc → BitVec 2
  | .v _ => 0
  | .s _ => 1
  | .imm _ => 2

/-- H opcode, DST, SB and MOD of a half (R152). -/
def HalfOp.bits : HalfOp → BitVec 26
  | .nop => 0
  | .vi op sgn d b => BitVec.ofNat 7 (0x01 + codeIn hvops op) ++ d ++ b.sb ++ b.bsel ++ bit1 sgn
  | .vf op rnd d b => BitVec.ofNat 7 (0x10 + codeIn hfops op) ++ d ++ b.sb ++ (b.bsel.setWidth 1) ++ BitVec.ofNat 2 (codeIn rnds rnd)
  | .vh mul bf rnd d b => BitVec.ofNat 7 (if mul then 0x19 else 0x18) ++ d ++ b ++ bit1 bf ++ BitVec.ofNat 2 (codeIn rnds rnd)
  | .si op d b => BitVec.ofNat 7 (0x20 + codeIn hsops op) ++ d.setWidth 8 ++ b.sb ++ (if b.bsel = 2 then 2#2 else 0#2) ++ 0#1
  | .kp op d b => BitVec.ofNat 7 (0x30 + codeIn hkops op) ++ d.setWidth 8 ++ b.setWidth 8 ++ 0#3

/-- A half word (R121). -/
def Half.bits (h : Half) : BitVec 31 := h.stall ++ h.k ++ h.op.bits

/-- The operation a half word looks like, before the checks. -/
def parseHalfOp (w : BitVec 26) : Option HalfOp :=
  let opc := (w.extractLsb' 19 7).toNat
  let d := w.extractLsb' 11 8
  let sb := w.extractLsb' 3 8
  let bsel := (w.extractLsb' 1 2).toNat
  let src : HSrc := if bsel = 0 then .v sb else if bsel = 1 then .s (sb.setWidth 6) else .imm sb
  let rnd := (rnds[(w.extractLsb' 0 2).toNat]?).getD .rn
  if opc = 0 then some .nop
  else if opc < 0x10 then hvops[opc - 1]?.map (fun op => .vi op (w.getLsbD 0) d src)
  else if opc < 0x18 then hfops[opc - 0x10]?.map (fun op => .vf op rnd d (if w.getLsbD 2 then .s (sb.setWidth 6) else .v sb))
  else if opc < 0x1A then some (.vh (opc == 0x19) (w.getLsbD 2) rnd d sb)
  else if opc < 0x20 then none
  else if opc < 0x30 then hsops[opc - 0x20]?.map (fun op => .si op (d.setWidth 6) (if bsel = 2 then .imm sb else .s (sb.setWidth 6)))
  else hkops[opc - 0x30]?.map (fun op => .kp op (d.setWidth 3) (sb.setWidth 3))

/-- A half word's reading, if its own bits are the word again (R152). -/
def parseHalf (w : BitVec 31) : Option Half :=
  (parseHalfOp (w.extractLsb' 0 26)).bind (fun op =>
    let h : Half := ⟨w.extractLsb' 29 2, w.extractLsb' 26 3, op⟩
    if h.bits = w then some h else none)

/-- An H word: both halves, then the rules of R123. -/
def decodeH (w : W64) : Except Reject Instr :=
  match parseHalf (w.extractLsb' 31 31), parseHalf (w.extractLsb' 0 31) with
  | some a, some b => if Instr.wf (.hWord a b) then .ok (.hWord a b) else .error .illFormed
  | _, _ => .error .badHalf

/-! ## Decoding and encoding -/

/-- KIND of a word (R113). -/
def kindOf (w : W64) : Nat := (w.extractLsb' 62 2).toNat

/-- Whether a word takes the next one as its literal (R118). -/
def wantsLit (w : W64) : Bool := kindOf w == 0 && w.getLsbD 56

/-- The literal of an L word (R118). -/
def litOf (w : W64) : Option Lit := if kindOf w = 2 then some (w.extractLsb' 0 62) else none

/-- Decode a word, given the word after it. -/
def decodeWord (w : W64) (next : Option W64) : Except Reject Instr :=
  match kindOf w with
  | 0 =>
    if wantsLit w then
      match next.bind litOf with
      | none => .error .missingLiteral
      | some l => decodeFields (FWord.ofWord w (some l))
    else decodeFields (FWord.ofWord w none)
  | 1 => decodeH w
  | 2 => .error .strayLiteral
  | _ => .error .reservedKind

/-- Bytes of an instruction: 16 with a literal, else 8 (R113). -/
def Instr.size (i : Instr) : Nat :=
  match i.fields with
  | some f => if f.lit.isSome then 16 else 8
  | none => 8

/-- A little-endian value of bytes. -/
def leNat : List Byte → Nat
  | [] => 0
  | b :: bs => b.toNat + 256 * leNat bs

/-- `n` little-endian bytes of a number. -/
def leBytes : Nat → Nat → List Byte
  | 0, _ => []
  | n + 1, x => BitVec.ofNat 8 x :: leBytes n (x / 256)

/-- The first word of a byte list. -/
def takeWord (bs : List Byte) : Option (W64 × List Byte) :=
  if bs.length < 8 then none else some (BitVec.ofNat 64 (leNat (bs.take 8)), bs.drop 8)

/-- Decode the first instruction of a byte list; the rest follows it. -/
def decode (bs : List Byte) : Except Reject (Instr × List Byte) :=
  match takeWord bs with
  | none => .error .truncated
  | some (w, rest) =>
    match decodeWord w ((takeWord rest).map (·.1)) with
    | .error r => .error r
    | .ok i => .ok (i, if wantsLit w then rest.drop 8 else rest)

/-- The words of an instruction: its F word and L word, or its H word; none for a step that has no encoding. -/
def encode : Instr → Option (List W64)
  | .hWord a b => some [1#2 ++ a.bits ++ b.bits]
  | i => i.fields.map (fun f => f.word :: (match f.lit with | none => [] | some l => [2#2 ++ l]))

/-- The instruction the decoder reads from an instruction whose bits are `w`, bit 0 the least significant bit of the first
word; the bits from `nbits` up are zero. -/
def decodeTableWord (nbits w : Nat) : Option Instr :=
  match decode (leBytes 16 (w % 2 ^ nbits)) with
  | .ok (i, _) => some i
  | .error _ => none

end Sys2Proof
end

