-- ==== Sys2Proof/Config.lean ====
section
/-! DEFINITION. What the model fixes for the machine and the free values: constants with no body, which nothing in Lean can
evaluate, one for each point the manual leaves open. A statement about one of them holds whatever it is. -/

namespace Sys2Proof.Config

/-! ## Free values -/

/-- The raw value a special-function unit returns for an input; the machine uses it only where R202's bound admits it
(log 7). The first argument is the function's opcode offset 0–7 (R202). -/
opaque sfuFree : Nat → BitVec 32 → BitVec 32

/-- Which of the two values an early read of a fixed-latency result returns (R126): `n` counts the reads (log 8). -/
opaque earlyNew : Nat → Bool

/-- Whether a remote atomic that ended INDETERMINATE was performed at its home (R230, R372); `n` counts the draws (log 24). -/
opaque performed : Nat → Bool

/-- A byte the manual leaves to R9 or gives no value: `n` counts the draws (log 3). -/
opaque freeByte : Nat → BitVec 8

/-- A signature byte of an attestation report (R469): the keys are not given (log 10). -/
opaque signature : List (BitVec 8) → Nat → BitVec 8

/-- A SHA-384 byte of an accepted image (R469): no image is given (log 10). -/
opaque imageHash : Nat → Nat → BitVec 8

/-- A byte of the identity ROM that manufacture sets: module revision, week, serial, far bytes, address, key hashes (R466; log 10). -/
opaque romByte : Nat → BitVec 8

/-- Bytes a redirection has to stream: the sizes of context images are not given (R460; log 45). -/
opaque streamTotal : Nat → Nat

/-- Node temperature and module power a sensor reports (R464 GET_THERMAL; log 10). -/
opaque sensor : Nat → Nat → BitVec 16

/-! ## Figures of the part -/

/-- Scratchpad bytes of a core (R223). -/
def spadBytes : Nat := 393216

/-- Weight-store bytes of a die (R397). -/
def wsBytes : Nat := 96 * 1024 * 1024

/-- Compute dies of a package (R1). -/
def dies : Nat := 22

/-- Cores of a compute die (R2). -/
def cores : Nat := 16

/-- Bytes of the near tier (R374). -/
def nearBytes : Nat := 512 * 10 ^ 9

/-- Fitted bytes of each far die: 2 TiB of LPDDR-6 on the module, 1 TiB a far die (R50's worked case; log 12). -/
def farBytes : Nat := 2 ^ 40

/-- This package's number in its domain (log 12). -/
def pkg : Nat := 0

end Sys2Proof.Config
end

