-- ==== Sys2Proof/Machine/State.lean ====
section
/-! DEFINITION. The state of one D940 package as plain data: agents, teams, launches, contexts, cores, dies, nodes, homes,
the I/O die and the queues between them. Tables are lists of (key, record) pairs; a key that is not listed stands for the
record `default`, whose `live` field is false. -/

namespace Sys2Proof.Machine

/-- Memory: bytes by address in one canonical form, addresses strictly rising and no zero byte listed; an address that is not
listed reads as zero (log 1). -/
abbrev Mem := List Host.Cell

/-- A table from numbers to records. -/
abbrev Tab (α : Type) := List (Nat × α)

/-! ## Agents -/

/-- What an agent is (R11, R36, R308). -/
inductive Kind | group | courier | firmware
deriving DecidableEq, Repr, Inhabited

/-- Page classes, codes 0b00–0b11 (R43). -/
inductive PClass | pv | rc | sc | ws
deriving DecidableEq, Repr, Inhabited

/-- An entry of the divergence stack (R173). -/
structure DivEntry where
  pc   : W64
  mask : LaneMask
deriving DecidableEq, Repr, Inhabited

/-- Classes of register a hazard can name. -/
inductive RClass | s | v | k
deriving DecidableEq, Repr, Inhabited

/-- A fixed-latency write that has not become available: pass p may be read from cycle `avail + step * p` on (R125); `oldS` and
`oldV` hold what a reader may still see (R126), of a mask in the lanes `lanes`. -/
structure Pend where
  cls   : RClass
  idx   : Nat
  avail : Nat
  step  : Nat
  oldS  : W64
  oldV  : Tab W32
  pc    : W64
  lanes : LaneMask := BitVec.allOnes 64
deriving DecidableEq, Repr, Inhabited

/-- An interlocked result that lands in cycle `land` (R124, R127). -/
structure InFlight where
  cls  : RClass
  idx  : Nat
  land : Nat
deriving DecidableEq, Repr, Inhabited

/-- When a write of a vector register lands, lane group `p` in cycle `land + step * p`, and what its lanes held before it: what another group
reads of the register (R61). -/
structure Land where
  idx  : Nat
  land : Nat
  step : Nat
  oldV : Tab W32
deriving DecidableEq, Repr, Inhabited

/-- Where bytes of an access lie once translated: a scratchpad byte of a core, a physical address, or a byte of the private
space of the node that runs the firmware (log 5). -/
inductive Place
  | spad (core : Nat) (off : Nat)
  | phys (pa : Nat)
  | priv (node : Nat) (off : Nat)
deriving DecidableEq, Repr, Inhabited

/-- Kinds of store-queue entry (R220, R225, R226). -/
inductive SqKind | store | lineset | clean | inval
deriving DecidableEq, Repr, Inhabited

/-- A store-queue entry: `n` bytes of `data` (or a line operation) at `at`, under the page class of its translation, with the hint of its
word (R220, R221). -/
structure SqEntry where
  kind  : SqKind
  place : Place
  cls   : PClass
  n     : Nat
  data  : BitVec 128
  va    : W64
  hint  : Hint := .none
deriving DecidableEq, Repr, Inhabited

/-- Why an agent issues nothing (R64, R79, R179, R252, R310); `ring 256` is a wait for room in the ring, `tile` one of a word that has issued:
for an `mma` accepted before it, or until a cycle (R213, R252). -/
inductive Wait
  | none
  | barrier (b : Nat) (phase : Bool)
  | postbox (off : Nat) (phase : Bool)
  | latch
  | engine
  | gbar (phase : Nat)
  | receipts (mask : BitVec 8)
  | yielded (left : Nat)
  | ring (index : Nat)
  | tile (till : Option Nat)
  | remote
  | saved
  | halted
deriving DecidableEq, Repr, Inhabited

/-- The `mma` word a member brings to the rendezvous latch (R245); `early` holds the B registers, by 64·register + lane, whose results were not
yet available to the word and which it read as they were before (R126). -/
structure LatchWord where
  zd  : Nat
  ta  : Nat
  acc : Bool
  fmt : Nat
  vb  : Nat
  safe : Bool
  early : Tab W32 := []
deriving DecidableEq, Repr, Inhabited

/-- A trap record (R311). -/
structure TrapRec where
  pc      : W64 := 0
  addr    : W64 := 0
  cause   : Nat := 0
  lane    : Nat := 255
  halfB   : Bool := false
  courier : Bool := false
  inside  : Bool := false
  replay  : Bool := false
  reg     : Nat := 0
  detail32 : W32 := 0
  active  : LaneMask := 0
  ptb     : Nat := 0
  detail64 : W64 := 0
  saved   : W64 := 0
  agent   : Nat := 0
  ctx     : Nat := 0
  depth   : Nat := 0
  dispose : Nat := 0
  live    : Bool := true
  /-- The fault is a command's: its agent is not stopped (R276). -/
  engine  : Bool := false
deriving DecidableEq, Repr, Inhabited

/-- A group, a courier context or a firmware controller (R11, R16–R23, R36, R308). -/
structure Agent where
  live      : Bool := false
  kind      : Kind := .group
  die       : Nat := 0
  core      : Nat := 0
  slot      : Nat := 0
  team      : Nat := 0
  pc        : W64 := 0
  width     : Nat := 16
  nv        : Nat := 0
  ns        : Nat := 0
  matrix    : Bool := false
  sreg      : Tab W32 := []
  vreg      : Tab W32 := []
  kreg      : Tab LaneMask := []
  act       : LaneMask := 0
  pres      : LaneMask := 0
  stack     : List DivEntry := []
  depth     : Nat := 0
  spillLane : Nat := 0
  tids      : Tab Nat := []
  flags     : BitVec 6 := 0
  gang      : W32 := 0
  rng       : Tab (BitVec 128) := []
  inHandler : Bool := false
  /-- The divergence depth at the trap its handler serves (R317). -/
  trapDepth : Nat := 0
  inSave    : Bool := false
  inRestore : Bool := false
  resumePc  : W64 := 0
  storeAbort : Bool := false
  ptbLatch  : Option W32 := none
  wait      : Wait := .none
  wpc       : W64 := 0
  ready     : Nat := 0
  since     : Nat := 0
  /-- Released from a pigeonhole and not issued since, or re-inserted by the barrier unit and not issued since: of two such groups ready equally
  long the re-inserted one is the older (R64). -/
  filed     : Bool := false
  woken     : Bool := false
  pend      : List Pend := []
  inflight  : List InFlight := []
  /-- The writes of vector registers, oldest first, that may not have landed yet (R61). -/
  lands     : List Land := []
  sq        : List SqEntry := []
  latch     : Option LatchWord := none
  stopAt    : Option Nat := none
  prio      : Nat := 0
  /-- RC and WS lines whose writes an `.sc` fence of the agent performs at home (R232). -/
  touched   : List Nat := []
  /-- The next `mma` repeats one that trapped MXCHK, and is self-checked (R112). -/
  recheck   : Bool := false
  /-- When that failure was detected (R449). -/
  retryTime : Nat := 0
  /-- The word whose shadow check has failed, until its replay shows the error transient or lasting (R447). -/
  retried   : Option W64 := none
  /-- Bytes a `wsld` that took a page fault has written (R330). -/
  wsProg    : Nat := 0
  /-- The barrier or `gbar` wait a pre-emption stopped the group in (R235, R236). -/
  waited    : Wait := .none
  /-- Lines of other packages that have come for the load the agent waits at, and whether each came or was aborted (R218, R515). -/
  arrived   : List (Nat × Bool) := []
  /-- Of a word that waited after it issued: the cycle of its first pass and the one in which its wait ended (R213, R252, R255). -/
  held      : Option (Nat × Nat) := none
  /-- Its next word is its launch's first on it, before which it acquires at `.pkg` (R337). -/
  newborn   : Bool := false
  /-- The trap record of an agent that found the ring full (R312). -/
  unfiled   : Option TrapRec := none
  /-- Scalar registers that a lane reads otherwise than the register holds, by 64·register + lane: only in an agent as a word reads it (R126). -/
  sview     : Tab W32 := []
deriving DecidableEq, Repr, Inhabited

/-! ## Teams, launches, contexts -/

/-- A tensor-table entry: image, valid bit, index counters (R24, R25, R29). -/
structure TEntry where
  valid : Bool
  image : BitVec 512
  idx   : Tab (BitVec 24)
deriving DecidableEq, Repr, Inhabited

/-- An accumulator tile with its valid bit and row-written mask (R34, R35, R254). -/
structure Tile where
  valid : Bool
  rows  : LaneMask
  el    : Tab W32
deriving DecidableEq, Repr, Inhabited

/-- A receipt (R37) with its held result (R38). -/
structure Rcpt where
  count  : Nat
  status : Nat
  flags  : BitVec 8
  held   : Nat
deriving DecidableEq, Repr, Inhabited

/-- Kinds of queued command (R36, R279). -/
inductive CmdKind | copy | copyDl | copySeal | layout | epi | coll | marker
deriving DecidableEq, Repr, Inhabited

/-- A queued command with everything copied at placing (R30, R274, R260), its progress (R276) and, once it has finished, its
outcome: 2 DONE, 3 ERROR, 4 SEAL_MISMATCH, 5 INDETERMINATE (R37). -/
structure Cmd where
  kind   : CmdKind := .copy
  dst    : TEntry := ⟨false, 0, []⟩
  src    : TEntry := ⟨false, 0, []⟩
  third  : TEntry := ⟨false, 0, []⟩
  hasThird : Bool := false
  trans  : Bool := false
  pad    : Bool := false
  blk    : Bool := false
  pbx    : Option W64 := none
  rcpt   : Nat := 0
  list   : Nat := 0
  seed   : Option W32 := none
  expect : Option W32 := none
  dmw    : W64 := 0
  scale  : W32 := 0
  act    : Nat := 0
  sat    : Bool := false
  rnd    : Rnd := .rn
  snap   : Tab W32 := []
  rng    : Tab (BitVec 128) := []
  width  : Nat := 16
  ckind  : CKind := .ar
  cop    : COp := .sum
  group  : Nat := 0
  seq    : Nat := 0
  mark   : Nat := 0
  /-- The cycle it was placed in (log 100). -/
  placed : Nat := 0
  started : Bool := false
  stalled : Bool := false
  /-- A collective that has met its peers' matching commands, which agreed (R303, R306). -/
  matched : Bool := false
  prog   : Nat := 0
  bytes  : List Byte := []
  sbytes : List Byte := []
  flags  : BitVec 8 := 0
  result : Option Nat := none
deriving DecidableEq, Repr, Inhabited

/-- Seal-chain state of one copy queue (R291). -/
structure Chain where
  isOpen : Bool
  run    : W32
  poison : Bool
deriving DecidableEq, Repr, Inhabited

/-- The courier half of a courier context (R11, R36, R277): receipts q0–q7, queues 0–3 cq0–cq3, 4 lq, 5 eq, 6 xq, seal chains,
collective counts. -/
structure CCtx where
  rcpts  : Tab Rcpt := []
  queues : Tab (List Cmd) := []
  chains : Tab Chain := []
  colls  : Tab Nat := []
  /-- The command of a word that has copied its images and waits for a receipt or for room in its queue, and whether its receipt is named
  (R274). -/
  staged : Option (Nat × Cmd × Bool) := none
deriving DecidableEq, Repr, Inhabited

/-- A named barrier (R31). `ranks` marks the groups that arrived at a `bar.sync` (R236): by 32·core parity + slot while the team is
resident, by chain rank while it is saved. -/
structure Bar where
  expected : Nat
  arrived  : Nat
  phase    : Bool
  ranks    : LaneMask
deriving DecidableEq, Repr, Inhabited

/-- Where a team stands in a pre-emption (R79). -/
inductive Pre | none | asked (at_ : Nat) | saved
deriving DecidableEq, Repr, Inhabited

/-- A team (R11, R58, R81). `base0` and `base1` are its scratchpad bases on its core and, when paired, on the odd core; `frames` and `zsaved`
hold a saved team's agents and tiles. Its courier contexts and its scratchpad are held under a core number of its own (`savedCore`), where
their engines run on (R53, R277). -/
structure Team where
  live    : Bool := false
  lid     : Nat := 0
  ctx     : Nat := 0
  bg      : Nat := 0
  teamId  : Nat := 0
  paired  : Bool := false
  die     : Nat := 0
  core    : Nat := 0
  base0   : Nat := 0
  base1   : Nat := 0
  spad    : Nat := 0
  stack   : Nat := 0
  block   : Nat := 0
  slots0  : List Nat := []
  slots1  : List Nat := []
  seeds   : Tab Nat := []
  tt      : Tab TEntry := []
  bars    : Tab Bar := []
  pbx     : Tab Scope := []
  /-- Postboxes updated in this cycle, whose completion is tested at its end (R233). -/
  pbxDue  : List Nat := []
  pre     : Pre := .none
  zsaved  : Tab Tile := []
  frames  : Tab Agent := []
  started : Nat := 0
deriving DecidableEq, Repr, Inhabited

/-- The kernel header as admission read it (R136). -/
structure Hdr where
  width   : Nat := 16
  nv      : Nat := 8
  ns      : Nat := 8
  teamg   : Nat := 1
  paired  : Bool := false
  bgteams : Nat := 1
  roles   : W64 := 0
  restartable : Bool := false
  resident : Bool := false
  ckscb   : Bool := false
  wload   : Bool := false
  reform  : Nat := 0
  maxsafe : Nat := 1
  spad    : Nat := 0
  stack   : Nat := 0
  entry   : W64 := 0
  courier : Option W64 := none
  trapvec : Option W64 := none
  safes   : Tab (W64 × W64) := []
  tens    : List (Nat × Bool × BitVec 512) := []
  dlists  : Tab (BitVec 16) := []
  ndl     : Nat := 0
  classes : BitVec 4 := 15
deriving DecidableEq, Repr, Inhabited

/-- A launch from admission to its end (R54, R74, R323, R413). `ranges` holds the unstarted block groups of each distributor as
(distributor, first, end), a die's numbered by the die and cluster c's of die d by 32 + 4d + c; `rerun` the lost and pre-empted ones; `garr` the groups
that have arrived at the grid barrier, by agent key, or by `Team.gcodes` while their team is saved. -/
structure Launch where
  live   : Bool := false
  lid    : Nat := 0
  ctx    : Nat := 0
  prio   : Nat := 0
  handle : W64 := 0
  args   : W64 := 0
  hdr    : Hdr := {}
  bgx    : Nat := 1
  bgy    : Nat := 1
  bgz    : Nat := 1
  done   : W64 := 0
  ranges : List (Nat × Nat × Nat) := []
  rerun  : List Nat := []
  ended  : List Nat := []
  gphase : Nat := 0
  garr   : List Nat := []
  cause  : Nat := 0
  entry  : Option Nat := none
  order  : Nat := 0
  /-- The timetable instance that displaced this launch under `preempt`, until it ends (R404). -/
  parkedBy : Option Nat := none
deriving DecidableEq, Repr, Inhabited

/-- A launch request in an admission queue (R399, R400). -/
structure LReq where
  lid    : Nat
  handle : W64
  args   : W64
  ctx    : Nat
  prio   : Nat
  device : Bool
  entry  : Option Nat
  /-- It goes ahead of every waiting request of its class (R404). -/
  front  : Bool := false
  /-- The slot of its instance, and the cycle it entered its queue in (R405, R416). -/
  slot   : Nat := 0
  born   : Nat := 0
deriving DecidableEq, Repr, Inhabited

/-- An event for the host (R326, R405). -/
structure Event where
  ctx  : Nat
  code : Nat
  die  : Nat
  lid  : Nat
  ptb  : Nat
deriving DecidableEq, Repr, Inhabited

/-- A context (R11, R51): page tables, save area, spoor record, error area, generation, admission and kill state, events waiting to
be sent (R326). -/
structure Ctx where
  live     : Bool := false
  ptbase   : W64 := 0
  csave    : W64 := 0
  spoor    : Bool := false
  spoorAddr : W64 := 0
  errBase  : W64 := 0
  gen      : Nat := 0
  killing  : Bool := false
  saved    : Bool := false
  admStop  : Bool := false
  saving   : Bool := false
  evq      : List Event := []
  blocks   : List Nat := []
deriving DecidableEq, Repr, Inhabited

/-! ## Cores and dies -/

/-- An `mma` the engine has accepted (R251, R252): its team and its groups' width, where A begins in the scratchpad, the cycle its latch
completed in, the earliest cycle it may start in, the one it began in, and what it has read: every member's B part by 64·register + lane
(before the start, the registers a member's word read early), the scale bytes of P4, A's bytes so far. -/
structure Mma where
  members : List Nat
  word    : LatchWord
  vbs     : List Nat
  image   : TEntry
  size    : Nat
  checked : Bool
  team    : Nat := 0
  width   : Nat := 16
  base    : Nat := 0
  latched : Nat := 0
  due     : Nat := 0
  started : Bool := false
  begun   : Nat := 0
  bregs   : List (Tab W32) := []
  scales  : List Nat := []
  abuf    : List Byte := []
  /-- It repeats one that trapped MXCHK (R112, R447). -/
  again   : Bool := false
deriving DecidableEq, Repr, Inhabited

/-- A thread in a pigeonhole: its vector registers by number, its bits of k1–k7, its thread number (R68, R70). -/
structure Thread where
  v   : Tab W32
  k   : BitVec 8
  tid : Nat
deriving DecidableEq, Repr, Inhabited

/-- The place of a release among those of its core (R72): its cycle, its kind in R72's order (0 a displacement, 1 full, 2 aged, 3 a drain, a
pre-emption or a kill), and within one kind the filing order of displacements or the pigeonhole's number. -/
structure Release where
  cycle : Nat
  kind  : Nat
  idx   : Nat
deriving DecidableEq, Repr, Inhabited

/-- A pigeonhole (R68) with what its first contributor gives the released group (R70); `order` is its place among the releases, none while it
is not released. -/
structure Hole where
  live   : Bool
  key    : W64
  team   : Nat
  born   : Nat
  first  : Nat
  model  : Agent
  flags  : BitVec 6
  ths    : List Thread
  order  : Option Release
deriving DecidableEq, Repr, Inhabited

/-- A line of an L1 (R375). -/
structure L1Line where
  line : Nat
  cls  : PClass
  data : BitVec 1024
deriving DecidableEq, Repr, Inhabited

/-- States of an L2 line: S, E, M of SC (R381); V and D of RC, WS and PV (R383). -/
inductive LSt | s | e | m | v | d
deriving DecidableEq, Repr, Inhabited

/-- A line of a die's L2 (R376): class tag, state, dirty byte mask, whether the bytes outside the mask are filled, context and
generation of its last writer. -/
structure L2Line where
  line : Nat
  cls  : PClass
  st   : LSt
  data : BitVec 1024
  mask : BitVec 128
  fill : Bool
  ctx  : Nat
  gen  : Nat
deriving DecidableEq, Repr, Inhabited

/-- A cached translation (R393). -/
structure Tlb where
  ctx   : Nat
  vpage : Nat
  large : Bool
  pte   : W64
  ptePa : Nat
deriving DecidableEq, Repr, Inhabited

/-- A core (R11, R34, R68, R286, R433, R512); `tlb` is its own translation cache, oldest entry first (R393). -/
structure Core where
  scratch  : Mem := []
  /-- Scratchpad words of 8 bytes with a lasting error, by offset over 8 (R448). -/
  bad      : List Nat := []
  tiles    : Tab Tile := []
  zteam    : Option Nat := none
  mmaCount : Nat := 0
  mmas     : List Mma := []
  divFree  : Tab Nat := []
  pipeFree : Tab Nat := []
  holes    : Tab Hole := []
  xbar     : List (Nat × Agent) := []
  relOrder : Nat := 0
  l1       : List L1Line := []
  lastCourier : Nat := 0
  rotation : Nat := 0
  slots    : Tab Nat := []
  landing  : Nat := 0
  tlb      : List Tlb := []
  /-- The model's own fault inputs, which no step of the machine sets (log 9): by pipe, the lane and the bits that the next shadow-checked
  result comes out wrong in (R109); where the next self-checked `mma`'s second pass differs, 64·row + column + 4096·chunk (R112). -/
  upsets   : Tab (Nat × W64) := []
  mxUpset  : Option Nat := none
  /-- Another (log 9): of a command's element, by its number in the sweep, the bits that change on its way from the source's decoder to the
  destination's encoder (R289, R446). -/
  flips    : List (Nat × Nat) := []
deriving DecidableEq, Repr, Inhabited

/-- Die states of the capacity record (R50), and the stages of a join (R458) with whether the die was fenced before. -/
inductive DieSt | inService | spare | fenced | absent | joining (stage : Nat) (wasFenced : Bool)
deriving DecidableEq, Repr, Inhabited

/-- A compute die (R46–R49, R312, R331, R375–R378, R393, R397). -/
structure Die where
  st      : DieSt := .absent
  cores   : BitVec 16 := 0
  slices  : BitVec 16 := 0
  variant : BitVec 2 := 0
  /-- The working slices when the variant in force was written: where its lines lie until the next one (R377, R378). -/
  placed  : BitVec 16 := 0
  mxchk   : BitVec 13 := 0
  shadow  : Bool := false
  ckscb   : Bool := false
  trapvec : W64 := 0
  ctxsel  : BitVec 6 := 0
  ring    : Tab TrapRec := []
  ringPos : Nat := 0
  inTrap  : Bool := false
  /-- The controller's image was rejected, and the controller is not released (R468). -/
  noCtl   : Bool := false
  /-- The controller's image has been checked (R468). -/
  checked : Bool := false
  excPc   : W64 := 0
  excF    : Bool := false
  /-- What the controller waited for at trap entry; `eret` returns it there (R315). -/
  excWait : Wait := .halted
  ws      : Mem := []
  wsOwner : Option Nat := none
  wsBusy  : BitVec 16 := 0
  /-- Weight-store granules of 32 bytes with a lasting error (R448). -/
  wsBad   : List Nat := []
  l2      : List L2Line := []
  comb    : List Nat := []
  wbuf    : List L2Line := []
  tlb     : List Tlb := []
  /-- The page-walk cache: addresses of table entries and what they held (R393). -/
  walks   : Tab W64 := []
  stall   : Bool := false
  /-- The die's copies of the boundary pointers of the homes that re-hash (R388). -/
  bound   : Tab Nat := []
deriving DecidableEq, Repr, Inhabited

/-- A node's health register and log position, its timeout, its copy of the time base (how far it lags), its modules and, for a
home, generations, fence marks, the working channels before and after a re-hash, and the re-hash's boundary pointer with whether the
unit at it has moved (R46, R379, R387, R419, R423, R450, R453). -/
structure Node where
  fenced  : Bool := false
  powered : Bool := true
  tmo     : Nat := 2000
  lag     : Nat := 0
  modules : BitVec 14 := 0
  corr    : Nat := 0
  trans   : Nat := 0
  lasting : Nat := 0
  thresh  : BitVec 8 := 4
  icause  : Nat := 0
  gens    : Tab Nat := []
  marks   : List Nat := []
  chans   : BitVec 48 := 0
  oldChans : BitVec 48 := 0
  rehash  : Bool := false
  boundary : Nat := 0
  moved   : Bool := false
  stretch : Bool := false
  temp    : Option Nat := none
  hpos    : Nat := 0
  priv    : Mem := []
deriving DecidableEq, Repr, Inhabited

/-! ## Homes: directories, messages, remote requests -/

/-- How units are placed on stacks or channels (R384, R387): the working ones before and after a re-hash, and the lowest unit that
has its new place. -/
structure Placement where
  old  : BitVec 48
  new  : BitVec 48
  from_ : Nat
deriving DecidableEq, Repr, Inhabited

/-- An entry of the loss map (R385, R386): the stack of a near home, or a channel of a home, with the placement in force at the loss;
`pages` and `lines` have left the map. -/
structure Loss where
  home  : Nat
  chan  : Option Nat
  near  : Placement
  chans : Placement
  forGood : Bool
  pages : List Nat
  lines : List Nat
deriving DecidableEq, Repr, Inhabited

/-- Directory state of an SC line (R382). -/
inductive DSt | u | s (set : BitVec 22) | x (o : Nat)
deriving DecidableEq, Repr, Inhabited

/-- The home's request in progress for an SC line: requester, the state it will have, acknowledgements outstanding. -/
structure Txn where
  want  : Nat
  excl  : Bool
  data  : Bool
  acks  : BitVec 22
deriving DecidableEq, Repr, Inhabited

/-- Message kinds between dies and homes (R381–R383). -/
inductive MKind | readS | readM | upgrade | writeBack | cleanEvict | inv | fwdS | fwdI | snoopAck | grantS | grantE | grantM
  | readRC | dirtyNotice | merge | recall | wsRead | wsWrite | lineset
deriving DecidableEq, Repr, Inhabited

/-- A message in flight: between die `die` and the home of `line`. -/
structure Msg where
  kind : MKind
  die  : Nat
  line : Nat
  data : BitVec 1024
  mask : BitVec 128
  ctx  : Nat
  gen  : Nat
deriving DecidableEq, Repr, Inhabited

/-- A directory entry: SC state, RC holders and dirty bits, PV owner, LOST mark, uncorrectable mark, the transaction in
progress and the messages waiting behind it, oldest first (R228, R356, R379–R383). -/
structure Dir where
  sc     : DSt := .u
  hold   : BitVec 22 := 0
  dirty  : BitVec 22 := 0
  owner  : Option Nat := none
  lost   : Bool := false
  bad    : Bool := false
  busy   : Option Txn := none
  queue  : List Msg := []
deriving DecidableEq, Repr, Inhabited

/-- Kept result of a remote atomic (R230). -/
structure Kept where
  pkg  : Nat
  die  : Nat
  core : Nat
  tag  : Nat
  data : W64
  at_  : Nat
deriving DecidableEq, Repr, Inhabited

/-- What a request that leaves the package asks for: an atomic of one lane, or a line for a load (R230, R498). -/
inductive ReqKind | atomic | line
deriving DecidableEq, Repr, Inhabited

/-- A request to another package (R230, R425, R433): a lane of an atomic, or a line (`pa` is its first byte). `sends` is 0 while it waits
for a slot. `fail` is 0 while no answer has come, 1 for an abort, 2 INDETERMINATE, 3 CLASS_MISMATCH, 4 CLASS_ILLEGAL; a lane that failed stays
until the whole `atom` completes. -/
structure Req where
  kind   : ReqKind := .atomic
  id     : Nat
  agent  : Nat
  lane   : Nat
  pkg    : Nat
  die    : Nat
  core   : Nat
  tag    : Nat
  t0     : Nat
  sends  : Nat
  pa     : Nat
  va     : W64
  w64    : Bool
  op     : AOp
  b      : W64
  c      : W64
  dst    : Option Nat
  fail   : Nat
  cls    : PClass := .rc
  /-- The scope of the acquire its `atom` takes once every lane has its value (R229). -/
  acq    : Option Scope := none
deriving DecidableEq, Repr

/-! ## The I/O die and the outside -/

/-- An instance held under `queue1`, with the values its slot gave it (R402, R404). -/
structure Hold where
  handle : W64
  args   : W64
  ctx    : Nat
  prio   : Nat
  slot   : Nat
deriving DecidableEq, Repr, Inhabited

/-- A timetable entry (R401): `next` is the time of its next slot, `hold` the instance it holds, `parked` the launch a `preempt`
slot displaced (R404). -/
structure TTab where
  start   : Nat := 0
  period  : Nat := 0
  handle  : W64 := 0
  args    : W64 := 0
  ctx     : Nat := 0
  prio    : Nat := 0
  policy  : Nat := 0
  enable  : Bool := false
  skipped : W32 := 0
  late    : W32 := 0
  lastSlot : Nat := 0
  next    : Option Nat := none
  running : Option Nat := none
  hold    : Option Hold := none
  parked  : Option Nat := none
deriving DecidableEq, Repr, Inhabited

/-- A message the package sends (R428, R440, R464): `chan` 0 the host port, 1 the management bus, 2 + p peer package p, 128 + p the far end
of port p. `ack` is the ACKSEQ of a DHP message, `port` the fabric port a message to a peer leaves by (R432). -/
structure Out where
  chan    : Nat
  typ     : Nat
  session : Nat
  seq     : Nat
  status  : Nat
  payload : List Byte
  ack     : Nat := 0
  port    : Option Nat := none
deriving DecidableEq, Repr, Inhabited

/-- A DHP session (R439, R441): `want` is the next host message to perform, `ahead` holds (type, message) pairs not performed yet,
`kept` the responses by the SEQ they answer, `next` the device's own SEQ, `unacked` the events sent with the time of the last sending; `peer` is
the pair it is bound to, host address × 2^16 + host UDP port. -/
structure Session where
  bound : Bool := false
  peer  : Nat := 0
  ctx   : Nat := 0
  want  : Nat := 0
  ahead : List (Nat × Dhp) := []
  kept  : List (Nat × Out) := []
  next  : Nat := 0
  unacked : List (Nat × Out) := []
  acks  : Bool := false
deriving DecidableEq, Repr, Inhabited

/-- A fabric port (R427, R428): working lanes, whether it is up, expected frame number of each plane. -/
structure Port where
  up    : Bool := true
  lanes : BitVec 8 := 255
  seqS  : Nat := 0
  seqB  : Nat := 0
  /-- When the frame asked for again on each plane was found bad, and the sync plane's resends of the last 1 ms (R428, R447). -/
  redoS : Option Nat := none
  redoB : Option Nat := none
  resends : List Nat := []
deriving DecidableEq, Repr, Inhabited

/-- A release of a die toward another package, held at the I/O die (R430). -/
structure Held where
  pkg     : Nat
  die     : Nat
deriving DecidableEq, Repr, Inhabited

/-- A redirection in progress (R460–R462): step 0 none, 1–5, 6 complete, 7 failed. -/
structure Redir where
  step   : Nat := 0
  target : Nat := 0
  sent   : Nat := 0
  total  : Nat := 0
  acks   : List Nat := []
  /-- Since when no port toward the neighbour works, in step 3 or 4 (R462). -/
  lostAt : Option Nat := none
deriving DecidableEq, Repr, Inhabited

/-- Power states of R471. -/
inductive Power | off | boot | run | capped (watts : Nat)
deriving DecidableEq, Repr, Inhabited

/-- A die-fencing sequence (R453): 1 the node is fenced, 2 the notice is sent and `homes` and those of the packages `pkgs` have not processed it, 3 every home has,
4 the die is out of placement. -/
structure FenceSeq where
  stage : Nat
  homes : List Nat
  pkgs  : List Nat := []
deriving DecidableEq, Repr, Inhabited

/-- Steps the machine owes itself: what one step of the hardware makes another one due (log 6). -/
inductive Todo
  | dcTrapEntry (die : Nat)
  | contextKill (ctx : Nat)
  | homeRaise (home ctx : Nat)
  | killFree (ctx : Nat)
  | nodeFence (node : Nat)
  | fenceNotice (die : Nat)
  | homeMark (home die : Nat)
  | fenceCapacity (die : Nat)
  | fenceLaunches (die : Nat)
  | preempt (team : Nat)
  | teamSaved (team : Nat)
  | teamEnd (team : Nat)
  | admission
  | admRefuse (agent : Nat) (addr : W64)
  | placement
  | slotGrant (die core hole : Nat)
  | errorRec (ctx die line : Nat)
  | commandStart (agent queue : Nat)
  | commandComplete (agent queue : Nat)
  | commandResume (agent queue : Nat)
  | layoutRun (die cluster : Nat)
  | epiStart (die core : Nat)
  | collRestart (ctx group : Nat)
  | eventSend (ctx : Nat)
  | heldSubmit (entry : Nat)
  | spareJoin
  | dhpGo (session : Nat)
  | redirGo
  | mgmtGo
deriving DecidableEq, Repr

/-- What firmware decides and no instruction or event of the table carries (log 92): a lost line that keeps its home's bytes (R356, R385), the
start of a re-hash (R387), the packages of the domain (R398), the ports toward a package (R432), a context's error area (R318) and the
context and pair of a DHP session, or its end (R439, R441), and bits of the rollback mask (R468). -/
inductive FwAct
  | reinit (line : Nat)
  | rehash (home : Nat)
  | domain (pkgs : List Nat)
  | route (pkg : Nat) (ports : List Nat)
  | errBase (ctx : Nat) (addr : W64)
  | bind (session ctx peer : Nat)
  | unbind (session : Nat)
  | fuses (bits : Nat)
  | marked (pkg die : Nat)
  | cleared (pkg die : Nat)
  | peerLock (pkg : Nat) (held : Bool)
  | drain (pkg : Nat)
  | address (v4 v6 : Option Nat)
deriving DecidableEq, Repr

/-- The whole package. -/
structure State where
  /-- The agent whose word the next fetch reads (`Agent.key`), and whether an issue opportunity has chosen it (R62). -/
  cur      : Nat
  go       : Bool
  /-- Steps the outside and the hardware's own timing have queued, oldest first (log 6). -/
  inbox    : List Instr
  /-- What firmware has decided, oldest first (log 92). -/
  fw       : List FwAct
  /-- Steps one step of the hardware has made due, oldest first (log 6). -/
  todo     : List Todo
  /-- Cycle of the arithmetic clock, package time base in ns and its fraction in 47ths (R7, R423). -/
  cycle    : Nat
  ptb      : Nat
  frac     : Nat
  timeLock : Bool
  /-- A correction still to be slewed in, its progress, the PTP lock, and when a beacon or PTP message last came (R424, R443). -/
  slew     : Int
  slewFrac : Nat
  ptpLock  : Bool
  /-- Since when the offset from the PTP master has stayed within 100 ns (R443), the packages of the domain that have told that they hold PTP lock
  (R424), and when the last time code and the last beacon were sent (R423, R424). -/
  ptpSince : Option Nat
  locked   : List Nat
  codeTime : Nat
  beaconTime : Nat
  lastTime : Nat
  /-- The model's own counter of free values drawn (log 3). -/
  fresh    : Nat
  /-- The model's own mark that the step it is in has missed in the L2 of a die that holds its misses back (R378; log 56). -/
  missed   : Bool
  /-- Steps of `todo` that such a miss put off to the next cycle (R378). -/
  later    : List Todo
  /-- Bytes of physical memory at their homes, PA[55:0] (R374). -/
  mem      : Mem
  classes  : Tab PClass
  dirs     : Tab Dir
  /-- Tier migrations in progress, with the PTE each left (R390). -/
  moving   : List (MigCmd × W64)
  /-- Completion records of tier migrations and whether each succeeded (R390). -/
  migDone  : List (MigCmd × Bool)
  losses   : List Loss
  /-- Stacks the near tier's placement uses, before a re-hash and after (R384, R387), and those that work (R386). -/
  hbm      : BitVec 8
  oldHbm   : BitVec 8
  stackUp  : BitVec 8
  agents   : Tab Agent
  couriers : Tab CCtx
  teams    : Tab Team
  launches : Tab Launch
  ctxs     : Tab Ctx
  cores    : Tab Core
  dies     : Tab Die
  nodes    : Tab Node
  net      : List Msg
  window   : List Kept
  reqs     : List Req
  nextReq  : Nat
  tags     : Tab Nat
  /-- Times of the remote-atomic tags a core sent to a home (R230). -/
  recent   : Tab (List Nat)
  capGen   : Nat
  /-- The capacity records of generation `capGen`: 0xFF the package, 0–21 a die (R50, R398). -/
  capRec   : Tab (List Nat)
  domain   : List Nat
  /-- Packages of the domain that are not live: beacon and keepalive are missing on every path (R437). -/
  lostPkgs : List Nat
  admq     : Tab (List LReq)
  admLast  : Tab Nat
  nextLid  : Nat
  nextOrder : Nat
  nextTeam : Nat
  nextMark : Nat
  /-- The block group a priority pre-emption makes room for: launch, index, die (R414). -/
  prioWait : Option (Nat × Nat × Nat)
  /-- Cycle at which each distributor's placement step or steal ends (R409, R412). -/
  distFree : Tab Nat
  timetable : Tab TTab
  sessions : Tab Session
  out      : List Out
  /-- Header flits on the way to a router of the mesh, with its place, and the last 64 each link's router keeps (R418, R420). -/
  mesh     : List (Nat × Nat × FlitHdr)
  links    : Tab (List FlitHdr)
  ports    : Tab Port
  routes   : Tab (List Nat)
  held     : List Held
  redir    : Redir
  /-- Packages that have asked this one to drain its routes to them (R460 step 4). -/
  draining : List Nat
  fencing  : Tab FenceSeq
  /-- Packages whose homes have not yet cleared their marks for a die that joins (R458). -/
  rejoins  : Tab (List Nat)
  power    : Power
  bootSlot : Nat
  bootFail : Bool
  /-- An I/O die image has been accepted (R468), and the interposer's rail is up (R470). -/
  ioImage  : Bool
  railIx   : Bool
  rollback : Nat
  fatal    : Bool
  unlatch  : Bool
  /-- Errors whose retry has not ended (R447), and the times of corrected errors by array within the last second (R450). -/
  errPend  : List (Nat × ErrInfo)
  corrTimes : Tab (List Nat)
  healthSeq : Nat
  thermtrip : Bool
  mgmtAddr : Option (BitVec 7)
  mgmtq    : List (Nat × List Byte)
  badFrames : Nat
  badDhp   : Nat
  /-- The host port's addresses, set by firmware (R438). -/
  ipv4     : Option Nat
  ipv6     : Option Nat
deriving DecidableEq, Repr

/-- Why the machine stops with a fault. A trap of a group or a courier context is no fault: it is a next state. -/
inductive Fault where
  /-- Raised by `takeTrap` when firmware at privilege F meets a trap condition outside trap entry: R310 routes the traps of groups and
  courier contexts and R312 a trap at F inside trap entry; the manual gives no route for this one (safe: the model stops). -/
  | firmwareTrap
deriving DecidableEq, Repr

/-- Why the model gives an instruction no meaning. -/
inductive Refusal where
  /-- An instruction whose arm has no meaning yet; no arm answers so (safe). -/
  | notModelled (mnemonic : String)
deriving DecidableEq, Repr

/-- A compute die as it leaves reset: all 16 cores and slices working (R47; log 12). -/
def dieAtReset (st : DieSt) : Die :=
  { st, cores := 0xFFFF, slices := 0xFFFF, placed := 0xFFFF, noCtl := true }

/-- The firmware agent of a node (R308), waiting at reset for its first trap entry: privilege F, one lane. -/
def fwAtReset (node : Nat) : Agent :=
  { live := true, kind := .firmware, die := node, width := 1, ns := 64, act := 1, pres := 1, wait := .halted }

/-- The package right after main power is applied (R471 BOOT): the shipped complement of dies (R2), no context, no launch, no
byte of memory listed. Values the manual does not give are those of log 2, log 11 and log 12. -/
def State.reset : State where
  cur := 0
  go := false
  inbox := []
  fw := []
  todo := []
  cycle := 0
  ptb := 0
  frac := 0
  timeLock := false
  slew := 0
  slewFrac := 0
  ptpLock := false
  ptpSince := none
  locked := []
  codeTime := 0
  beaconTime := 0
  lastTime := 0
  fresh := 0
  missed := false
  later := []
  mem := []
  classes := []
  dirs := []
  moving := []
  migDone := []
  losses := []
  hbm := 0xFF
  oldHbm := 0xFF
  stackUp := 0xFF
  agents := (List.range 22).map (fun n => (2 ^ 20 + n, fwAtReset n)) ++ [(2 ^ 20 + 32, fwAtReset 32)]
  couriers := []
  teams := []
  launches := []
  ctxs := []
  cores := []
  dies := (List.range 22).map (fun n => (n, dieAtReset (if n < 20 then .inService else .spare)))
  nodes := (List.range 33).map (fun n =>
    (n, { powered := n < 20 || 22 ≤ n, modules := if n < 22 then 0x3F else if n < 32 then 0xFF else 0x3FFF,
          chans := if n < 30 then 0xFFFFFFFF else 0xFFFFFFFFFFFF,
          oldChans := if n < 30 then 0xFFFFFFFF else 0xFFFFFFFFFFFF }))
  net := []
  window := []
  reqs := []
  nextReq := 0
  tags := []
  recent := []
  capGen := 0
  capRec := (0xFF, [0, 0xFFFFF, 0x300000, 488281, 2097152, 0xFFFF, 320, 1]) :: (List.range 22).map (fun n =>
    (n, if n < 20 then [0, 0, 0xFFFF, 0xFFFF, 0, 96, 16, 0] else [0, 1, 0xFFFF, 0xFFFF, 0, 96, 0, 0]))
  domain := [Config.pkg]
  lostPkgs := []
  admq := []
  admLast := []
  nextLid := 0
  nextOrder := 1
  nextTeam := 1
  nextMark := 1
  prioWait := none
  distFree := []
  timetable := []
  sessions := []
  out := []
  mesh := []
  links := []
  ports := []
  routes := []
  held := []
  redir := {}
  draining := []
  fencing := []
  rejoins := []
  power := .boot
  bootSlot := 0
  bootFail := false
  ioImage := false
  railIx := true
  rollback := 0
  fatal := false
  unlatch := false
  errPend := []
  corrTimes := []
  thermtrip := false
  healthSeq := 0
  mgmtAddr := none
  mgmtq := []
  badFrames := 0
  badDhp := 0
  ipv4 := none
  ipv6 := none

/-- The canonical form of memory: addresses strictly rising and no listed byte equal to what an unlisted address reads as. -/
def Mem.wf : Mem → Bool
  | [] => true
  | [c] => c.2 != 0
  | c :: d :: m => c.2 != 0 && c.1 < d.1 && Mem.wf (d :: m)

end Sys2Proof.Machine
end

