-- ==== Sys2Proof/Machine/Flags.lean ====
section
/-! DEFINITION. Number formats, rounding and flags (R88–R102): exact values, RoundTo of R97 over every format, stochastic
rounding with its generator (R98, R99), P4 blocks (R91–R95), conversions to integers (R100), exact sums and products. -/

namespace Sys2Proof.Machine

/-! ## Flag bits (R22) -/

def flNX : BitVec 6 := 1
def flUF : BitVec 6 := 2
def flOF : BitVec 6 := 4
def flDZ : BitVec 6 := 8
def flNV : BitVec 6 := 16
def flSAT : BitVec 6 := 32

/-- A flag raised when `b` holds. -/
def flIf (b : Bool) (f : BitVec 6) : BitVec 6 := if b then f else 0

/-! ## Exact values -/

/-- An exact value: a NaN (signalling or quiet), an infinity, or ±m·2^e (R88, R97). -/
inductive Ex
  | nan (sig : Bool)
  | inf (neg : Bool)
  | fin (neg : Bool) (m : Nat) (e : Int)
deriving DecidableEq, Repr

/-- Layout of a floating-point format (R88): exponent bits, fraction bits, whether it is E4M3. -/
structure FF where
  eb : Nat
  fb : Nat
  e4 : Bool
deriving DecidableEq, Repr

def ff64 : FF := ⟨11, 52, false⟩
def ff32 : FF := ⟨8, 23, false⟩
def ff16 : FF := ⟨5, 10, false⟩
def ffbf : FF := ⟨8, 7, false⟩
def ffe4 : FF := ⟨4, 3, true⟩
def ffe5 : FF := ⟨5, 2, false⟩

def FF.bias (f : FF) : Nat := 2 ^ (f.eb - 1) - 1

/-- Largest finite magnitude as a pattern (R88). -/
def FF.maxBits (f : FF) : Nat := if f.e4 then 0x7E else (2 ^ f.eb - 2) * 2 ^ f.fb + (2 ^ f.fb - 1)

/-- Infinity as a pattern, for the formats that have one. -/
def FF.infBits (f : FF) : Nat := (2 ^ f.eb - 1) * 2 ^ f.fb

/-- Canonical NaN (R89). -/
def FF.nanBits (f : FF) : Nat := if f.e4 then 0x7F else f.infBits + 2 ^ (f.fb - 1)

def FF.signBit (f : FF) (neg : Bool) : Nat := if neg then 2 ^ (f.eb + f.fb) else 0

/-- The value of a pattern (R88, R89). -/
def FF.value (f : FF) (x : Nat) : Ex :=
  let neg := x / 2 ^ (f.eb + f.fb) % 2 == 1
  let ex := x / 2 ^ f.fb % 2 ^ f.eb
  let fr := x % 2 ^ f.fb
  if f.e4 then
    if ex = 15 ∧ fr = 7 then .nan false
    else if ex = 0 then .fin neg fr (-9) else .fin neg (8 + fr) ((ex : Int) - 10)
  else if ex = 2 ^ f.eb - 1 then
    if fr = 0 then .inf neg else .nan (decide (fr < 2 ^ (f.fb - 1)))
  else if ex = 0 then .fin neg fr (1 - (f.bias : Int) - f.fb)
  else .fin neg (2 ^ f.fb + fr) ((ex : Int) - f.bias - f.fb)

/-- `2^k` for a nonnegative `k`, else 1. -/
def pow2 (k : Int) : Nat := 2 ^ k.toNat

/-- `m·2^e` as a natural number of units `2^q`, with the remainder and the divisor when `q` lies above `e`. -/
def scaleTo (m : Nat) (e q : Int) : Nat × Nat × Nat :=
  if q ≤ e then (m * pow2 (e - q), 0, 1) else (m / pow2 (q - e), m % pow2 (q - e), pow2 (q - e))

/-- Whether `m·2^e` is at least `m'·2^e'`. -/
def geDy (m : Nat) (e : Int) (m' : Nat) (e' : Int) : Bool :=
  let q := min e e'
  decide (m * pow2 (e - q) ≥ m' * pow2 (e' - q))

/-- The overflow magnitude O of a format as m·2^e (R97). -/
def FF.over (f : FF) : Nat × Int := if f.e4 then (15, 5) else (1, (f.bias : Int) + 1)

/-- Whether an inexact magnitude between `n` and `n + 1` units goes up (R96, R98); `top` says the upper neighbour is O. -/
def roundUp (mode : Rnd) (neg top : Bool) (n r d draw : Nat) : Bool :=
  match mode with
  | .rn => decide (2 * r > d) || (2 * r == d && (top || n % 2 == 1))
  | .rz => false
  | .ru => !neg
  | .rd => neg
  | .sr => decide (r * 65536 / d + draw ≥ 65536)

/-- Whether a mode rounds a value of this sign toward zero on overflow (R97). -/
def towardZero (mode : Rnd) (neg : Bool) : Bool :=
  match mode with
  | .rz => true
  | .ru => neg
  | .rd => !neg
  | _ => false

/-- RoundTo(F, x, mode, sat) of R97: pattern and flags. -/
def roundTo (f : FF) (x : Ex) (mode : Rnd) (sat : Bool) (draw : Nat) : Nat × BitVec 6 :=
  match x with
  | .nan _ => (f.nanBits, 0)
  | .inf neg =>
    if sat then (f.signBit neg + f.maxBits, flSAT)
    else if f.e4 then (f.nanBits, flNV)
    else (f.signBit neg + f.infBits, 0)
  | .fin neg m e =>
    if m = 0 then (f.signBit neg, 0)
    else
      let top : Int := (Nat.log2 m : Int) + e
      let emin : Int := 1 - (f.bias : Int)
      let q := max (top - f.fb) (emin - f.fb)
      let (n, r, d) := scaleTo m e q
      let beyond := geDy m e f.over.1 f.over.2
      if !beyond && r == 0 then
        (f.signBit neg + (((q + f.fb + f.bias).toNat * 2 ^ f.fb + n) - 2 ^ f.fb), 0)
      else
        let atTop := geDy (n + 1) q f.over.1 f.over.2
        let n' := if roundUp mode neg atTop n r d draw then n + 1 else n
        if beyond || geDy n' q f.over.1 f.over.2 then
          if towardZero mode neg then (f.signBit neg + f.maxBits, flNX ||| flOF)
          else if sat then (f.signBit neg + f.maxBits, flNX ||| flOF ||| flSAT)
          else if f.e4 then (f.nanBits, flNX ||| flOF)
          else (f.signBit neg + f.infBits, flNX ||| flOF)
        else
          (f.signBit neg + (((q + f.fb + f.bias).toNat * 2 ^ f.fb + n') - 2 ^ f.fb),
            flNX ||| flIf (decide (top < emin)) flUF)

/-- RoundFP32 of R97: RoundTo FP32, a subnormal result flushed when `ftz`. -/
def roundFP32 (x : Ex) (mode : Rnd) (ftz : Bool) : Nat × BitVec 6 :=
  let (b, fl) := roundTo ff32 x mode false 0
  if ftz && b % 2 ^ 31 != 0 && decide (b % 2 ^ 31 < 2 ^ 23) then (b / 2 ^ 31 * 2 ^ 31, fl ||| flUF ||| flNX) else (b, fl)

/-! ## Exact arithmetic (R101) -/

/-- A signed finite value from an integer mantissa; the sign of zero is given. -/
def Ex.ofInt (z : Int) (e : Int) (zneg : Bool) : Ex :=
  if z = 0 then .fin zneg 0 0 else .fin (decide (z < 0)) z.natAbs e

def signed (neg : Bool) (m : Nat) : Int := if neg then -(m : Int) else m

/-- The exact negation. -/
def Ex.neg : Ex → Ex
  | .nan s => .nan s
  | .inf n => .inf (!n)
  | .fin n m e => .fin (!n) m e

def Ex.abs : Ex → Ex
  | .nan s => .nan s
  | .inf _ => .inf false
  | .fin _ m e => .fin false m e

def Ex.isNan : Ex → Bool
  | .nan _ => true
  | _ => false

def Ex.isSig : Ex → Bool
  | .nan s => s
  | _ => false

def Ex.isInf : Ex → Bool
  | .inf _ => true
  | _ => false

def Ex.isZero : Ex → Bool
  | .fin _ m _ => m == 0
  | _ => false

def Ex.sign : Ex → Bool
  | .inf n => n
  | .fin n _ _ => n
  | .nan _ => false

/-- Exact sum with its invalid flag; the sign of an exact zero sum follows R101. -/
def Ex.add (mode : Rnd) (a b : Ex) : Ex × BitVec 6 :=
  let sig := flIf (a.isSig || b.isSig) flNV
  match a, b with
  | .nan _, _ => (.nan false, sig)
  | _, .nan _ => (.nan false, sig)
  | .inf x, .inf y => if x == y then (.inf x, sig) else (.nan false, flNV)
  | .inf x, _ => (.inf x, sig)
  | _, .inf y => (.inf y, sig)
  | .fin na ma ea, .fin nb mb eb =>
    if ma = 0 ∧ mb = 0 then (.fin (if na == nb then na else mode == .rd) 0 0, sig)
    else
      let q := min ea eb
      (Ex.ofInt (signed na (ma * pow2 (ea - q)) + signed nb (mb * pow2 (eb - q))) q (mode == .rd), sig)

/-- Exact product with its invalid flag. -/
def Ex.mul (a b : Ex) : Ex × BitVec 6 :=
  let sig := flIf (a.isSig || b.isSig) flNV
  match a, b with
  | .nan _, _ => (.nan false, sig)
  | _, .nan _ => (.nan false, sig)
  | .inf x, .inf y => (.inf (x != y), sig)
  | .inf x, .fin y m _ => if m = 0 then (.nan false, flNV) else (.inf (x != y), sig)
  | .fin y m _, .inf x => if m = 0 then (.nan false, flNV) else (.inf (x != y), sig)
  | .fin na ma ea, .fin nb mb eb => (.fin (na != nb) (ma * mb) (ea + eb), sig)

/-- Exact a·b + c: ∞·0 is invalid whatever c is (R101). -/
def Ex.fma (mode : Rnd) (a b c : Ex) : Ex × BitVec 6 :=
  let (p, fp) := a.mul b
  let (r, fr) := p.add mode c
  (r, fp ||| fr)

/-- Comparison of two values that are no NaN; zeros are equal. -/
def Ex.lt (a b : Ex) : Bool :=
  match a, b with
  | .inf x, .inf y => x && !y
  | .inf x, _ => x
  | _, .inf y => !y
  | .fin na ma ea, .fin nb mb eb =>
    let q := min ea eb
    decide (signed na (ma * pow2 (ea - q)) < signed nb (mb * pow2 (eb - q)))
  | _, _ => false

def Ex.eqv (a b : Ex) : Bool := !a.isNan && !b.isNan && !a.lt b && !b.lt a

/-- `a` before `b` with −0 below +0 (R197). -/
def Ex.before (a b : Ex) : Bool := a.lt b || (a.isZero && b.isZero && a.sign && !b.sign)

/-! ## Stochastic rounding (R99) -/

/-- One draw: the 16 bits and the stepped generator; x, y, z, w lie from the low word up. -/
def rngDraw (g : BitVec 128) : Nat × BitVec 128 :=
  let x := g.extractLsb' 0 32
  let w := g.extractLsb' 96 32
  let t := x ^^^ (x <<< 11)
  let w' := w ^^^ (w >>> 19) ^^^ t ^^^ (t >>> 8)
  ((w' >>> 16).toNat, w' ++ g.extractLsb' 32 96)

/-- `n` steps of a generator. -/
def rngStep : Nat → BitVec 128 → BitVec 128
  | 0, g => g
  | n + 1, g => rngStep n (rngDraw g).2

/-- The generator of lane `lane` in slot `slot` at its `n`-th seeding, stepped 8 times (R99). -/
def rngSeed (lid bg team parity slot lane n : Nat) : BitVec 128 :=
  let z := BitVec.ofNat 32 (team % 16 * 4096 + parity * 2048 + slot * 64 + lane)
  let w := BitVec.ofNat 32 (0x6A09E667 + 0x1000 * (n % 2 ^ 20))
  rngStep 8 (w ++ z ++ BitVec.ofNat 32 bg ++ BitVec.ofNat 32 lid)

end Sys2Proof.Machine

namespace Sys2Proof

/-! ## Formats by code (R26, R90) -/

/-- The layout of a floating-point format; none for the integers and P4. -/
def Fmt.ff? : Fmt → Option Machine.FF
  | .f64 => some Machine.ff64
  | .f32 => some Machine.ff32
  | .f16 => some Machine.ff16
  | .bf16 => some Machine.ffbf
  | .e4m3 => some Machine.ffe4
  | .e5m2 => some Machine.ffe5
  | _ => none

/-- Bits of an element (R26). -/
def Fmt.bits : Fmt → Nat
  | .f64 | .i64 => 64
  | .f32 | .i32 => 32
  | .f16 | .bf16 | .i16 => 16
  | .e4m3 | .e5m2 | .i8 | .u8 => 8
  | .p4 => 4

/-- Range of an integer format (R90). -/
def Fmt.range : Fmt → Int × Int
  | .u8 => (0, 255)
  | f => (-(2 ^ (f.bits - 1) : Int), 2 ^ (f.bits - 1) - 1)

def Fmt.isInt : Fmt → Bool
  | .i8 | .u8 | .i16 | .i32 | .i64 => true
  | _ => false

/-- The integer a pattern of an integer format stands for (R90). -/
def Fmt.int (f : Fmt) (x : Nat) : Int :=
  if f = .u8 then ((x % 256 : Nat) : Int) else
    let y := x % 2 ^ f.bits
    if y ≥ 2 ^ (f.bits - 1) then (y : Int) - 2 ^ f.bits else y

def P4Ty.num : P4Ty → Nat | .u => 0 | .f => 1 | .p => 2 | .h => 3

end Sys2Proof

namespace Sys2Proof.Machine

/-- The low bits of an integer. -/
def lowBits (n : Nat) (z : Int) : Nat := (z % (2 ^ n : Int)).toNat

/-- Clamp to a range, with SAT when it changes the value (R90). -/
def clampSat (r : Int × Int) (z : Int) : Int × BitVec 6 :=
  if z < r.1 then (r.1, flSAT) else if r.2 < z then (r.2, flSAT) else (z, 0)

/-- Round an exact finite value to an integer by a mode; whether it was inexact (R100). -/
def roundInt (neg : Bool) (m : Nat) (e : Int) (mode : Rnd) : Int × Bool :=
  let (n, r, d) := scaleTo m e 0
  if r = 0 then (signed neg n, false)
  else (signed neg (if roundUp mode neg false n r d 0 then n + 1 else n), true)

/-- Float to integer (R100). -/
def toInt (f : Fmt) (x : Ex) (mode : Rnd) : Int × BitVec 6 :=
  match x with
  | .nan _ => (0, flNV)
  | .inf neg => (if neg then f.range.1 else f.range.2, flNV)
  | .fin neg m e =>
    let (z, inexact) := roundInt neg m e mode
    if z < f.range.1 then (f.range.1, flNV) else if f.range.2 < z then (f.range.2, flNV) else (z, flIf inexact flNX)

/-- An integer as an exact value; zero is +0. -/
def exInt (z : Int) : Ex := .fin (decide (z < 0)) z.natAbs 0

/-! ## P4 (R92–R95) -/

/-- Magnitudes of the eight codes of a sign in 64ths (R93), code order. -/
def p4Mags : P4Ty → List Nat
  | .u => [0, 64, 128, 192, 256, 320, 384, 448]
  | .f => [0, 32, 64, 96, 128, 192, 256, 384]
  | .p => [0, 1, 2, 4, 8, 16, 32, 64]
  | .h => [0, 16, 32, 48, 64, 128, 256, 512]

def p4TyOf (n : Nat) : P4Ty := match n % 4 with | 0 => .u | 1 => .f | 2 => .p | _ => .h

/-- DecodeP4(c, sb) of R94. -/
def decodeP4 (c sb : Nat) : Ex :=
  let c := c % 16
  let ty := p4TyOf (sb / 64)
  let e : Int := (sb % 64 : Nat)
  if sb % 64 = 63 then .nan false
  else match ty with
    | .u => if c < 8 then .fin false c (e - 31) else .fin true (16 - c) (e - 31)
    | _ =>
      let m := ((p4Mags ty)[c % 8]?).getD 0
      .fin (decide (c > 8)) m (e - 37)

/-- Magnitudes of the codes an element of this sign may take, with their codes (R93, R95). -/
def p4Codes (ty : P4Ty) (neg : Bool) : List (Nat × Nat) :=
  match ty, neg with
  | .u, true => (List.range 9).map (fun v => (64 * v, (16 - v) % 16))
  | _, true => ((p4Mags ty).zipIdx).map (fun p => (p.1, if p.2 = 0 then 0 else p.2 + 8))
  | _, false => (p4Mags ty).zipIdx

/-- The code of y = ±m·2^e in a column: neighbours by magnitude, chosen by mode; a magnitude beyond the largest saturates
(R95, R98). -/
def p4Code (ty : P4Ty) (neg : Bool) (m : Nat) (e : Int) (mode : Rnd) (draw : Nat) : Nat × BitVec 6 :=
  let cs := p4Codes ty neg
  let lo := (cs.filter (fun c => geDy m e c.1 (-6))).getLastD (0, 0)
  match (cs.filter (fun c => geDy c.1 (-6) m e)).head? with
  | none => (lo.2, flSAT ||| flNX)
  | some hi =>
    if hi.1 = lo.1 then (lo.2, 0)
    else
      let q := min e (-6)
      let x := m * pow2 (e - q)
      let l := lo.1 * pow2 (-6 - q)
      let h := hi.1 * pow2 (-6 - q)
      let up := roundUp mode neg false lo.2 (x - l) (h - l) draw
      ((if up then hi.2 else lo.2), flNX)

/-- Vmax of a type in 64ths (R95). -/
def p4Vmax (ty : P4Ty) : Nat := match ty with | .u => 448 | .f => 384 | .p => 64 | .h => 512

/-- The smallest t with A ≤ Vmax·2^t, for A = m·2^e nonzero, searched over −64 … 2047 and below −64 as −64 (R95). -/
def p4Exp (ty : P4Ty) (m : Nat) (e : Int) : Int :=
  let base : Int := (Nat.log2 m : Int) + e - 10
  let t := (List.range 24).find? (fun (k : Nat) => geDy (p4Vmax ty) (base + (k : Int) - 6) m e)
  base + (match t with | some k => (k : Int) | none => 24)

/-- The E field a block's values give, with its flags; 63 when one is a NaN or an infinity (R95). -/
def p4BlockE (ty : P4Ty) (xs : List Ex) : Nat × BitVec 6 :=
  if xs.any (fun x => x.isNan || x.isInf) then (63, flNV)
  else
    let a := xs.foldl (fun a x => match x with
      | .fin _ m e => if geDy m e a.1 a.2 then (m, e) else a
      | _ => a) ((0, 0) : Nat × Int)
    if a.1 = 0 then (0, 0)
    else
      let t := p4Exp ty a.1 a.2 + 31
      if t < 0 then (0, 0) else if 62 < t then (62, flOF) else (t.toNat, 0)

/-- The code of one value of a block with E field `ef` (R95). -/
def p4Elem (ty : P4Ty) (ef : Nat) (x : Ex) (mode : Rnd) (draw : Nat) : Nat × BitVec 6 :=
  if ef = 63 then (0, 0)
  else match x with
    | .fin neg m e => p4Code ty neg m (e - ((ef : Int) - 31)) mode draw
    | _ => (0, 0)

/-- The scale byte of a block (R92). -/
def p4Scale (ty : P4Ty) (ef : Nat) : Nat := 64 * ty.num + ef

/-! ## Reading and writing an element (R26, R88, R100) -/

/-- The exact value of an element; P4 takes its scale byte. -/
def elemValue (f : Fmt) (x sb : Nat) : Ex :=
  match f.ff? with
  | some g => g.value x
  | none => if f = .p4 then decodeP4 x sb else exInt (f.int x)

/-- The pattern of an exact value in a format other than P4, with its flags (R100): a signalling source raises NV. -/
def elemRound (f : Fmt) (x : Ex) (mode : Rnd) (sat : Bool) (draw : Nat) : Nat × BitVec 6 :=
  match f.ff? with
  | some g =>
    let (b, fl) := roundTo g x mode sat draw
    (b, fl ||| flIf x.isSig flNV)
  | none =>
    let (z, fl) := toInt f x mode
    (lowBits f.bits z, fl)

/-- Integer to integer: wrap, or clamp under `.sat` (R100). -/
def intToInt (f : Fmt) (z : Int) (sat : Bool) : Nat × BitVec 6 :=
  if sat then
    let (y, fl) := clampSat f.range z
    (lowBits f.bits y, fl)
  else (lowBits f.bits z, 0)

/-- Whether a floating-point format holds every value of another, its infinities among them (R100). -/
def fmtHolds (dst src : Fmt) : Bool :=
  match dst.ff?, src.ff? with
  | some g, some f => decide (f.eb ≤ g.eb) && decide (f.fb ≤ g.fb) && !g.e4
  | _, _ => false

/-- The conversion of one element to a format other than P4 (R100); into a format that holds every value of the source it is exact, so that
`.sat` changes nothing. -/
def convElem (dst src : Fmt) (x sb : Nat) (mode : Rnd) (sat : Bool) (draw : Nat) : Nat × BitVec 6 :=
  if src.isInt && dst.isInt then intToInt dst (src.int x) sat
  else elemRound dst (elemValue src x sb) mode (sat && !fmtHolds dst src) draw

end Sys2Proof.Machine
end

