-- ==== Sys2Proof/Machine/Tables.lean ====
section
/-! DEFINITION. Tables, bytes of memory, the records of the state by number, time, free values, and the registers of an
agent: the plain reads and writes everything else is written over. -/

namespace Sys2Proof.Machine

/-! ## Tables -/

/-- The record of a key, if it is listed. -/
def tfind (t : Tab α) (k : Nat) : Option α := (t.find? (fun p => p.1 == k)).map (·.2)

/-- The record of a key; an unlisted key has the default record. -/
def tget [Inhabited α] (t : Tab α) (k : Nat) : α := (tfind t k).getD default

/-- Set the record of a key; keys stay in rising order. -/
def tput (t : Tab α) (k : Nat) (x : α) : Tab α :=
  match t with
  | [] => [(k, x)]
  | p :: t => if p.1 < k then p :: tput t k x else if p.1 = k then (k, x) :: t else (k, x) :: p :: t

/-- Remove a key. -/
def tdel (t : Tab α) (k : Nat) : Tab α := t.filter (fun p => p.1 != k)

/-! ## Bytes of memory in canonical form (log 1) -/

/-- The byte at an address. -/
def memGet (m : Mem) (a : Nat) : Byte := (tfind m a).getD 0

/-- Write a byte: a zero removes the entry, so that equal memories are equal lists. -/
def memPut (m : Mem) (a : Nat) (b : Byte) : Mem :=
  match m with
  | [] => if b = 0 then [] else [(a, b)]
  | c :: m =>
    if c.1 < a then c :: memPut m a b
    else if c.1 = a then (if b = 0 then m else (a, b) :: m)
    else if b = 0 then c :: m else (a, b) :: c :: m

/-- `n` bytes from an address. -/
def memBytes (m : Mem) (a n : Nat) : List Byte := (List.range n).map (fun i => memGet m (a + i))

/-- Write bytes from an address up. -/
def memPutBytes (m : Mem) (a : Nat) : List Byte → Mem
  | [] => m
  | b :: bs => memPutBytes (memPut m a b) (a + 1) bs

/-! ## Lines of 128 bytes -/

/-- Byte `i` of a line. -/
def lineByte (d : BitVec 1024) (i : Nat) : Byte := d.extractLsb' (8 * i) 8

/-- The 1024-bit mask of a byte mask. -/
def byteMask (m : BitVec 128) : BitVec 1024 :=
  (List.range 128).foldl (fun acc i => if m.getLsbD i then acc ||| (0xFF#1024 <<< (8 * i)) else acc) 0

/-- The bytes of `new` under the mask over those of `old`. -/
def mergeLine (old new : BitVec 1024) (m : BitVec 128) : BitVec 1024 :=
  (old &&& ~~~ byteMask m) ||| (new &&& byteMask m)

/-- Mask of `n` bytes from offset `o`. -/
def maskAt (o n : Nat) : BitVec 128 := BitVec.ofNat 128 ((2 ^ n - 1) * 2 ^ o)

/-- A value placed at byte offset `o` of a line. -/
def dataAt (o : Nat) (x : Nat) : BitVec 1024 := BitVec.ofNat 1024 (x * 2 ^ (8 * o))

/-- The line at a line number of a memory. -/
def memLine (m : Mem) (l : Nat) : BitVec 1024 := BitVec.ofNat 1024 (leNat (memBytes m (128 * l) 128))

/-- Write the masked bytes of a line to a memory. -/
def memPutLine (m : Mem) (l : Nat) (d : BitVec 1024) (mask : BitVec 128) : Mem :=
  (List.range 128).foldl (fun m i => if mask.getLsbD i then memPut m (128 * l + i) (lineByte d i) else m) m

/-! ## Records by number -/

def State.ag (s : State) (k : Nat) : Agent := tget s.agents k
def State.cc (s : State) (k : Nat) : CCtx := tget s.couriers k
def State.tm (s : State) (k : Nat) : Team := tget s.teams k
def State.la (s : State) (k : Nat) : Launch := tget s.launches k
def State.cx (s : State) (k : Nat) : Ctx := tget s.ctxs k
def State.co (s : State) (k : Nat) : Core := tget s.cores k
def State.di (s : State) (k : Nat) : Die := tget s.dies k
def State.no (s : State) (k : Nat) : Node := tget s.nodes k
def State.dr (s : State) (k : Nat) : Dir := tget s.dirs k

/-- A tile of a core's accumulator store; one never written has every element zero (R34; log 91). -/
def State.tile (s : State) (ck z : Nat) : Tile := (tfind (s.co ck).tiles z).getD ⟨false, 0, []⟩

def State.setAg (s : State) (k : Nat) (x : Agent) : State := { s with agents := tput s.agents k x }
def State.setCc (s : State) (k : Nat) (x : CCtx) : State := { s with couriers := tput s.couriers k x }
def State.setTm (s : State) (k : Nat) (x : Team) : State := { s with teams := tput s.teams k x }
def State.setLa (s : State) (k : Nat) (x : Launch) : State := { s with launches := tput s.launches k x }
def State.setCx (s : State) (k : Nat) (x : Ctx) : State := { s with ctxs := tput s.ctxs k x }
def State.setCo (s : State) (k : Nat) (x : Core) : State := { s with cores := tput s.cores k x }
def State.setDi (s : State) (k : Nat) (x : Die) : State := { s with dies := tput s.dies k x }
def State.setNo (s : State) (k : Nat) (x : Node) : State := { s with nodes := tput s.nodes k x }
def State.setDr (s : State) (k : Nat) (x : Dir) : State := { s with dirs := tput s.dirs k x }

/-- Keys: core of a die; group in a slot of a core; courier context of a core; firmware of a node. -/
def coreKey (die core : Nat) : Nat := 16 * die + core
def groupKey (die core slot : Nat) : Nat := 64 * coreKey die core + slot
def courierKey (die core n : Nat) : Nat := 64 * coreKey die core + 32 + n
def fwKey (node : Nat) : Nat := 2 ^ 20 + node

/-- The die of a core key: that of the core numbers under which saved teams are held too (`State.saveTeam`). -/
def ckDie (ck : Nat) : Nat := ck / 16 % 4096

/-- The node of the I/O die (R379, R417). -/
def ioNode : Nat := 32

/-- The key of an agent by its own fields. -/
def Agent.key (a : Agent) : Nat :=
  match a.kind with
  | .group => groupKey a.die a.core a.slot
  | .courier => courierKey a.die a.core a.slot
  | .firmware => fwKey a.die

/-- The core an agent is on. -/
def Agent.ck (a : Agent) : Nat := coreKey a.die a.core

/-- The team, launch and context of an agent. -/
def State.teamOf (s : State) (a : Agent) : Team := s.tm a.team
def State.launchOf (s : State) (a : Agent) : Launch := s.la (s.teamOf a).lid

/-- The context an agent acts in: its team's, and for firmware the one sys.ctxsel names (R46). -/
def State.ctxOf (s : State) (a : Agent) : Nat :=
  if a.kind = .firmware then (s.di a.die).ctxsel.toNat else (s.teamOf a).ctx

/-! ## Time (R7, R423) -/

/-- Nanoseconds a correction adds or takes away over `n` of them, at 200 ppm (R424). -/
def slewStep (slew : Int) (n : Nat) : Int := if 0 ≤ slew then min slew n else max slew (-(n : Int))

/-- Advance the clock by `n` cycles of 50/47 ns; a correction is slewed in at 200 ppm (R7, R424). -/
def State.advance (s : State) (n : Nat) : State :=
  let d := (s.frac + 50 * n) / 47
  let k := slewStep s.slew ((s.slewFrac + d) / 5000)
  { s with cycle := s.cycle + n, ptb := ((s.ptb : Int) + d + k).toNat, frac := (s.frac + 50 * n) % 47,
           slew := s.slew - k, slewFrac := (s.slewFrac + d) % 5000 }

/-- A node's copy of the package time base (R423). -/
def State.ptbAt (s : State) (node : Nat) : Nat := s.ptb - (s.no node).lag

/-- A free byte (log 3). -/
def State.freeByte (s : State) : Byte × State := (Config.freeByte s.fresh, { s with fresh := s.fresh + 1 })

/-- Eight free bytes, the `i`-th of a series (log 3). -/
def freeW64 (f i : Nat) : W64 := BitVec.ofNat 64 (leNat ((List.range 8).map (fun j => Config.freeByte (f + 8 * i + j))))

/-! ## Registers of an agent (R12–R18) -/

/-- Lanes of a width. -/
def lanesOf (m : LaneMask) : List Nat := (List.range 64).filter (fun l => m.getLsbD l)

/-- The mask of the low `w` lanes. -/
def allLanes (w : Nat) : LaneMask := BitVec.ofNat 64 (2 ^ w - 1)

/-- A 32-bit scalar register. -/
def Agent.s32 (a : Agent) (r : Nat) : W32 := tget a.sreg r

/-- A scalar pair (R16). -/
def Agent.s64 (a : Agent) (r : Nat) : W64 := pair (a.s32 (r + 1)) (a.s32 r)

/-- A scalar operand at its width, as a 64-bit value. -/
def Agent.sw (a : Agent) (w64 : Bool) (r : Nat) : W64 := if w64 then a.s64 r else (a.s32 r).setWidth 64

/-- A scalar register as a lane reads it (R126), and a scalar operand at its width. -/
def Agent.s32At (a : Agent) (r l : Nat) : W32 := (tfind a.sview (64 * r + l)).getD (a.s32 r)
def Agent.swAt (a : Agent) (w64 : Bool) (r l : Nat) : W64 := if w64 then pair (a.s32At (r + 1) l) (a.s32At r l) else (a.s32At r l).setWidth 64

/-- A vector register of a lane; a courier context has scalar registers in its place (R215). -/
def Agent.v32 (a : Agent) (r l : Nat) : W32 := if a.kind = .group then tget a.vreg (64 * r + l) else a.s32 r

/-- A vector pair of a lane (R14). -/
def Agent.v64 (a : Agent) (r l : Nat) : W64 := pair (a.v32 (r + 1) l) (a.v32 r l)

/-- A vector operand of a lane at its width. -/
def Agent.vw (a : Agent) (w64 : Bool) (r l : Nat) : W64 := if w64 then a.v64 r l else (a.v32 r l).setWidth 64

/-- A predicate mask: k0 reads all ones, one bit per lane of the width (R18). -/
def Agent.k (a : Agent) (r : Nat) : LaneMask := (if r = 0 then allLanes 64 else tget a.kreg r) &&& allLanes a.width

/-- Write a 32-bit scalar register. -/
def Agent.putS (a : Agent) (r : Nat) (x : W32) : Agent := { a with sreg := tput a.sreg r x }

/-- Write a scalar pair. -/
def Agent.putS64 (a : Agent) (r : Nat) (x : W64) : Agent := (a.putS r (lo32 x)).putS (r + 1) (hi32 x)

/-- Write a vector register of a lane. -/
def Agent.putV (a : Agent) (r l : Nat) (x : W32) : Agent :=
  if a.kind = .group then { a with vreg := tput a.vreg (64 * r + l) x } else a.putS r x

/-- Write bits of a predicate mask: a write to k0 is discarded (R18). -/
def Agent.putK (a : Agent) (r : Nat) (x m : LaneMask) : Agent :=
  if r = 0 then a else { a with kreg := tput a.kreg r ((a.k r &&& ~~~ m) ||| (x &&& m)) }

/-- The guard mask of a word (R55, R116). -/
def Agent.guard (a : Agent) (neg : Bool) (k : BitVec 3) : LaneMask :=
  (if neg then ~~~ a.k k.toNat else a.k k.toNat) &&& allLanes a.width

/-- The lanes active for an instruction (R55). -/
def Agent.active (a : Agent) (neg : Bool) (k : BitVec 3) : LaneMask := a.pres &&& a.act &&& a.guard neg k

/-- The first cycle from `now` on at which every pending register write of an agent has landed (R125, R127). -/
def Agent.landed (a : Agent) (now : Nat) : Nat :=
  a.inflight.foldl (fun t f => max t f.land) (a.pend.foldl (fun t p => max t (p.avail + p.step * 3)) now)

/-- Passes of an instruction (R56); a courier context and firmware have the shape of width 16 (R271). -/
def Agent.passes (a : Agent) : Nat := if a.kind = .group then a.width / 16 else 1

/-- The pipe of an agent's slot (R58); 4 is the courier's. -/
def Agent.pipe (a : Agent) : Nat := if a.kind = .group then a.slot % 4 else 4

/-- Whether the agent is at privilege F (R52). -/
def Agent.isF (a : Agent) : Bool := a.kind == .firmware

end Sys2Proof.Machine
end

