-- ==== Sys2Proof/Machine/Lines.lean ====
section
/-! DEFINITION. Lines in the caches and at their homes: the near and far tiers, class table and loss marks (R43, R356, R374,
R384, R385), the L1 and the L2 of a die (R375–R377), the SC protocol (R381, R382), the RC, WS and PV rules (R347, R348, R383),
and the release and acquire actions of each scope (R232). Each message of the protocol has one handler, which its own step and
every access that waits for it both call. -/

namespace Sys2Proof.Machine

/-! ## Places in the physical map -/

/-- The package number of a physical address (R374). -/
def paPkg (pa : Nat) : Nat := pa / 2 ^ 48 % 256

/-- The local physical address. -/
def paLocal (pa : Nat) : Nat := pa % 2 ^ 48

/-- Whether a local address is populated (R374). -/
def populated (la : Nat) : Bool :=
  decide (la < Config.nearBytes) || (decide (2 ^ 40 ≤ la) && decide (la < 2 ^ 40 + Config.farBytes)) ||
    (decide (2 ^ 41 ≤ la) && decide (la < 2 ^ 41 + Config.farBytes))

/-- The page of a line. -/
def linePage (l : Nat) : Nat := l / 512

/-- The home class of a page: PV until `pgclass` changes it (R43). -/
def State.classAt (s : State) (page : Nat) : PClass := tget s.classes page

/-- Positions of the set bits of a mask. -/
def setBits (m : BitVec 48) : List Nat := (List.range 48).filter (fun i => m.getLsbD i)

/-- Where a unit lies: its stack or channel and its index there (R384). -/
def Placement.at (p : Placement) (n : Nat) : Nat × Nat :=
  let w := setBits (if p.from_ ≤ n then p.new else p.old)
  ((w[n % max 1 w.length]?).getD 0, n / max 1 w.length)

/-- First unit that has its new place: the boundary, or the unit above it while that one has not moved; every unit keeps its old place
before the walk begins (R387). -/
def Node.walked (n : Node) : Nat := if !n.rehash then 2 ^ 48 else if n.moved then n.boundary else n.boundary + 1

/-- The near home whose stack a re-hash gives up, if one is due or in progress. -/
def State.lostStack (s : State) : Option Nat :=
  ((List.range 8).find? (fun i => s.oldHbm.getLsbD i && !s.hbm.getLsbD i)).map (22 + ·)

/-- The placement of near pages on stacks (R384, R387). -/
def State.nearPl (s : State) : Placement :=
  { old := s.oldHbm.setWidth 48, new := s.hbm.setWidth 48, from_ := match s.lostStack with | some h => (s.no h).walked | none => 0 }

/-- The placement of a home's lines on its channels. -/
def State.chanPl (s : State) (home : Nat) : Placement :=
  let n := s.no home
  { old := n.oldChans, new := n.chans, from_ := if n.oldChans = n.chans then 0 else n.walked }

/-- Home and frame of a page under a placement of the near tier (R374, R384). -/
def pagePlace (near : Placement) (page : Nat) : Nat × Nat :=
  let la := paLocal (65536 * page)
  if 2 ^ 41 ≤ la then (31, (la - 2 ^ 41) / 65536)
  else if 2 ^ 40 ≤ la then (30, (la - 2 ^ 40) / 65536)
  else
    let (st, f) := near.at (la / 65536)
    (22 + st, f)

/-- The node that is home for a physical address (R87, R374, R384, R387). -/
def State.homeOf (s : State) (pa : Nat) : Nat := (pagePlace s.nearPl (pa / 65536)).1

/-- Whether an entry of the loss map covers a line (R385, R386). -/
def Loss.covers (x : Loss) (l : Nat) : Bool :=
  let page := linePage l
  let (h, f) := pagePlace x.near page
  paPkg (128 * l) == Config.pkg && h == x.home && (match x.chan with | none => true | some c => (x.chans.at (512 * f + l % 512)).1 == c) &&
    !x.pages.contains page && !x.lines.contains l

/-- Whether a line is lost: its directory mark or the loss map (R356, R385). -/
def State.lineLost (s : State) (l : Nat) : Bool := (s.dr l).lost || s.losses.any (fun x => x.covers l)

/-- Whether a die that has been fenced still counts at a line's home as the holder of its only modified copy or of bytes not yet merged: the home
marks the line LOST before it serves a request for it (R356, R454). -/
def State.lineGone (s : State) (l : Nat) : Bool :=
  let d := s.dr l
  (match d.sc with | .x o => (s.no o).fenced | _ => false) || (d.dirty != 0 && (List.range 22).any (fun i => d.dirty.getLsbD i && (s.no i).fenced))

/-- A line leaves the loss map, but for an entry that stands for good (R385, R386). -/
def State.findLine (s : State) (l : Nat) : State :=
  { s with losses := s.losses.map (fun x => if x.covers l && !x.forGood then { x with lines := x.lines ++ [l] } else x) }

/-- Pages leave the loss map (R385). -/
def State.findPages (s : State) (page n : Nat) : State :=
  let ps := (List.range n).map (page + ·)
  { s with losses := s.losses.map (fun x => { x with pages := x.pages ++ ps.filter (fun p => !x.pages.contains p && (pagePlace x.near p).1 == x.home) }) }

/-- Why an access aborts (R218). -/
inductive Abort | data | mismatch | timeout | pvOwner
deriving DecidableEq, Repr

/-- The working ports of a package's route entry, in its order; packages from 64 on have no entry (R432). -/
def State.routePorts (s : State) (p : Nat) : List Nat := if p < 64 then (tget s.routes p).filter (fun i => (tget s.ports i).up) else []

/-- Whether some port of the route toward a package works (R432). -/
def State.reachable (s : State) (p : Nat) : Bool := !(s.routePorts p).isEmpty

/-- The port sync-plane traffic toward a package takes: its entry's first working one (R432). -/
def State.syncPort (s : State) (p : Nat) : Option Nat := (s.routePorts p).head?

/-- The port bulk-plane traffic for an address takes: all of a line's the same one (R432). -/
def State.bulkPort (s : State) (p pa : Nat) : Option Nat := (s.routePorts p)[pa / 128 % 512 % (s.routePorts p).length]?

/-- What a home answers to an access to a line under a class, before the data (R218, R350, R356, R358, R374, R425, R432): `none` when it
serves it. -/
def State.homeAbort (s : State) (l : Nat) (cls : PClass) : Option Abort :=
  if !s.domain.contains (paPkg (128 * l)) then some .data
  else if paPkg (128 * l) ≠ Config.pkg ∧ !s.reachable (paPkg (128 * l)) then some .timeout
  else if paPkg (128 * l) = Config.pkg ∧ (s.no (s.homeOf (128 * l))).fenced then some .timeout
  else if s.classAt (linePage l) ≠ cls then some .mismatch
  else if s.lineLost l ∨ s.lineGone l ∨ (s.dr l).bad then some .data
  else none

/-- The generation of a context at the home of a line (R84). -/
def State.genAt (s : State) (l ctx : Nat) : Nat := tget (s.no (s.homeOf (128 * l))).gens ctx

/-- All bytes of a line. -/
def fullMask : BitVec 128 := BitVec.allOnes 128

/-- Bytes that hardware writes at their home, and those of a page that is being moved at the page's new place too (R390 step 2). -/
def State.homePut (s : State) (pa : Nat) (bs : List Byte) : State :=
  { s with mem := s.moving.foldl (fun m x => if x.1.src / 65536 = pa / 65536 then memPutBytes m (x.1.dst + pa % 65536) bs else m) (memPutBytes s.mem pa bs) }

/-- Masked bytes of a line written at its home, and those of a page that is being moved at the page's new place too (R390 step 2). -/
def State.putLine (s : State) (l : Nat) (d : BitVec 1024) (mask : BitVec 128) : Mem :=
  s.moving.foldl (fun m x => if x.1.src / 65536 = linePage l then memPutLine m (x.1.dst / 128 + l % 512) d mask else m) (memPutLine s.mem l d mask)

/-- Write masked bytes at the home: a write of an older generation, or to a lost line, is discarded (R84, R356); a whole line encodes a
location with a lasting error afresh (R448). -/
def State.homeWrite (s : State) (l : Nat) (d : BitVec 1024) (mask : BitVec 128) (ctx gen : Nat) : State :=
  if gen < s.genAt l ctx ∨ s.lineLost l then s
  else
    let s := if mask = fullMask ∧ (s.dr l).bad then s.setDr l { s.dr l with bad := false } else s
    { s with mem := s.putLine l d mask }

/-- Whether the home of a line is a fenced node of this package, whose router answers in its place (R422). -/
def State.homeFenced (s : State) (l : Nat) : Bool := paPkg (128 * l) == Config.pkg && (s.no (s.homeOf (128 * l))).fenced

/-- A write of a die's L2 that no single agent issued: one that meets a LOST line or a fenced home fails, and an error record is owed for the
line's context (R319, R422). -/
def State.backWrite (s : State) (die l : Nat) (d : BitVec 1024) (mask : BitVec 128) (ctx gen : Nat) : State :=
  if mask ≠ 0 ∧ s.genAt l ctx ≤ gen ∧ (s.lineLost l ∨ s.homeFenced l) then { s with todo := s.todo ++ [.errorRec ctx die l] } else s.homeWrite l d mask ctx gen

/-! ## L2 of a die -/

/-- Whether a node has an L2: the compute dies (R376). The I/O die's firmware accesses the homes directly (log 83). -/
def caches (die : Nat) : Bool := decide (die < 22)

/-- The L2 line of a die, if it holds it. -/
def Die.line? (d : Die) (l : Nat) : Option L2Line := d.l2.find? (fun x => x.line == l)

/-- Put a line in the L2, at the end of the eviction order. -/
def Die.putLine (d : Die) (x : L2Line) : Die := { d with l2 := d.l2.filter (fun y => y.line != x.line) ++ [x] }

def Die.dropLine (d : Die) (l : Nat) : Die :=
  { d with l2 := d.l2.filter (fun y => y.line != l), comb := d.comb.filter (· != l) }

/-- Make a line the first candidate for eviction (R221). -/
def Die.first (d : Die) (l : Nat) : Die := { d with l2 := d.l2.filter (fun y => y.line == l) ++ d.l2.filter (fun y => y.line != l) }

/-- Change a line in its place. -/
def Die.modLine (d : Die) (l : Nat) (f : L2Line → L2Line) : Die :=
  { d with l2 := d.l2.map (fun y => if y.line = l then f y else y) }

/-- Drop a line from the L1 of every core of a die: the L2 is inclusive (R375). -/
def State.dropL1 (s : State) (die l : Nat) : State :=
  { s with cores := s.cores.map (fun c => if ckDie c.1 = die then (c.1, { c.2 with l1 := c.2.l1.filter (fun x => x.line != l) }) else c) }

/-- Drop a line from a die. -/
def State.dropL2 (s : State) (die l : Nat) : State := (s.setDi die ((s.di die).dropLine l)).dropL1 die l

/-- The slice of a line (R377). -/
def sliceOf (slices : BitVec 16) (variant : BitVec 2) (l : Nat) : Nat :=
  let a := BitVec.ofNat 49 l
  let h := (a.extractLsb' 0 16 ^^^ a.extractLsb' 16 16 ^^^ a.extractLsb' 32 16 ^^^ (a.extractLsb' 48 1).setWidth 16).toNat
  let n := match variant.toNat with | 0 => 16 | 1 => 15 | 2 => 14 | _ => 12
  let w := (List.range 16).filter (fun i => slices.getLsbD i)
  (w[h % n]?).getD 0

/-! ## SC protocol (R381, R382) -/

/-- A message without data. -/
def mkMsg (k : MKind) (die l : Nat) : Msg := { kind := k, die := die, line := l, data := 0, mask := 0, ctx := 0, gen := 0 }

def State.send (s : State) (m : Msg) : State := { s with net := s.net ++ [m] }

/-- Take the first message of a kind between a die and a line's home. -/
def State.take (s : State) (k : MKind) (die l : Nat) : Option (Msg × State) :=
  match s.net.find? (fun m => m.kind == k && m.die == die && m.line == l) with
  | none => none
  | some m => some (m, { s with net := s.net.erase m })

def grantKind (excl : Bool) : MKind := if excl then .grantM else .grantS

/-- The home grants a line: the directory takes its new state and the grant carries the home's data (R382). -/
def State.grantTo (s : State) (die l : Nat) (k : MKind) (sc : DSt) : State :=
  (s.setDr l { s.dr l with sc := sc }).send { mkMsg k die l with data := memLine s.mem l, mask := fullMask }

/-- Serve a request at the home of a line that has none in progress (R382): kind 0 ReadS, else ReadM or Upgrade. -/
def State.serveSC (s : State) (die l kind : Nat) : State :=
  let d := s.dr l
  if kind = 0 then
    match d.sc with
    | .u => s.grantTo die l .grantE (.x die)
    | .s set => s.grantTo die l .grantS (.s (set ||| BitVec.twoPow 22 die))
    | .x o =>
      if o = die then s.grantTo die l .grantE (.x die)
      else (s.setDr l { d with busy := some { want := die, excl := false, data := true, acks := BitVec.twoPow 22 o } }).send (mkMsg .fwdS o l)
  else
    match d.sc with
    | .u => s.grantTo die l .grantM (.x die)
    | .s set =>
      let others := set &&& ~~~ BitVec.twoPow 22 die
      if others = 0 then s.grantTo die l .grantM (.x die)
      else
        let s := s.setDr l { d with busy := some { want := die, excl := true, data := true, acks := others } }
        { s with net := s.net ++ ((List.range 22).filter (fun i => others.getLsbD i)).map (fun i => mkMsg .inv i l) }
    | .x o =>
      if o = die then s.grantTo die l .grantM (.x die)
      else (s.setDr l { d with busy := some { want := die, excl := true, data := true, acks := BitVec.twoPow 22 o } }).send (mkMsg .fwdI o l)

/-- WRITE_BACK at the home: data from the owner is written, a stale one discarded; the acknowledgement empties the write-back buffer
(R382). -/
def State.takeBack (s : State) (m : Msg) : State :=
  let s := s.setDi m.die { s.di m.die with wbuf := (s.di m.die).wbuf.filter (fun x => x.line != m.line) }
  if (s.dr m.line).sc = .x m.die then
    let s := s.backWrite m.die m.line m.data m.mask m.ctx m.gen
    s.setDr m.line { s.dr m.line with sc := .u }
  else s

/-- CLEAN_EVICT at the home (R382). -/
def State.forget (s : State) (die l : Nat) : State :=
  let d := s.dr l
  match d.sc with
  | .u => s
  | .s set =>
    let set' := set &&& ~~~ BitVec.twoPow 22 die
    s.setDr l { d with sc := if set' = 0 then .u else .s set' }
  | .x o => if o = die then s.setDr l { d with sc := .u } else s

/-- Serve a message at the home of a line that has no request in progress: an UPGRADE is served as a ReadM when its sender was removed
meanwhile, since the grant carries the data (R382). A request for a line that the home cannot serve ends with an abort (R356, R422, R454). -/
def State.serve (s : State) (m : Msg) : State :=
  let ask (kind : Nat) : State := if (s.homeAbort m.line .sc).isSome then s else s.serveSC m.die m.line kind
  match m.kind with
  | .readS => ask 0
  | .readM | .upgrade => ask 1
  | .writeBack => s.takeBack m
  | .cleanEvict => s.forget m.die m.line
  | _ => s

/-- A message of the SC protocol reaches the home: served, or queued behind the request in progress, in the order of arrival (R380). -/
def State.arrive (s : State) (m : Msg) : State :=
  let d := s.dr m.line
  if d.busy.isSome then s.setDr m.line { d with queue := d.queue ++ [m] } else s.serve m

/-- After a request ends, the line's queue goes on up to the next one that has to wait (R380). -/
def State.nextSC (s : State) (l : Nat) : Nat → State
  | 0 => s
  | n + 1 =>
    let d := s.dr l
    if d.busy.isSome then s
    else match d.queue with
      | [] => s
      | m :: q => ((s.setDr l { d with queue := q }).serve m).nextSC l n

/-- A message of a kind from a die reaches the home. -/
def State.hArrive (s : State) (k : MKind) (die l : Nat) : State :=
  match s.take k die l with | none => s | some (m, s) => s.arrive m

/-- READS, READM, UPGRADE, WRITE_BACK and CLEAN_EVICT at the home (R382). -/
def State.hReadS (s : State) (die l : Nat) : State := s.hArrive .readS die l
def State.hReadM (s : State) (die l : Nat) : State := s.hArrive .readM die l
def State.hUpgrade (s : State) (die l : Nat) : State := s.hArrive .upgrade die l
def State.hWriteBack (s : State) (die l : Nat) : State := s.hArrive .writeBack die l
def State.hCleanEvict (s : State) (die l : Nat) : State := s.hArrive .cleanEvict die l

/-- INV at a die: the S copy is dropped and acknowledged (R381). -/
def State.hInv (s : State) (die l : Nat) : State :=
  match s.take .inv die l with
  | none => s
  | some (_, s) => (s.dropL2 die l).send (mkMsg .snoopAck die l)

/-- A forward at a die, to S or to I: data from M or from the write-back buffer, an acknowledgement otherwise (R381); data that the home
will discard as of an older generation does not stay in the die either (R84). -/
def State.forward (s : State) (die l : Nat) (toS : Bool) : State :=
  let d := s.di die
  match d.line? l with
  | some x =>
    if x.cls = .sc ∧ x.st ≠ .s then
      let s' := if toS ∧ (x.st = .e ∨ s.genAt l x.ctx ≤ x.gen) then s.setDi die (d.modLine l (fun y => { y with st := .s, mask := 0 })) else s.dropL2 die l
      s'.send (if x.st = .m then { mkMsg .snoopAck die l with data := x.data, mask := fullMask, ctx := x.ctx, gen := x.gen } else mkMsg .snoopAck die l)
    else s.send (mkMsg .snoopAck die l)
  | none =>
    match d.wbuf.find? (fun x => x.line == l) with
    | some x => s.send { mkMsg .snoopAck die l with data := x.data, mask := fullMask, ctx := x.ctx, gen := x.gen }
    | none => s.send (mkMsg .snoopAck die l)

/-- FWD_S. -/
def State.hFwdS (s : State) (die l : Nat) : State :=
  match s.take .fwdS die l with | none => s | some (_, s) => s.forward die l true

/-- FWD_I. -/
def State.hFwdI (s : State) (die l : Nat) : State :=
  match s.take .fwdI die l with | none => s | some (_, s) => s.forward die l false

/-- SNOOP_ACK at the home: forwarded data is written; after the last acknowledgement the requester is granted the line (R382). -/
def State.hSnoopAck (s : State) (die l : Nat) : State :=
  match s.take .snoopAck die l with
  | none => s
  | some (m, s) =>
    let s := if m.mask = 0 then s else s.backWrite die l m.data m.mask m.ctx m.gen
    let d := s.dr l
    match d.busy with
    | none => s
    | some t =>
      let acks := t.acks &&& ~~~ BitVec.twoPow 22 die
      if acks ≠ 0 then s.setDr l { d with busy := some { t with acks := acks } }
      else
        let s := s.setDr l { d with busy := none }
        let s := if t.excl then s.grantTo t.want l .grantM (.x t.want)
          else s.grantTo t.want l .grantS (.s (BitVec.twoPow 22 die ||| BitVec.twoPow 22 t.want))
        s.nextSC l d.queue.length

/-- GRANT at a die: the line is taken in the granted state (R381). -/
def State.hGrant (s : State) (die l : Nat) : State :=
  match s.net.find? (fun m => m.die == die && m.line == l && (m.kind == .grantS || m.kind == .grantE || m.kind == .grantM)) with
  | none => s
  | some m =>
    let s := { s with net := s.net.erase m }
    let st : LSt := match m.kind with | .grantM => .m | .grantE => .e | _ => .s
    s.setDi die ((s.di die).putLine { line := l, cls := .sc, st := st, data := m.data, mask := 0, fill := true, ctx := 0, gen := 0 })

/-! ## RC, WS and PV (R347, R348, R383) -/

def bit22 (set : BitVec 22) (i : Nat) (b : Bool) : BitVec 22 :=
  if b then set ||| BitVec.twoPow 22 i else set &&& ~~~ BitVec.twoPow 22 i

/-- A line leaves a die without being written back, and its home forgets the copy. -/
def State.purge (s : State) (die l : Nat) : State :=
  let s := s.dropL2 die l
  let d := s.dr l
  let sc := match d.sc with
    | .x o => if o = die then .u else .x o
    | .s set => if bit22 set die false = 0 then .u else .s (bit22 set die false)
    | .u => .u
  s.setDr l { d with sc := sc, hold := bit22 d.hold die false, dirty := bit22 d.dirty die false }

/-- DIRTYNOTICE: the home sets the die's dirty bit. -/
def State.hDirtyNotice (s : State) (die l : Nat) : State :=
  match s.take .dirtyNotice die l with
  | none => s
  | some (_, s) => s.setDr l { s.dr l with dirty := bit22 (s.dr l).dirty die true, hold := bit22 (s.dr l).hold die true }

/-- MERGE_WRITE_BACK: the home applies the die's notice first, writes the masked bytes and clears the dirty bit (R383). -/
def State.hMerge (s : State) (die l : Nat) : State :=
  match s.take .merge die l with
  | none => s
  | some (m, s) =>
    let s := s.hDirtyNotice die l
    let s := s.backWrite die l m.data m.mask m.ctx m.gen
    s.setDr l { s.dr l with dirty := bit22 (s.dr l).dirty die false }

/-- READRC: the line comes back and is merged under the die's own dirty bytes; the home adds the holder (R383). -/
def State.hReadRC (s : State) (die l : Nat) : State :=
  match s.take .readRC die l with
  | none => s
  | some (_, s) => if (s.homeAbort l .rc).isSome then s else
    let s := s.setDr l { s.dr l with hold := bit22 (s.dr l).hold die true }
    let d := s.di die
    let home := memLine s.mem l
    match d.line? l with
    | some x => s.setDi die (d.modLine l (fun y => { y with data := mergeLine home x.data x.mask, fill := true }))
    | none => s.setDi die (d.putLine { line := l, cls := .rc, st := .v, data := home, mask := 0, fill := true, ctx := 0, gen := 0 })

/-- WS_PV_LINE_READ: the home supplies a WS or PV line; a PV line records the die as owner (R228). -/
def State.hWsRead (s : State) (die l : Nat) : State :=
  match s.take .wsRead die l with
  | none => s
  | some (_, s) => if (s.homeAbort l (s.classAt (linePage l))).isSome then s else
    let cls := s.classAt (linePage l)
    let s := if cls = .pv then s.setDr l { s.dr l with owner := some die } else s
    let d := s.di die
    let home := memLine s.mem l
    match d.line? l with
    | some x => s.setDi die (d.modLine l (fun y => { y with data := mergeLine home x.data x.mask, fill := true }))
    | none => s.setDi die (d.putLine { line := l, cls := cls, st := .v, data := home, mask := 0, fill := true, ctx := 0, gen := 0 })

/-- WS_PV_WRITE_BACK: forwarded WS bytes or a whole PV line are written; the last PV line to arrive wins (R347, R348). -/
def State.hWsWrite (s : State) (die l : Nat) : State :=
  match s.take .wsWrite die l with
  | none => s
  | some (m, s) => s.backWrite die l m.data m.mask m.ctx m.gen

/-- The die writes the dirty bytes of an RC, WS or PV line to the home; the line stays, whole and clean (R225, R347, R383), unless they were
of an older generation: the home discards those, and the die keeps none of them (R84). A line whose other bytes the home withholds does not stay
(R358). -/
def State.cleanLine (s : State) (die l : Nat) : State :=
  let d := s.di die
  match d.line? l with
  | none => s
  | some x =>
    if x.st ≠ .d ∨ x.cls = .sc then s
    else
      let m : Msg := { mkMsg (if x.cls = .rc then .merge else .wsWrite) die l with
        data := x.data, mask := if x.cls = .pv then fullMask else x.mask, ctx := x.ctx, gen := x.gen }
      let s := (s.setDi die { d.modLine l (fun y => { y with st := .v, mask := 0 }) with comb := d.comb.filter (· != l) }).send m
      let s := if x.cls = .rc then s.hMerge die l else s.hWsWrite die l
      if x.gen < s.genAt l x.ctx then
        let s := s.dropL2 die l
        s.setDr l { s.dr l with hold := bit22 (s.dr l).hold die false }
      else if x.fill then s
      else if (s.homeAbort l x.cls).isSome then s.dropL2 die l
      else s.setDi die ((s.di die).modLine l (fun y => { y with data := memLine s.mem l, fill := true }))

/-- Write a line's dirty bytes back and drop it from the die (R225, R383). -/
def State.dropLine (s : State) (die l : Nat) : State :=
  let s := s.cleanLine die l
  let s := s.dropL2 die l
  s.setDr l { s.dr l with hold := bit22 (s.dr l).hold die false }

/-- Evict a line of any class (R381, R383): an M line goes to the write-back buffer, an S or E line sends CleanEvict. -/
def State.evict (s : State) (die l : Nat) : State :=
  match (s.di die).line? l with
  | none => s
  | some x =>
    if x.cls = .sc then
      let s := s.dropL2 die l
      if x.st = .m then
        (s.setDi die { s.di die with wbuf := (s.di die).wbuf ++ [x] }).send
          { mkMsg .writeBack die l with data := x.data, mask := fullMask, ctx := x.ctx, gen := x.gen }
      else s.send (mkMsg .cleanEvict die l)
    else s.dropLine die l

/-- Make room in the L2 for a line: when its slice's set of 2,048 is full with 12 lines, the first in the order of eviction leaves (R376;
log 84). -/
def State.makeRoom (s : State) (die l : Nat) : State :=
  let d := s.di die
  let set (x : Nat) : Nat × Nat := (sliceOf d.placed d.variant x, x % 2048)
  match d.l2.filter (fun x => set x.line == set l) with
  | x :: xs => if 12 ≤ xs.length + 1 then s.evict die x.line else s
  | [] => s

/-- RECALL: a die merges and drops its copy (R383). -/
def State.hRecall (s : State) (die l : Nat) : State :=
  match s.take .recall die l with | none => s | some (_, s) => s.dropLine die l

/-! ## Settling a line -/

/-- Messages a die sends to a home. -/
def MKind.toHome : MKind → Bool
  | .inv | .fwdS | .fwdI | .grantS | .grantE | .grantM | .recall => false
  | _ => true

/-- The virtual channel of a message (R421): 0 request, 1 response, 2 snoop. -/
def MKind.vc : MKind → Nat
  | .grantS | .grantE | .grantM => 1
  | .inv | .fwdS | .fwdI | .recall | .snoopAck => 2
  | _ => 0

/-- Whether two messages travel on one virtual channel from one node to another (R421). -/
def State.sameWay (s : State) (x m : Msg) : Bool :=
  x.kind.vc == m.kind.vc && x.kind.toHome == m.kind.toHome && x.die == m.die && s.homeOf (128 * x.line) == s.homeOf (128 * m.line)

/-- Deliver one message; a home discards those of a die whose fence mark it has set (R453), and an acknowledgement of a snoop to a fenced home is
discarded (R422). -/
def State.deliver (s : State) (m : Msg) : State :=
  if m.kind.toHome && ((s.no (s.homeOf (128 * m.line))).marks.contains m.die || (m.kind == .snoopAck && s.homeFenced m.line)) then
    { s with net := s.net.erase m } else
  match m.kind with
  | .readS => s.hReadS m.die m.line
  | .readM => s.hReadM m.die m.line
  | .upgrade => s.hUpgrade m.die m.line
  | .writeBack => s.hWriteBack m.die m.line
  | .cleanEvict => s.hCleanEvict m.die m.line
  | .inv => s.hInv m.die m.line
  | .fwdS => s.hFwdS m.die m.line
  | .fwdI => s.hFwdI m.die m.line
  | .snoopAck => s.hSnoopAck m.die m.line
  | .grantS | .grantE | .grantM => s.hGrant m.die m.line
  | .readRC => s.hReadRC m.die m.line
  | .dirtyNotice => s.hDirtyNotice m.die m.line
  | .merge => s.hMerge m.die m.line
  | .recall => s.hRecall m.die m.line
  | .wsRead => s.hWsRead m.die m.line
  | .wsWrite => s.hWsWrite m.die m.line
  | .lineset => s

/-- The message that arrives before any other on the way of one (R421); a `lineset` is taken by the access that sends it. -/
def State.firstOn (s : State) (m : Msg) : Option Msg := s.net.find? (fun x => x.kind != .lineset && s.sameWay x m)

/-- Whether a message can be delivered now: the first on its way, and none that an instruction takes itself (R421). -/
def State.ripe (s : State) (m : Msg) : Bool := m.kind != .lineset && s.firstOn m == some m

/-- Deliver the messages of a line, and those before them on their way, until none of the line is left, at most `fuel` of them. -/
def State.settle (s : State) (l : Nat) : Nat → State
  | 0 => s
  | fuel + 1 =>
    match s.net.find? (fun m => m.line == l && m.kind != .lineset) with
    | none => s
    | some m => match s.firstOn m with
      | none => s
      | some x => State.settle (s.deliver x) l fuel

/-- Messages one access can leave behind for a line: its own, and a round to every die for each of them. -/
def settleFuel : Nat := 1200

/-- Recall every copy of a line from the dies, writing back dirty bytes; the directory forgets the holders (R238, R379). -/
def State.recallLine (s : State) (l : Nat) : State :=
  let s := s.settle l settleFuel
  let s := (List.range 22).foldl (fun s die => match (s.di die).line? l with
    | none => s
    | some x => if x.cls = .sc then s.evict die l else s.dropLine die l) s
  let s := s.settle l settleFuel
  s.setDr l { lost := (s.dr l).lost || s.lineGone l, bad := (s.dr l).bad }

/-! ## The size of a directory (R379) -/

/-- Whether a directory has an entry for a line: an SC or RC line that some die holds. -/
def Dir.tracked (d : Dir) : Bool := d.sc != .u || d.hold != 0 || d.busy.isSome

/-- The home and directory set of a line: 262,144 sets of a near home, 131,072 of a far one, 16 ways each (log 84). -/
def State.dirSet (s : State) (l : Nat) : Nat × Nat :=
  let (h, f) := pagePlace s.nearPl (linePage l)
  (h, (512 * f + l % 512) % (if h < 30 then 262144 else 131072))

/-- Make room in the home's directory for a line of this package: the home recalls a victim of a full set before it reuses the entry; LOST
marks stay, as in the spill table (R379, R380). -/
def State.dirRoom (s : State) (l : Nat) : State :=
  if paPkg (128 * l) ≠ Config.pkg ∨ (s.dr l).tracked then s
  else
    let set := s.dirs.filter (fun p => p.2.tracked && paPkg (128 * p.1) == Config.pkg && s.dirSet p.1 == s.dirSet l)
    (set.take (set.length - 15)).foldl (fun s p => s.recallLine p.1) s

/-! ## Performing an access at a die -/

/-- Whether a die holds `n` bytes at an offset of a line in a state a load may use, under a class. -/
def State.holds (s : State) (die l : Nat) (cls : PClass) (m : BitVec 128) : Bool :=
  match (s.di die).line? l with
  | none => false
  | some x => x.cls == cls && (x.fill || (x.mask &&& m) == m)

/-- A die takes a home's boundary pointer as its copy (R388). -/
def State.syncB (s : State) (die home : Nat) : State :=
  if (s.no home).rehash ∧ tfind (s.di die).bound home ≠ some (s.no home).boundary then
    s.setDi die { s.di die with bound := tput (s.di die).bound home (s.no home).boundary }
  else s

/-- An access of a die misses: where its L2 holds misses back, that is noted (R378), and where the home answers with a retry since the unit
has moved, the die computes the home again with the boundary as it is now (R388). -/
def State.miss (s : State) (die l : Nat) : State :=
  let s := if (s.di die).stall then { s with missed := true } else s
  let s := match s.lostStack with | some h => s.syncB die h | none => s
  s.syncB die (s.homeOf (128 * l))

/-- Bring a line into the die for reading, as the last or, with `.stream`, the first in the order of eviction (R221, R381, R383, R347,
R348). -/
def State.fetchLine (s : State) (die l : Nat) (cls : PClass) (hint : Hint) : State :=
  let held := ((s.di die).line? l).isSome
  let s := match (s.di die).line? l with
    | some x => if x.cls = cls then s else s.evict die l
    | none => s.makeRoom die l
  let s := if cls = .sc ∨ cls = .rc then s.dirRoom l else s
  let k : MKind := match cls with | .sc => .readS | .rc => .readRC | _ => .wsRead
  let s := ((s.miss die l).send (mkMsg k die l)).settle l settleFuel
  if hint = .stream ∧ !held then s.setDi die ((s.di die).first l) else s

/-- The L1 line of a core (R375). -/
def State.l1? (s : State) (ck l : Nat) (cls : PClass) : Option L1Line :=
  (s.co ck).l1.find? (fun x => x.line == l && x.cls == cls)

/-- Put a line in an L1: the oldest of its set of 8 leaves, and with `.stream` the line is the first to leave (R221, R375; log 84). -/
def State.fillL1 (s : State) (ck : Nat) (x : L1Line) (hint : Hint) : State :=
  let c := s.co ck
  let l1 := c.l1.filter (fun y => y.line != x.line)
  let l1 := match l1.filter (fun y => y.line % 128 == x.line % 128) with
    | y :: ys => if 8 ≤ ys.length + 1 then l1.erase y else l1
    | [] => l1
  s.setCo ck { c with l1 := if hint = .stream then x :: l1 else l1 ++ [x] }

/-- A read of a line's bytes under a class at a core (R218, R221, R356, R375, R381, R383): the line's data, or an abort. A `.na` load that misses
on an SC page brings the line into the L2, since R381 performs an SC load only in S, E or M, where R221 allocates none (log 97). -/
def State.readLine (s : State) (die core l : Nat) (cls : PClass) (m : BitVec 128) (hint : Hint) : Except Abort (BitVec 1024) × State :=
  let ck := coreKey die core
  if s.lineLost l then (.error ((s.homeAbort l cls).getD .data), s)
  else if !caches die then
    match s.homeAbort l cls with
    | some a => (.error a, s)
    | none =>
      let s := if cls = .sc then s.recallLine l else s
      (.ok (memLine s.mem l), s)
  else
  match (if cls = .sc then none else s.l1? ck l cls) with
  | some x => (.ok x.data, s)
  | none =>
    let s := s.settle l settleFuel
    if s.holds die l cls m then
      let x := ((s.di die).line? l).getD default
      (.ok x.data, if cls = .sc ∨ hint = .na ∨ !x.fill then s else s.fillL1 ck ⟨l, cls, x.data⟩ hint)
    else match s.homeAbort l cls with
      | some a => (.error a, s)
      | none =>
        if hint = .na ∧ cls ≠ .sc ∧ ((s.di die).line? l).isNone then
          let s := s.miss die l
          (.ok (memLine s.mem l), if cls = .pv then s.setDr l { s.dr l with owner := some die } else s)
        else
          let s := s.fetchLine die l cls hint
          let x := ((s.di die).line? l).getD default
          (.ok x.data, if cls = .sc ∨ hint = .na then s else s.fillL1 ck ⟨l, cls, x.data⟩ hint)

/-- Update an L1 copy that a store hits (R375). -/
def State.storeL1 (s : State) (ck l : Nat) (d : BitVec 1024) (m : BitVec 128) : State :=
  let c := s.co ck
  if c.l1.any (fun x => x.line == l) then
    s.setCo ck { c with l1 := c.l1.map (fun x => if x.line = l then { x with data := mergeLine x.data d m } else x) }
  else s

/-- The combining entries a slice holds (R347). -/
def Die.combOf (d : Die) (slice : Nat) : List Nat := d.comb.filter (fun l => sliceOf d.placed d.variant l == slice)

/-- Combine WS bytes: a full entry is forwarded, and the oldest one when a 65th is needed (R347). -/
def State.combine (s : State) (die l : Nat) : State :=
  let d := s.di die
  let x := (d.line? l).getD default
  if x.mask = fullMask then s.cleanLine die l
  else if d.comb.contains l then s
  else
    let mine := d.combOf (sliceOf d.placed d.variant l)
    let s := if mine.length ≥ 64 then s.cleanLine die (mine.headD 0) else s
    s.setDi die { s.di die with comb := (s.di die).comb ++ [l] }

/-- Dirty bytes that another context, or an older generation, wrote into a line of the die go home before the line takes the tag of a new
writer: a line has one context and generation (R84, R376; log 85). -/
def State.flushOther (s : State) (die l ctx gen : Nat) : State :=
  match (s.di die).line? l with
  | some x =>
    if (x.st = .d ∨ x.st = .m) ∧ (x.ctx ≠ ctx ∨ x.gen ≠ gen) then
      (if x.cls = .sc then (s.evict die l).settle l settleFuel else s.cleanLine die l)
    else s
  | none => s

/-- Whether a die holds a line under a class. -/
def State.heldAs (s : State) (die l : Nat) (cls : PClass) : Bool :=
  match (s.di die).line? l with | some x => x.cls == cls | none => false

/-- Whether a store needs nothing of the home: the line is held under its class, an SC line in E or M. -/
def State.storeHit (s : State) (die l : Nat) (cls : PClass) : Bool :=
  match (s.di die).line? l with | some x => x.cls == cls && !(cls == .sc && x.st == .s) | none => false

/-- Put masked bytes of a writer into a line of the die; a whole line needs no fill. -/
def State.mergeIn (s : State) (die l : Nat) (st : LSt) (d : BitVec 1024) (m : BitVec 128) (ctx gen : Nat) : State :=
  s.setDi die ((s.di die).modLine l (fun y =>
    { y with st := st, data := mergeLine y.data d m, mask := if st = .m then y.mask else y.mask ||| m, fill := y.fill || (y.mask ||| m) == fullMask,
             ctx := ctx, gen := gen }))

/-- Allocate a line without its data (R347, R383). -/
def State.allocate (s : State) (die l : Nat) (cls : PClass) (ctx gen : Nat) (hint : Hint) : State :=
  let s := (s.miss die l).makeRoom die l
  let s := s.setDi die ((s.di die).putLine { line := l, cls := cls, st := .v, data := 0, mask := 0, fill := false, ctx := ctx, gen := gen })
  if hint = .stream then s.setDi die ((s.di die).first l) else s

/-- A store of an SC line gains it in state M (R381, R382). -/
def State.gainM (s : State) (die l : Nat) (hint : Hint) : State :=
  match ((s.di die).line? l).map (fun x => x.st) with
  | some LSt.e | some LSt.m => s
  | some _ => ((s.miss die l).send (mkMsg .upgrade die l)).settle l settleFuel
  | none =>
    let s := ((((s.miss die l).makeRoom die l).dirRoom l).send (mkMsg .readM die l)).settle l settleFuel
    if hint = .stream then s.setDi die ((s.di die).first l) else s

/-- A write of masked bytes of a line under a class at a core (R218, R220, R221, R356, R375, R381, R383, R347, R348). A node without an L2
writes at the home, and so does a `.na` store that misses, which allocates nothing. -/
def State.writeLine (s : State) (die core l : Nat) (cls : PClass) (d : BitVec 1024) (m : BitVec 128) (ctx gen : Nat) (hint : Hint) : Option Abort × State :=
  let s := s.settle l settleFuel
  match (if s.storeHit die l cls && !s.lineLost l then none else s.homeAbort l cls) with
  | some a => (some a, s)
  | none =>
    if !caches die then (none, (if cls = .sc then s.recallLine l else s).homeWrite l d m ctx gen)
    else
      let s := s.flushOther die l ctx gen
      let held := s.heldAs die l cls
      let s := if !held && ((s.di die).line? l).isSome then s.evict die l else s
      let s := s.storeL1 (coreKey die core) l d m
      if hint = .na ∧ cls ≠ .sc ∧ !held then (none, (s.miss die l).homeWrite l d m ctx gen)
      else
        match cls with
        | .sc => (none, (s.gainM die l hint).mergeIn die l .m d m ctx gen)
        | .rc =>
          let notice : Bool := match (s.di die).line? l with | some x => x.st != .d | none => true
          let s := if held then s else (s.dirRoom l).allocate die l .rc ctx gen hint
          let s := s.mergeIn die l .d d m ctx gen
          (none, if notice then (s.send (mkMsg .dirtyNotice die l)).settle l settleFuel else s)
        | .ws =>
          let s := if held then s else s.allocate die l .ws ctx gen hint
          (none, (s.mergeIn die l .d d m ctx gen).combine die l)
        | .pv =>
          let s := if held then s else s.fetchLine die l .pv hint
          (none, s.mergeIn die l .d d m ctx gen)

/-! ## Release and acquire actions (R232) -/

/-- Scopes that reach beyond the die. -/
def scopeWide : Scope → Bool
  | .pkg | .dom | .sys => true
  | _ => false

/-- The release actions of a die at `.pkg`: RC merged, WS drained, PV owner tags released (R232). -/
def State.releaseDie (s : State) (die : Nat) : State :=
  let ls := ((s.di die).l2.filter (fun x => x.st == .d && (x.cls == .rc || x.cls == .ws))).map (·.line)
  let s := ls.foldl (fun s l => s.cleanLine die l) s
  { s with dirs := s.dirs.map (fun p => if p.2.owner = some die then (p.1, { p.2 with owner := none }) else p) }

/-- The L1 acquire of a core: RC and WS lines are dropped (R232, R375), and those of PV, which within a die follows the RC rules (R335, R348;
log 96). -/
def State.acquireL1 (s : State) (ck : Nat) : State := s.setCo ck { s.co ck with l1 := [] }

/-- The acquire actions of a scope for a core (R232). -/
def State.acquire (s : State) (die core : Nat) (sc : Scope) : State :=
  if sc = .grp then s
  else
    let s := s.acquireL1 (coreKey die core)
    if scopeWide sc then
      let ls := ((s.di die).l2.filter (fun x => x.cls == .rc || x.cls == .ws)).map (·.line)
      ls.foldl (fun s l => s.dropLine die l) s
    else s

end Sys2Proof.Machine
end

