-- ==== Sys2Proof/Machine/Access.lean ====
section
/-! DEFINITION. From a generic address to its bytes: apertures (R39–R42), the page walk (R391–R393), per-thread stacks (R511),
the checks of every lane (R217), the store queue with its forwarding (R220), loads, stores, line operations and atomics at
their places (R218, R222–R229), the error records a home writes (R318, R319), and the health counts and records of a node (R449, R450). -/

namespace Sys2Proof.Machine

/-- Kinds of access, in the order of DETAIL32 of a page fault (R313). -/
inductive AKind | read | write | atomic | exec
deriving DecidableEq, Repr

def AKind.num : AKind → Nat | .read => 0 | .write => 1 | .atomic => 2 | .exec => 3

/-- Apertures of R39. -/
inductive Aper | spad | stack | ws | global | bad
deriving DecidableEq, Repr

/-- The aperture of a generic address (R39). -/
def aperOf (a : W64) : Aper :=
  match a.toNat / 2 ^ 48 with
  | 0xFFFE => .spad
  | 0xFFFD => .stack
  | 0xFFFC => .ws
  | n => if n < 256 then .global else .bad

/-- The offset of an address within an aperture. -/
def aperOff (a : W64) : Nat := a.toNat % 2 ^ 48

/-! ## The page walk (R391–R393) -/

/-- What Translate answers for a global address (R87, R393). -/
inductive Walk
  | ok (pa : Nat) (cls : PClass) (discarded moving : Bool) (pte : W64) (ptePa : Nat) (large : Bool)
  | fault (malformed : Bool)
  | addr
  | perm
  | abort (e : Abort)
deriving DecidableEq, Repr

/-- Page class of a code (R43). -/
def classOf (n : Nat) : PClass := match n % 4 with | 0 => .pv | 1 => .rc | 2 => .sc | _ => .ws

/-- Eight bytes at their home, little-endian. -/
def State.homeWord (s : State) (pa : Nat) : W64 := BitVec.ofNat 64 (leNat (memBytes s.mem pa 8))

/-- A table entry read at its home as an SC access: dirty copies come home first (R391). -/
def State.tableWord (s : State) (pa : Nat) : W64 × State :=
  let s := s.recallLine (pa / 128)
  (s.homeWord pa, s)

/-- What the home of a table entry answers to its read, an SC access (R356, R391, R422). -/
def State.tableAbort (s : State) (pa : Nat) : Option Abort := s.homeAbort (pa / 128) .sc

/-- Whether a table lies where a walk may read it (R391). -/
def State.tableOk (s : State) (pa : Nat) : Bool :=
  s.domain.contains (paPkg pa) && populated (paLocal pa) && s.classAt (pa / 65536) == .sc && pa < 2 ^ 56

/-- MALFORMED conditions of a leaf entry at a level, and of a non-leaf one (R392). -/
def badLeaf (pte : W64) (level : Nat) : Bool :=
  let n := pte.toNat
  let frame := n / 65536 % 2 ^ 40
  decide (n / 2 ^ 56 ≠ 0) || decide (n / 2048 % 32 ≠ 0) || decide (n / 256 % 4 = 3) || pte.getLsbD 7 != (level == 1) ||
    decide (level = 1 ∧ frame % 1024 ≠ 0) || pte.getLsbD 10 != decide (2 ^ 40 ≤ paLocal (frame * 65536))
def badTable (pte : W64) : Bool := decide (pte.toNat / 2 ^ 56 ≠ 0) || decide (pte.toNat / 2 % 4096 ≠ 0)

/-- The table a non-leaf entry names (R392). -/
def nextTable (pte : W64) : Nat := pte.toNat / 65536 % 2 ^ 40 * 65536 + pte.toNat / 8192 % 8 * 8192

/-- The leaf of a walk (R392, R393): A, and D for writes and atomics, are set in the entry. -/
def State.leaf (s : State) (pte : W64) (ptePa va : Nat) (level : Nat) (kind : AKind) : Walk × State :=
  let n := pte.toNat
  let frame := n / 65536 % 2 ^ 40
  let state := n / 256 % 4
  let size := if level = 1 then 2 ^ 26 else 65536
  let pa := frame * 65536 + va % size
  if badLeaf pte level then (.fault true, s)
  else if state ≠ 1 ∧ s.domain.contains (paPkg pa) ∧ !populated (paLocal pa) then (.addr, s)
  else if (kind = .write ∨ kind = .atomic) ∧ !pte.getLsbD 3 ∧ state ≠ 1 then (.perm, s)
  else if kind = .exec ∧ !pte.getLsbD 4 ∧ state ≠ 1 then (.perm, s)
  else if state = 1 then (.ok pa (classOf (n / 2)) true false pte ptePa (level == 1), s)
  else
    let dirty := kind = .write ∨ kind = .atomic
    let pte' := pte ||| 0x20 ||| (if dirty then 0x40 else 0)
    let s := if pte' = pte then s else s.homePut ptePa (leBytes 8 pte'.toNat)
    (.ok pa (classOf (n / 2)) false (state == 2) pte' ptePa (level == 1), s)

/-- Whether a die's page-walk cache holds an entry of a table as the table stands: its home's bytes, of which no die has a newer copy (R393). -/
def State.cachedEntry (s : State) (die pa : Nat) : Bool :=
  tfind (s.di die).walks pa == some (s.homeWord pa) && (match (s.dr (pa / 128)).sc with | .x _ => false | _ => true)

/-- A walk has read an entry that names a table: the page-walk cache of the die keeps it, in the place of the oldest of 512 (R393; log 84). -/
def State.keepEntry (s : State) (die pa : Nat) (e : W64) : State :=
  let w := (s.di die).walks.filter (fun p => p.1 != pa)
  s.setDi die { s.di die with walks := (if 512 ≤ w.length then w.drop 1 else w) ++ [(pa, e)] }

/-- Walk from the table at `base` for a die (R391). -/
def State.walk (s : State) (die base va : Nat) (kind : AKind) : Nat → Walk × State
  | 0 =>
    let ptePa := base + 8 * (va / 2 ^ 16 % 1024)
    if !s.tableOk base then (.fault true, s)
    else match s.tableAbort ptePa with
    | some a => (.abort a, s)
    | none =>
      let (e, s) := s.tableWord ptePa
      if !e.getLsbD 0 then (.fault false, s) else s.leaf e ptePa va 0 kind
  | level + 1 =>
    let ptePa := base + 8 * (va / 2 ^ (26 + 10 * level) % 1024)
    if !s.tableOk base then (.fault true, s)
    else if s.cachedEntry die ptePa then s.walk die (nextTable (s.homeWord ptePa)) va kind level
    else match s.tableAbort ptePa with
    | some a => (.abort a, s)
    | none =>
      let (e, s) := s.tableWord ptePa
      if !e.getLsbD 0 then (.fault false, s)
      else if level = 0 ∧ e.getLsbD 7 then s.leaf e ptePa va 1 kind
      else if badTable e then (.fault true, s)
      else (s.keepEntry die ptePa e).walk die (nextTable e) va kind level

/-- Whether a cached translation serves an access of a context: permission and the dirty bit are already there (R393). -/
def Tlb.serves (t : Tlb) (ctx va : Nat) (kind : AKind) : Bool :=
  t.ctx == ctx && t.vpage == (if t.large then va / 2 ^ 26 else va / 65536) && t.pte.getLsbD 5 &&
    (match kind with
     | .read => true
     | .exec => t.pte.getLsbD 4
     | _ => t.pte.getLsbD 3 && t.pte.getLsbD 6)

/-- The translation an entry holds for an address. -/
def Tlb.walk (t : Tlb) (va : Nat) : Walk :=
  let n := t.pte.toNat
  .ok (n / 65536 % 2 ^ 40 * 65536 + va % (if t.large then 2 ^ 26 else 65536)) (classOf (n / 2)) (n / 256 % 4 == 1) (n / 256 % 4 == 2) t.pte t.ptePa t.large

/-- Put an entry in a translation cache of `n` entries: it takes the place of one for its page, or of the oldest (R393; log 84). -/
def tlbAdd (l : List Tlb) (t : Tlb) (n : Nat) : List Tlb :=
  let l := l.filter (fun u => !(u.ctx == t.ctx && u.vpage == t.vpage && u.large == t.large))
  (if n ≤ l.length then l.drop 1 else l) ++ [t]

/-- Translate a global virtual address for a context on a die: an entry of the die's cache of 4,096, or a fresh walk that is then cached
(R87, R393). -/
def State.translate (s : State) (die ctx va : Nat) (kind : AKind) : Walk × State :=
  match (s.di die).tlb.find? (fun t => t.serves ctx va kind) with
  | some t => (t.walk va, s)
  | none =>
    let (w, s) := s.walk die ((s.cx ctx).ptbase.toNat % 2 ^ 56) va kind 3
    match w with
    | .ok _ _ false _ pte ptePa large =>
      let t : Tlb := { ctx := ctx, vpage := if large then va / 2 ^ 26 else va / 65536, large := large, pte := pte, ptePa := ptePa }
      (w, s.setDi die { s.di die with tlb := tlbAdd (s.di die).tlb t 4096 })
    | _ => (w, s)

/-- Translate at a core: an entry of its own cache of 64, or the die's translation, which the core then caches (R393). -/
def State.translateAt (s : State) (die core ctx va : Nat) (kind : AKind) : Walk × State :=
  let ck := coreKey die core
  match (s.co ck).tlb.find? (fun t => t.serves ctx va kind) with
  | some t => (t.walk va, s)
  | none =>
    let (w, s) := s.translate die ctx va kind
    match w with
    | .ok _ _ false _ pte ptePa large =>
      let t : Tlb := { ctx := ctx, vpage := if large then va / 2 ^ 26 else va / 65536, large := large, pte := pte, ptePa := ptePa }
      (w, s.setCo ck { s.co ck with tlb := tlbAdd (s.co ck).tlb t 64 })
    | _ => (w, s)

/-! ## The context save area (R81, R511) -/

/-- Read a context's bytes at their homes as a node does, an SC line's newest; `none` where a page or a home does not serve them. -/
def State.ctxGet (s : State) (die ctx va n : Nat) : Option (List Byte) :=
  match (s.translate die ctx va .read).1 with
  | .ok _ _ true _ _ _ _ => some (List.replicate n 0)
  | .ok pa cls false _ _ _ _ => if (s.homeAbort (pa / 128) cls).isSome then none else some (memBytes (if cls = .sc then s.recallLine (pa / 128) else s).mem pa n)
  | _ => none

/-- A little-endian field of a context's memory as the hardware reads it; zero where a page or a home does not serve it (log 104). -/
def State.ctxField (s : State) (die ctx va n : Nat) : Nat := leNat ((s.ctxGet die ctx va n).getD [])

/-- USERBYTES, BLOCKBYTES and STACKMAX of a context's save area (R81). -/
def State.userBytes (s : State) (die ctx : Nat) : Nat := s.ctxField die ctx ((s.cx ctx).csave.toNat + 4) 4
def State.blockBytes (s : State) (die ctx : Nat) : Nat := s.ctxField die ctx ((s.cx ctx).csave.toNat + 8) 8
def State.stackMax (s : State) (die ctx : Nat) : Nat := s.ctxField die ctx ((s.cx ctx).csave.toNat + 16) 4

/-- The global virtual address of a team's save block (R81). -/
def State.blockVa (s : State) (t : Team) : Nat :=
  (s.cx t.ctx).csave.toNat + 65536 + t.block * s.blockBytes t.die t.ctx

/-- The global virtual address of a stack offset of a thread (R511). -/
def State.stackVa (s : State) (t : Team) (tid off : Nat) : Nat :=
  s.blockVa t + 0x110000 + 66 * s.userBytes t.die t.ctx + tid * s.stackMax t.die t.ctx + off

/-! ## Spots: where one lane's access lands -/

/-- Where an access lands after the checks: bytes of a place, beyond an allocation (R41), the weight store, a discarded page, or an abort that
its page's walk met (R218, R391). -/
inductive Spot
  | at (p : Place) (cls : PClass)
  | beyond
  | ws (off : Nat)
  | discarded
  | aborted (e : Abort)
deriving DecidableEq, Repr

/-- Why a lane's access cannot be made (R217). -/
inductive Stop
  | addr
  | align
  | fault (malformed : Bool) (va : Nat)
  | perm
  | cls
  | discard
  | pbx
deriving DecidableEq, Repr

/-- The place of a scratchpad offset of a team (R40). -/
def Team.spadPlace (t : Team) (off : Nat) : Option Place :=
  let even := coreKey t.die t.core
  if off < t.spad then some (.spad even (t.base0 + off))
  else if t.paired && decide (off < 2 * t.spad) then some (.spad (even + 1) (t.base1 + (off - t.spad)))
  else none

/-- Aperture conditions that need no translation (R217 step 1): whether an access kind of `n` bytes is refused. -/
def addrBad (s : State) (a : Agent) (ea : W64) (kind : AKind) : Bool :=
  match aperOf ea with
  | .bad => true
  | .ws => kind = .write || kind = .atomic || decide (aperOff ea ≥ Config.wsBytes) || (s.di a.die).wsOwner ≠ some (s.ctxOf a)
  | _ => false

/-- The class of a firmware address: its page's at home; a node's private space has none, and counts as PV (log 5). -/
def State.fwClass (s : State) (ea : W64) : PClass := if ea.toNat < 2 ^ 20 then .pv else s.classAt (ea.toNat / 65536)

/-- Bytes of a physical space a firmware address names: the low 2^20 are the node's private space, the rest physical (log 5). -/
def fwSpot (s : State) (a : Agent) (ea : W64) : Spot :=
  .at (if ea.toNat < 2 ^ 20 then .priv a.die ea.toNat else .phys (ea.toNat % 2 ^ 56)) (s.fwClass ea)

/-- Whether the header's CLASSES lets an agent reach a class (R142). -/
def State.classOk (s : State) (a : Agent) (c : PClass) : Bool :=
  a.kind == .firmware || (s.launchOf a).hdr.classes.getLsbD (match c with | .pv => 0 | .rc => 1 | .sc => 2 | .ws => 3)

/-- Translate one lane's address (R217 step 3, R511). -/
def State.spotOf (s : State) (a : Agent) (lane : Nat) (ea : W64) (kind : AKind) : Except Stop Spot × State :=
  match aperOf ea with
  | .bad => (.error .addr, s)
  | .ws => (.ok (.ws (aperOff ea)), s)
  | .spad =>
    match (s.teamOf a).spadPlace (aperOff ea) with
    | some p => (.ok (.at p .pv), s)
    | none => (.ok .beyond, s)
  | .stack =>
    let t := s.teamOf a
    if a.kind = .group ∧ aperOff ea < t.stack then
      let va := s.stackVa t (tget a.tids lane) (aperOff ea)
      match s.translateAt a.die a.core t.ctx va kind with
      | (.ok pa _ d _ _ _ _, s) => (.ok (if d then .discarded else .at (.phys pa) .rc), s)
      | (.fault m, s) => (.error (.fault m va), s)
      | (.addr, s) => (.error .addr, s)
      | (.perm, s) => (.error .perm, s)
      | (.abort e, s) => (.ok (.aborted e), s)
    else (.ok .beyond, s)
  | .global =>
    if a.isF then (if kind = .atomic ∧ s.fwClass ea = .ws then .error .cls else .ok (fwSpot s a ea), s)
    else
      match s.translateAt a.die a.core (s.ctxOf a) (ea.toNat % 2 ^ 56) kind with
      | (.ok pa c d _ _ _ _, s) =>
        if !s.classOk a c || (kind = .atomic && c = .ws) then (.error .cls, s)
        else if d then (.ok .discarded, s) else (.ok (.at (.phys pa) c), s)
      | (.fault m, s) => (.error (.fault m (ea.toNat % 2 ^ 56)), s)
      | (.addr, s) => (.error .addr, s)
      | (.perm, s) => (.error .perm, s)
      | (.abort e, s) => (.ok (.aborted e), s)

/-- Whether bytes at a scratchpad place overlap an armed postbox of a team (R33): `pbx` is keyed by the team's offsets. -/
def Team.pbxHit (t : Team) (p : Place) (n : Nat) : Bool :=
  t.pbx.any (fun q => match t.spadPlace q.1, p with
    | some (.spad c o), .spad c' o' => c == c' && decide (o < o' + n) && decide (o' < o + 16)
    | _, _ => false)

/-- The five checks of R217 over all lanes: the first condition any lane meets, named by its lowest lane, else the spots. -/
def State.laneChecks (s : State) (a : Agent) (eas : List (Nat × W64)) (n : Nat) (kind : AKind) :
    Except (Stop × Nat × W64) (List (Nat × W64 × Spot)) × State :=
  match eas.find? (fun e => addrBad s a e.2 kind) with
  | some e => (.error (.addr, e.1, e.2), s)
  | none =>
  match eas.find? (fun e => e.2.toNat % n != 0) with
  | some e => (.error (.align, e.1, e.2), s)
  | none =>
    let r := eas.foldl (fun (acc : Except (Stop × Nat × W64) (List (Nat × W64 × Spot)) × State) e =>
      match acc with
      | (.error x, s) => (.error x, s)
      | (.ok l, s) =>
        match s.spotOf a e.1 e.2 kind with
        | (.ok sp, s) => (.ok (l ++ [(e.1, e.2, sp)]), s)
        | (.error st, s) => (.error (st, e.1, e.2), s)) (.ok [], s)
    match r with
    | (.error x, s) => (.error x, s)
    | (.ok l, s) =>
      if kind = .read then (.ok l, s)
      else match l.find? (fun e => e.2.2 == .discarded) with
        | some e => (.error (.discard, e.1, e.2.1), s)
        | none =>
          match l.find? (fun e => match e.2.2 with | .at p _ => (s.teamOf a).pbxHit p n | _ => false) with
          | some e => (.error (.pbx, e.1, e.2.1), s)
          | none => (.ok l, s)

/-- Record the first out-of-range address of a context (R41). -/
def State.spoor (s : State) (ctx : Nat) (ea : W64) : State :=
  let c := s.cx ctx
  if c.spoor then s else s.setCx ctx { c with spoor := true, spoorAddr := ea }

/-! ## Bytes at a place -/

/-- Little-endian value of `n` bytes of a line at an offset. -/
def lineNat (d : BitVec 1024) (o n : Nat) : Nat := (d >>> (8 * o)).toNat % 2 ^ (8 * n)

/-- A node's health register (R450). -/
def State.healthReg (s : State) (node : Nat) : W64 :=
  let n := s.no node
  BitVec.ofNat 64 ((if n.fenced then 2 else 0) + 2 ^ 8 * n.icause + 2 ^ 16 * n.thresh.toNat + 2 ^ 24 * n.lasting + 2 ^ 32 * n.trans + 2 ^ 48 * n.corr)

/-- The node whose health register holds a private address of the I/O die, with the byte's place in it (R450). -/
def healthAt (nd o : Nat) : Option (Nat × Nat) :=
  if nd = ioNode ∧ 0x30000 ≤ o ∧ (o - 0x30000) / 64 < 33 ∧ o % 64 < 8 then some ((o - 0x30000) / 64, o % 64) else none

/-- Bytes of a node's private space: its memory, and on the I/O die the health registers. -/
def State.privBytes (s : State) (nd o n : Nat) : List Byte :=
  (List.range n).map (fun i => match healthAt nd (o + i) with
    | some (node, j) => (s.healthReg node).extractLsb' (8 * j) 8
    | none => memGet (s.no nd).priv (o + i))

/-- HEALTH_CLEAR: CLR clears the counters (R450). -/
def State.clearHealth (s : State) (node : Nat) : State := s.setNo node { s.no node with corr := 0, trans := 0, lasting := 0 }

/-! ## Health records (R449, R450) -/

/-- The 32 bytes of a health record (R449). -/
def healthBytes (ptb addr node kind icause unit req seq : Nat) : List Byte :=
  leBytes 8 ptb ++ leBytes 8 addr ++ leBytes 1 node ++ leBytes 1 kind ++ leBytes 1 icause ++ leBytes 1 unit ++ leBytes 1 req ++ leBytes 3 0 ++
    leBytes 4 seq ++ leBytes 4 0

/-- Write a health record of an error detected at a time: into the I/O die's log by SEQ, and for a compute die into its controller's last 64
(R449). -/
def State.healthRecOf (s : State) (ptb node kind icause unit addr req : Nat) : State :=
  let bs := healthBytes ptb addr node kind icause unit req s.healthSeq
  let io := s.no ioNode
  let s := { s.setNo ioNode { io with priv := memPutBytes io.priv (0x40000 + 32 * (s.healthSeq % 4096)) bs } with healthSeq := (s.healthSeq + 1) % 2 ^ 32 }
  if node < 22 then
    let n := s.no node
    s.setNo node { n with priv := memPutBytes n.priv (0x14000 + 32 * (n.hpos % 64)) bs, hpos := n.hpos + 1 }
  else s

/-- A health record of what is detected now. -/
def State.healthRec (s : State) (node kind icause unit addr req : Nat) : State := s.healthRecOf (s.ptbAt ioNode) node kind icause unit addr req

/-- Whether a node's LASTING count has reached its threshold (R450). -/
def Node.reached (n : Node) : Bool := n.thresh != 0 && decide (n.thresh.toNat ≤ n.lasting) && !n.fenced

/-- A lasting error of a node, detected at a time (R447, R449, R450): counted, recorded, and the node fenced when the count reaches its
threshold. -/
def State.lastingOf (s : State) (ptb node icause unit addr req : Nat) : State :=
  let n := s.no node
  let k := min 255 (n.lasting + 1)
  let s := (s.setNo node { n with lasting := k, icause := icause }).healthRecOf ptb node 2 icause unit addr req
  if (s.no node).reached then { s with todo := s.todo ++ [Todo.nodeFence node] } else s

/-- A transient error of a node, detected at a time (R447, R449, R450). -/
def State.transientOf (s : State) (ptb node icause unit addr req : Nat) : State :=
  let n := s.no node
  (s.setNo node { n with trans := min 0xFFFF (n.trans + 1) }).healthRecOf ptb node 1 icause unit addr req

/-- A lasting error that is detected now. -/
def State.lasting (s : State) (node icause unit addr req : Nat) : State := s.lastingOf (s.ptbAt ioNode) node icause unit addr req

/-- A write of THRESH; a node whose count has reached the new one is fenced (R450; log 95). -/
def State.setThresh (s : State) (node : Nat) (x : BitVec 8) : State :=
  let s := s.setNo node { s.no node with thresh := x }
  if (s.no node).reached then { s with todo := s.todo ++ [Todo.nodeFence node] } else s

/-- Write a byte of a node's private space: of a health register only THRESH and CLR take a write (R450). -/
def State.privPut (s : State) (nd o : Nat) (b : Byte) : State :=
  match healthAt nd o with
  | some (node, 0) => if b.getLsbD 0 then s.clearHealth node else s
  | some (node, 2) => s.setThresh node b
  | some _ => s
  | none => s.setNo nd { s.no nd with priv := memPut (s.no nd).priv o b }

/-- Write bytes of a node's private space. -/
def State.privPutBytes (s : State) (nd o : Nat) : List Byte → State
  | [] => s
  | b :: bs => (s.privPut nd o b).privPutBytes nd (o + 1) bs

/-- Whether `n` bytes of a scratchpad overlap a word with a lasting error (R448). -/
def Core.badAt (c : Core) (o n : Nat) : Bool := c.bad.any (fun g => decide (8 * g < o + n) && decide (o < 8 * g + 8))

/-- Read `n` bytes (not crossing a line) at a place, without the agent's own queue (R222). -/
def State.readPlace (s : State) (die core : Nat) (p : Place) (cls : PClass) (n : Nat) (hint : Hint) : Except Abort Nat × State :=
  match p with
  | .spad c o => (if (s.co c).badAt o n then .error .data else .ok (leNat (memBytes (s.co c).scratch o n)), s)
  | .priv nd o => (.ok (leNat (s.privBytes nd o n)), s)
  | .phys pa =>
    match s.readLine die core (pa / 128) cls (maskAt (pa % 128) n) hint with
    | (.ok d, s) => (.ok (lineNat d (pa % 128) n), s)
    | (.error e, s) => (.error e, s)

/-- The scratchpad words with a lasting error that a write of `n` bytes leaves: one that it writes whole is encoded afresh (R448). -/
def stillBad (bad : List Nat) (o n : Nat) : List Nat := bad.filter (fun g => !(decide (o ≤ 8 * g) && decide (8 * g + 8 ≤ o + n)))

/-- Write `n` bytes (not crossing a line) at a place (R222). -/
def State.writePlace (s : State) (die core : Nat) (p : Place) (cls : PClass) (n x : Nat) (ctx : Nat) (hint : Hint) : Option Abort × State :=
  match p with
  | .spad c o => (none, s.setCo c { s.co c with scratch := memPutBytes (s.co c).scratch o (leBytes n x), bad := stillBad (s.co c).bad o n })
  | .priv nd o => (none, s.privPutBytes nd o (leBytes n x))
  | .phys pa =>
    s.writeLine die core (pa / 128) cls (dataAt (pa % 128) x) (maskAt (pa % 128) n) ctx (s.cx ctx).gen hint

/-! ## Error records (R318, R319) -/

/-- The cause codes of R309. -/
inductive Cause
  | trap | illegal | role | priv | addr | align | perm | pageFault | classIllegal | classMismatch | discardWrite | dataAbort
  | storeAbort | atomIndeterminate | pbxOverwrite | pbxLimit | pbxState | ttIllformed | zinvalid | gangBroken | stallShort
  | shadow | mxchk | illformedCmd | sealMismatch | collMismatch | timeout | preemptTimeout | dieLost | headerInvalid
  | resources | killed
deriving DecidableEq, Repr, Inhabited

/-- Codes of R309. -/
def Cause.code : Cause → Nat
  | .trap => 0x01 | .illegal => 0x02 | .role => 0x03 | .priv => 0x04 | .addr => 0x05 | .align => 0x06 | .perm => 0x07
  | .pageFault => 0x08 | .classIllegal => 0x09 | .classMismatch => 0x0A | .discardWrite => 0x0B | .dataAbort => 0x0C
  | .storeAbort => 0x0D | .atomIndeterminate => 0x0E | .pbxOverwrite => 0x0F | .pbxLimit => 0x10 | .pbxState => 0x11
  | .ttIllformed => 0x12 | .zinvalid => 0x13 | .gangBroken => 0x14 | .stallShort => 0x15 | .shadow => 0x16 | .mxchk => 0x17
  | .illformedCmd => 0x20 | .sealMismatch => 0x21 | .collMismatch => 0x22 | .timeout => 0x23 | .preemptTimeout => 0x28
  | .dieLost => 0x29 | .headerInvalid => 0x2A | .resources => 0x2B | .killed => 0x2C

/-- An error record's fields (R319). -/
structure ErrRec where
  addr   : Nat := 0
  cause  : Cause
  source : Nat
  agent  : Nat := 0
  die    : Nat := 0xFF
  core   : Nat := 0xFF
  detail : Nat := 0
  lid    : Nat := 0
deriving DecidableEq, Repr

/-- Write bytes of a context's memory at their home, as a node's own release (R319); `none` where no page takes them. -/
def State.ctxWrite (s : State) (die ctx va : Nat) (bs : List Byte) : Option State :=
  match s.translate die ctx va .write with
  | (.ok pa cls false _ _ _ _, s) =>
    if (s.homeAbort (pa / 128) cls).isSome then none
    else
      let s := if cls = .sc then s.recallLine (pa / 128) else s
      some (s.homePut pa bs)
  | _ => none

/-- Write an error record into a context's error area: number k from HEAD, the record at 64 + 32·(k mod RINGN), SEQ last; a record
that faults or aborts is dropped and counted in LOSTREC (R318, R319). -/
def State.errorRecord (s : State) (ctx : Nat) (r : ErrRec) : State :=
  let base := (s.cx ctx).errBase.toNat
  let die := if r.die < 22 then r.die else 0
  let k := s.ctxField die ctx base 8
  let ringn := max 1 (s.ctxField die ctx (base + 8) 4)
  let bs := leBytes 8 r.addr ++ leBytes 1 r.cause.code ++ leBytes 1 r.source ++ leBytes 1 r.agent ++ leBytes 1 r.die ++ leBytes 1 r.core ++
    leBytes 3 0 ++ leBytes 8 r.detail ++ leBytes 4 r.lid ++ leBytes 4 (k + 1)
  match s.ctxWrite die ctx base (leBytes 8 (k + 1)) with
  | none => s
  | some s1 =>
    match s1.ctxWrite die ctx (base + 64 + 32 * (k % ringn)) bs with
    | some s2 => s2
    | none => (s1.ctxWrite die ctx (base + 12) (leBytes 4 (s.ctxField die ctx (base + 12) 4 + 1))).getD s1

/-- The cause of an abort (R218, R228, R425). -/
def Abort.cause : Abort → Cause
  | .data => .dataAbort
  | .mismatch => .classMismatch
  | .timeout => .timeout
  | .pvOwner => .classIllegal

/-- A store abort: the home writes the record and sets the issuing agent's store-abort bit (R218). -/
def State.storeAbort (s : State) (key : Nat) (va : Nat) (c : Cause) : State :=
  let a := s.ag key
  let s := s.errorRecord (s.ctxOf a) { addr := va, cause := c, source := 7, agent := 8 * a.slot, die := a.die, core := a.core, lid := (s.launchOf a).lid }
  s.setAg key { s.ag key with storeAbort := true }

/-! ## The store queue (R220, R225, R226) -/

/-- LINESET at home: the LOST mark is cleared and the line leaves the loss map (R226, R385). -/
def State.hLineset (s : State) (die l : Nat) : State :=
  match s.take .lineset die l with
  | none => s
  | some (_, s) =>
    let s := if s.lineGone l then s.recallLine l else s
    (s.findLine l).setDr l { s.dr l with lost := false, bad := false }

/-- Note a line an `.sc` fence of the agent has to perform at home (R232). -/
def State.touch (s : State) (key l : Nat) (cls : PClass) : State :=
  let a := s.ag key
  if (cls = .rc ∨ cls = .ws) ∧ !a.touched.contains l then s.setAg key { a with touched := a.touched ++ [l] } else s

/-- Address of an entry of the collective group table in the I/O die's private space (R436). -/
def collAddr (ctx g : Nat) : Nat := 0x20000 + 128 * ctx + 8 * g

/-- A write of a collective group's entry sets every member's count of it to zero (R303, R436): the couriers of the context. -/
def State.collReset (s : State) (ctx g : Nat) : State :=
  { s with couriers := s.couriers.map (fun p => if s.ctxOf (s.ag p.1) = ctx then (p.1, { p.2 with colls := tput p.2.colls g 0 }) else p) }

/-- A write of the I/O die's private bytes that reaches the collective group table (R436). -/
def State.privWritten (s : State) (p : Place) : State :=
  match p with
  | .priv nd o => if nd = ioNode ∧ 0x20000 ≤ o ∧ o < 0x22000 then s.collReset ((o - 0x20000) / 128) ((o - 0x20000) / 8 % 16) else s
  | _ => s

/-- The owner tag of a PV line is released by its owner's `clean` or `inval` (R225, R228). -/
def State.releaseTag (s : State) (die l : Nat) : State :=
  if (s.dr l).owner = some die then s.setDr l { s.dr l with owner := none } else s

/-- `clean` and `inval` of a line at an agent's die (R225). Dirty bytes that the home would not take, and a line held under another class,
are accesses that abort (R218, R350): they are dropped, the line staying as it is. -/
def State.lineOp (s : State) (key : Nat) (e : SqEntry) (l : Nat) (drop : Bool) : State :=
  let die := (s.ag key).die
  if e.cls = .sc then s
  else
    let ab : Option Abort := match (s.di die).line? l with
      | some (x : L2Line) => if x.cls ≠ e.cls ∨ x.st = LSt.d then s.homeAbort l e.cls else none
      | none => none
    match ab with
    | some ab => s.storeAbort key e.va.toNat ab.cause
    | none =>
      let s := if drop then s.dropLine die l else s.cleanLine die l
      if e.cls = .pv then s.releaseTag die l else s

/-- Perform one store-queue entry of an agent (R220, R225, R226). -/
def State.performEntry (s : State) (key : Nat) (e : SqEntry) : State :=
  let a := s.ag key
  let ctx := s.ctxOf a
  let done (r : Option Abort × State) : State :=
    match r.1 with | none => r.2 | some ab => r.2.storeAbort key e.va.toNat ab.cause
  match e.kind, e.place with
  | .store, p =>
    let s := match p with | .phys pa => s.touch key (pa / 128) e.cls | _ => s
    (done (s.writePlace a.die a.core p e.cls e.n e.data.toNat ctx e.hint)).privWritten p
  | .lineset, .phys pa =>
    let l := pa / 128
    match s.homeAbort l e.cls with
    | some .data | none =>
      let s := ((s.touch key l e.cls).send (mkMsg .lineset a.die l)).hLineset a.die l
      done (s.writeLine a.die a.core l e.cls 0 fullMask ctx (s.cx ctx).gen e.hint)
    | some ab => s.storeAbort key e.va.toNat ab.cause
  | .clean, .phys pa => s.lineOp key e (pa / 128) false
  | .inval, .phys pa => s.lineOp key e (pa / 128) true
  | _, _ => s

/-- The oldest store-queue entry of an agent leaves (R220). -/
def State.drainOne (s : State) (key : Nat) : State :=
  match (s.ag key).sq with
  | [] => s
  | e :: q => (s.setAg key { s.ag key with sq := q }).performEntry key e

/-- Drain a number of entries. -/
def State.drain (s : State) (key : Nat) : Nat → State
  | 0 => s
  | n + 1 => (s.drainOne key).drain key n

/-- Drain the whole queue. -/
def State.drainAll (s : State) (key : Nat) : State := s.drain key (s.ag key).sq.length

/-- Entries up to the last one of an SC page (R344). -/
def scDepth (q : List SqEntry) : Nat := (q.reverse.dropWhile (fun e => e.cls != .sc)).length

/-- Whether two places overlap, and at which byte of the entry a place's byte `i` lies. -/
def placeByte (p q : Place) (i : Nat) : Option Nat :=
  match p, q with
  | .spad c o, .spad c' o' => if c = c' ∧ o' ≤ o + i then some (o + i - o') else none
  | .phys a, .phys b => if b ≤ a + i then some (a + i - b) else none
  | .priv c o, .priv c' o' => if c = c' ∧ o' ≤ o + i then some (o + i - o') else none
  | _, _ => none

/-- The byte the queue holds youngest for byte `i` of a place (R220). -/
def fwdByte (q : List SqEntry) (p : Place) (i : Nat) : Option Byte :=
  q.reverse.findSome? (fun e =>
    match e.kind with
    | .store | .lineset =>
      match placeByte p e.place i with
      | some j => if j < e.n then some (if e.kind = .lineset then 0 else e.data.extractLsb' (8 * j) 8) else none
      | none => none
    | _ => none)

/-- A load of `n` bytes at a place: the queue's bytes over memory's; an SC load waits for the earlier SC stores (R220, R344), and a load of
a node's private space for every earlier store, since a register need not read as written (R5). -/
def State.load (s : State) (key : Nat) (p : Place) (cls : PClass) (n : Nat) (hint : Hint) : Except Abort Nat × State :=
  let s := match p with
    | .priv _ _ => s.drainAll key
    | _ => if cls = .sc then s.drain key (scDepth (s.ag key).sq) else s
  let a := s.ag key
  let fw := (List.range n).map (fun i => fwdByte a.sq p i)
  if cls ≠ .sc ∧ fw.all Option.isSome then (.ok (leNat (fw.map (fun b => b.getD 0))), s)
  else
    match s.readPlace a.die a.core p cls n hint with
    | (.error e, s) => (.error e, s)
    | (.ok x, s) =>
      if cls = .sc then (.ok x, s)
      else (.ok (leNat ((fw.zip (leBytes n x)).map (fun b => b.1.getD b.2))), s)

/-! ## The weight store's refresh windows (R49, R397) -/

/-- Bytes of a bank. -/
def wsBank : Nat := 6 * 1024 * 1024

/-- Nanoseconds a bank's window still lasts at a time, 0 outside it. -/
def wsLeft (ptb bank : Nat) : Nat :=
  let t := ptb % 64000
  if 4000 * bank ≤ t ∧ t < 4000 * bank + 2000 then 4000 * bank + 2000 - t else 0

/-- WS_REFRESH_WINDOW: a bank's window opens or closes by the die's time base. -/
def State.wsWindow (s : State) (die bank : Nat) : State :=
  let d := s.di die
  let b : BitVec 16 := BitVec.twoPow 16 bank
  s.setDi die { d with wsBusy := if wsLeft (s.ptbAt die) bank ≠ 0 then d.wsBusy ||| b else d.wsBusy &&& ~~~ b }

/-- An access to a bank waits for the end of its window. -/
def State.wsWait (s : State) (die bank : Nat) : State :=
  let s := s.wsWindow die bank
  if (s.di die).wsBusy.getLsbD bank then (s.advance ((47 * wsLeft (s.ptbAt die) bank + 49) / 50)).wsWindow die bank else s

/-- The place `n` bytes further. -/
def Place.add (p : Place) (n : Nat) : Place :=
  match p with
  | .spad c o => .spad c (o + n)
  | .phys a => .phys (a + n)
  | .priv nd o => .priv nd (o + n)

/-- A load of at most 8 bytes, or of 16 as two accesses of 8, the low half first (R332). -/
def State.loadPair (s : State) (key : Nat) (p : Place) (cls : PClass) (n : Nat) (hint : Hint) : Except Abort Nat × State :=
  if n = 16 then
    match s.load key p cls 8 hint with
    | (.error e, s) => (.error e, s)
    | (.ok lo, s) =>
      match s.load key (p.add 8) cls 8 hint with
      | (.error e, s) => (.error e, s)
      | (.ok hi, s) => (.ok (lo + 2 ^ 64 * hi), s)
  else s.load key p cls n hint

/-- A hint has no effect outside the global aperture (R221). -/
def hintAt (ea : W64) (hint : Hint) : Hint := if aperOf ea = .global then hint else .none

/-- A load from a spot: zero beyond an allocation, with the spoor record, and zero from a discarded page (R41, R396). -/
def State.loadSpot (s : State) (key : Nat) (ea : W64) (sp : Spot) (n : Nat) (hint : Hint) : Except Abort Nat × State :=
  match sp with
  | .at p cls =>
    let hint := hintAt ea hint
    let d := s.di (s.ag key).die
    let s := match p with
      | .phys pa => match d.line? (pa / 128) with
        | some x => if x.st = LSt.d then s.touch key (pa / 128) cls else s
        | none => s
      | _ => s
    s.loadPair key p cls n hint
  | .beyond => (.ok 0, s.spoor (s.ctxOf (s.ag key)) ea)
  | .ws off =>
    let s := s.wsWait (s.ag key).die (off / wsBank)
    if (s.di (s.ag key).die).wsBad.any (fun g => decide (g * 32 < off + n) && decide (off < g * 32 + 32)) then (.error .data, s)
    else (.ok (leNat (memBytes (s.di (s.ag key).die).ws off n)), s)
  | .discarded => (.ok 0, s)
  | .aborted e => (.error e, s)

/-- The queue entries of a store: one of at most 8 bytes, or two of 8, the low half first (R332). -/
def storeEntries (ea : W64) (p : Place) (cls : PClass) (n x : Nat) (hint : Hint) : List SqEntry :=
  if n = 16 then
    [{ kind := .store, place := p, cls := cls, n := 8, data := BitVec.ofNat 128 (x % 2 ^ 64), va := ea, hint := hint },
     { kind := .store, place := p.add 8, cls := cls, n := 8, data := BitVec.ofNat 128 (x / 2 ^ 64), va := ea + 8, hint := hint }]
  else [{ kind := .store, place := p, cls := cls, n := n, data := BitVec.ofNat 128 x, va := ea, hint := hint }]

/-- Place a store in the queue; beyond an allocation it is dropped with the spoor record (R41, R219), and one whose page's walk aborts is a store
abort (R218). -/
def State.pushStore (s : State) (key : Nat) (ea : W64) (sp : Spot) (n x : Nat) (hint : Hint) : State :=
  match sp with
  | .at p cls =>
    let a := s.ag key
    s.setAg key { a with sq := a.sq ++ storeEntries ea p cls n x (hintAt ea hint) }
  | .beyond => s.spoor (s.ctxOf (s.ag key)) ea
  | .aborted e => s.storeAbort key ea.toNat e.cause
  | _ => s

/-! ## Release and acquire of an agent (R232) -/

/-- Other packages at whose homes an agent's release has bytes to merge or to drain: its queued stores' and its die's dirty lines' (R430). -/
def State.farHomes (s : State) (key : Nat) : List Nat :=
  let d := s.di (s.ag key).die
  let queued := (s.ag key).sq.filterMap (fun e => match e.place with | .phys pa => some (paPkg pa) | _ => none)
  let dirty := (d.l2.filter (fun x => x.st == .d && (x.cls == .rc || x.cls == .ws))).map (fun x => paPkg (128 * x.line))
  (queued ++ dirty).dedup.filter (· != Config.pkg)

/-- A release at `.pkg` travels to the packages `far` its actions reach, one at `.dom` or `.sys` to every other package of the domain; it waits at the
I/O die for earlier bulk writes (R430). -/
def State.sendReleases (s : State) (die : Nat) (sc : Scope) (far : List Nat) : State :=
  let ps := if sc = .dom ∨ sc = .sys then s.domain.filter (· != Config.pkg) else if sc = .pkg then far.filter (fun p => s.domain.contains p) else []
  { s with held := s.held ++ (ps.filter s.reachable).map (fun p => { pkg := p, die := die }) }

/-- The release actions of a scope: the store queue drains, and beyond the die its dirty bytes go home (R232, R430). -/
def State.release (s : State) (key : Nat) (sc : Scope) : State :=
  if sc = .grp then s
  else
    let far := s.farHomes key
    let s := s.drainAll key
    if scopeWide sc then (s.releaseDie (s.ag key).die).sendReleases (s.ag key).die sc far else s

/-- The acquire actions of a scope at an agent's core (R232). -/
def State.acquireAt (s : State) (key : Nat) (sc : Scope) : State := s.acquire (s.ag key).die (s.ag key).core sc

/-! ## Atomics (R227, R228) -/

/-- The new value of an atomic operation at width `n` bits, with `m` the old value (R227). -/
def atomNew (op : AOp) (n m b c : Nat) : Nat :=
  let M : Nat := 2 ^ n
  let sx (x : Nat) : Int := if x ≥ 2 ^ (n - 1) then (x : Int) - (M : Int) else x
  match op with
  | .add => (m + b) % M
  | .sub => (m + M - b % M) % M
  | .minU => min m b
  | .maxU => max m b
  | .minS => if sx m ≤ sx b then m else b
  | .maxS => if sx m ≥ sx b then m else b
  | .and => Nat.land m b
  | .or => Nat.lor m b
  | .xor => Nat.xor m b
  | .exch => b
  | .cas => if m = c then b else m
  | .faddF32 => (roundTo ff32 ((ff32.value m).add .rn (ff32.value b)).1 .rn false 0).1
  | .faddBf2 =>
    let f (x y : Nat) : Nat := (roundTo ffbf ((ffbf.value x).add .rn (ffbf.value y)).1 .rn false 0).1
    f (m % 65536) (b % 65536) + 65536 * f (m / 65536) (b / 65536)

/-- ATOMIC_AT_HOME: an RC atomic at its home, after the issuing die's dirty bytes of the line came home and its copies left
(R228, R349). -/
def State.atomicAtHome (s : State) (die pa : Nat) (n : Nat) (op : AOp) (b c : Nat) (ctx : Nat) : Except Abort Nat × State :=
  let l := pa / 128
  let s := (s.settle l settleFuel).dropLine die l
  match s.homeAbort l (s.classAt (linePage l)) with
  | some e => (.error e, s)
  | none =>
    let m := leNat (memBytes s.mem pa n)
    if (s.cx ctx).gen < s.genAt l ctx then (.ok m, s)
    else (.ok m, s.homePut pa (leBytes n (atomNew op (8 * n) m b c)))

/-- An atomic at its place within the package (R228): the old value or an abort. -/
def State.atomicAt (s : State) (key : Nat) (p : Place) (cls : PClass) (n : Nat) (op : AOp) (b c : Nat) : Except Abort Nat × State :=
  let a := s.ag key
  let ctx := s.ctxOf a
  match p with
  | .spad ck o =>
    let m := leNat (memBytes (s.co ck).scratch o n)
    if (s.co ck).badAt o n then (.error .data, s)
    else (.ok m, s.setCo ck { s.co ck with scratch := memPutBytes (s.co ck).scratch o (leBytes n (atomNew op (8 * n) m b c)) })
  | .priv nd o =>
    let m := leNat (s.privBytes nd o n)
    (.ok m, s.privPutBytes nd o (leBytes n (atomNew op (8 * n) m b c)))
  | .phys pa =>
    let l := pa / 128
    if cls = .rc ∨ cls = .ws ∨ !caches a.die then
      match s.homeAbort l cls with
      | some e => (.error e, s)
      | none =>
        if cls = .pv ∧ (s.dr l).owner.isSome then (.error .pvOwner, s)
        else ((if cls = .sc then s.recallLine l else s).miss a.die l).atomicAtHome a.die pa n op b c ctx
    else if cls = .sc then
      match s.writeLine a.die a.core l .sc 0 0 ctx (s.cx ctx).gen .none with
      | (some e, s) => (.error e, s)
      | (none, s) =>
        let m := lineNat (((s.di a.die).line? l).getD default).data (pa % 128) n
        let (_, s) := s.writeLine a.die a.core l .sc (dataAt (pa % 128) (atomNew op (8 * n) m b c)) (maskAt (pa % 128) n) ctx (s.cx ctx).gen .none
        (.ok m, s)
    else
      let o := (s.dr l).owner
      if o.isSome ∧ o ≠ some a.die then (.error .pvOwner, s)
      else match s.readLine a.die a.core l .pv (maskAt (pa % 128) n) .none with
        | (.error e, s) => (.error e, s)
        | (.ok d, s) =>
          let m := lineNat d (pa % 128) n
          let (_, s) := s.writeLine a.die a.core l .pv (dataAt (pa % 128) (atomNew op (8 * n) m b c)) (maskAt (pa % 128) n) ctx (s.cx ctx).gen .none
          (.ok m, s)

end Sys2Proof.Machine
end

