-- ==== Sys2Proof/Machine/Operands.lean ====
section
/-! DEFINITION. The operands of a word: its source values (R14, R118, R160, R185), the address of a memory operand (R216), and
its shape: the registers it reads and writes, its result class and occupancy (R124, R149, R187), the agents that may issue it
(R57, R159, R183, R215, R240, R272, R273) and its privilege (R52, R308). -/

namespace Sys2Proof.Machine

/-! ## Source values -/

/-- A literal at a width: 64 bits sign-extended from bit 61, or its low 32 bits (R118). -/
def litVal (w64 : Bool) (l : Lit) : W64 := if w64 then l.signExtend 64 else (l.setWidth 32).setWidth 64

/-- An 8-bit immediate at a width, sign- or zero-extended (R160, R185). -/
def immVal (w64 sgn : Bool) (i : BitVec 8) : W64 :=
  if sgn then (if w64 then i.signExtend 64 else (i.signExtend 32).setWidth 64) else i.setWidth 64

/-- Source b of a scalar instruction. -/
def Agent.ssrc (a : Agent) (w64 sgn : Bool) : SSrc → W64
  | .reg r => a.sw w64 r.toNat
  | .imm i => immVal w64 sgn i
  | .lit l => litVal w64 l

/-- Source b of a `movi` in a lane. -/
def Agent.ssrcAt (a : Agent) (w64 sgn : Bool) (lane : Nat) : SSrc → W64
  | .reg r => a.swAt w64 r.toNat lane
  | .imm i => immVal w64 sgn i
  | .lit l => litVal w64 l

/-- Source b of a vector instruction in a lane (R184, R185). -/
def Agent.vsrc (a : Agent) (w64 sgn : Bool) (lane : Nat) : VSrc → W64
  | .v r => a.vw w64 r.toNat lane
  | .s r => a.swAt w64 r.toNat lane
  | .imm i => immVal w64 sgn i
  | .lit l => litVal w64 l

/-- Source b of a floating-point instruction in a lane: an 8-bit immediate is the integer converted to the format, in both
elements of a packed one (R185). -/
def Agent.fsrc (a : Agent) (f : FF) (packed : Bool) (lane : Nat) : VSrc → W64
  | .v r => a.vw (f.eb == 11) r.toNat lane
  | .s r => a.swAt (f.eb == 11) r.toNat lane
  | .imm i =>
    let x := (roundTo f (exInt i.toNat) .rn false 0).1
    BitVec.ofNat 64 (if packed then x + 65536 * x else x)
  | .lit l => litVal (f.eb == 11) l

/-- A branch target from the word's address (R171). -/
def Tgt.addr (pc : W64) : Tgt → W64
  | .off8 o => pc + (o.signExtend 64 <<< 3)
  | .off64 l => pc + (l.signExtend 64 <<< 3)

def Scale.num : Scale → Nat | .x1 => 1 | .x2 => 2 | .x4 => 4 | .x8 => 8 | .x16 => 16

/-- The offset of a memory operand (R216). -/
def Off.val : Off → W64
  | .imm i => i.setWidth 64
  | .lit l => l.signExtend 64

/-- The generic address of a lane (R216); a courier context's index is a scalar register (R215). -/
def Agent.ea (a : Agent) (m : MemAddr) (lane : Nat) : W64 :=
  a.swAt true m.base.toNat lane + (match m.index with
    | none => 0
    | some (sc, r) => (a.v32 r.toNat lane).signExtend 64 * BitVec.ofNat 64 (Scale.num sc)) + Off.val m.off

/-! ## Shapes -/

/-- Result class (R124): fixed latency, interlocked and landing `n` cycles after the last occupied cycle, the divider's `n` cycles
after the first pass (R164), or no register result. -/
inductive Lat
  | none
  | fixed (n : Nat)
  | inter (n : Nat)
  | div (n : Nat)
deriving DecidableEq, Repr

/-- What issuing a word needs to know of it. -/
structure Shape where
  c       : Ctl
  reads   : List (RClass × Nat) := []
  writes  : List (RClass × Nat) := []
  lat     : Lat := .none
  occ     : Nat := 1
  /-- Sources read whole in the first pass (R157, R187). -/
  whole   : Bool := false
  /-- Results of every lane available at the last pass plus the latency (R187). -/
  cross   : Bool := false
  /-- Results of latency 4 beside those of the word's own: of an H half of class I (R153). -/
  quick   : List (RClass × Nat) := []
  /-- A predicate result that is the same in every lane, whole in pass 0 (R19, R157). -/
  uniform : Bool := false
  group   : Bool := false
  courier : Bool := false
  matrix  : Bool := false
  priv    : Bool := false
  /-- The word acts although no lane is active (`brk`, `join` and the words without effect). -/
  always  : Bool := false

def rS (r : BitVec n) : List (RClass × Nat) := [(.s, r.toNat)]
def rS2 (r : BitVec n) : List (RClass × Nat) := [(.s, r.toNat), (.s, r.toNat + 1)]
def rSw (w : Bool) (r : BitVec n) : List (RClass × Nat) := if w then rS2 r else rS r
def rV (r : BitVec n) : List (RClass × Nat) := [(.v, r.toNat)]
def rV2 (r : BitVec n) : List (RClass × Nat) := [(.v, r.toNat), (.v, r.toNat + 1)]
def rVw (w : Bool) (r : BitVec n) : List (RClass × Nat) := if w then rV2 r else rV r
def rVn (k : Nat) (r : BitVec n) : List (RClass × Nat) := (List.range k).map (fun j => (.v, r.toNat + j))
def rK (r : BitVec 3) : List (RClass × Nat) := if r = 0 then [] else [(.k, r.toNat)]

def SSrc.regs (w : Bool) : SSrc → List (RClass × Nat)
  | .reg r => rSw w r
  | _ => []

def VSrc.regs (w : Bool) : VSrc → List (RClass × Nat)
  | .v r => rVw w r
  | .s r => rSw w r
  | _ => []

def SVDst.regs (w : Bool) : SVDst → List (RClass × Nat)
  | .s r => rSw w r
  | .v r => rVw w r

def MemAddr.regs (m : MemAddr) : List (RClass × Nat) :=
  rS2 m.base ++ (match m.index with | none => [] | some (_, r) => rV r)

/-- Scalar `sD, sA, b` of result class I. -/
def shS (c : Ctl) (o : SBin) (x : List (RClass × Nat)) : Shape :=
  { c, reads := rSw o.w64 o.a ++ SSrc.regs o.w64 o.b ++ x, writes := rSw o.w64 o.d, lat := .fixed 4 }

/-- Vector `vD, vA, b` of result class I. -/
def shV (c : Ctl) (o : VBin) (x : List (RClass × Nat)) : Shape :=
  { c, reads := rVw o.w64 o.a ++ VSrc.regs o.w64 o.b ++ x, writes := rVw o.w64 o.d, lat := .fixed 4, group := true }

def shVU (c : Ctl) (o : VUn) : Shape :=
  { c, reads := rVw o.w64 o.a, writes := rVw o.w64 o.d, lat := .fixed 4, group := true }

/-- Floating `vD, vA, b`. -/
def shF (c : Ctl) (d : Bool) (o : FBin) (x : List (RClass × Nat)) : Shape :=
  { c, reads := rVw d o.a ++ VSrc.regs d o.b ++ x, writes := rVw d o.d, lat := .fixed (if d then 10 else 6), occ := if d then 4 else 1, group := true }

def shFU (c : Ctl) (d : Bool) (o : FUn) : Shape :=
  { c, reads := rVw d o.a, writes := rVw d o.d, lat := .fixed (if d then 10 else 6), occ := if d then 4 else 1, group := true }

/-- Special-function `vD, vA`: occupancy 4, interlocked (R124). -/
def shSfu (c : Ctl) (o : FUn) : Shape :=
  { c, reads := rV o.a, writes := rV o.d, lat := .inter 16, occ := 4, group := true }

/-- Cross-lane `vD, vA` of result class X (R187). -/
def shX (c : Ctl) (d a : BitVec 8) (x : List (RClass × Nat)) : Shape :=
  { c, reads := rV a ++ x, writes := rV d, lat := .fixed 8, whole := true, cross := true, group := true }

/-- A load of `k` registers. -/
def shL (c : Ctl) (k : Nat) (o : MemOp) : Shape :=
  { c, reads := MemAddr.regs o.addr, writes := rVn k o.d, lat := .inter 0 }

/-- A store of `k` registers. -/
def shSt (c : Ctl) (k : Nat) (o : MemOp) : Shape := { c, reads := MemAddr.regs o.addr ++ rVn k o.d }

/-- A word of the courier (R273); a result of one lands 4 cycles after its pass (R280, R288, R301). -/
def shQ (c : Ctl) (r w : List (RClass × Nat)) : Shape := { c, reads := r, writes := w, lat := .inter 4, courier := true }

def optS2 (r : Option (BitVec 6)) : List (RClass × Nat) := match r with | none => [] | some r => rS2 r
def optS (r : Option (BitVec 6)) : List (RClass × Nat) := match r with | none => [] | some r => rS r

def HSrc.regs : HSrc → List (RClass × Nat)
  | .v r => rV r
  | .s r => rS r
  | .imm _ => []

/-- Reads and writes of a half: DST is source a (R152). -/
def HalfOp.regs : HalfOp → List (RClass × Nat) × List (RClass × Nat)
  | .nop => ([], [])
  | .vi _ _ d b => (rV d ++ HSrc.regs b, rV d)
  | .vf _ _ d b => (rV d ++ HSrc.regs b, rV d)
  | .vh _ _ _ d b => (rV d ++ rV b, rV d)
  | .si _ d b => (rS d ++ HSrc.regs b, rS d)
  | .kp _ d b => (rK d ++ rK b, rK d)

/-- The results of a half whose class is I, latency 4; those of the other halves are of class F (R153). -/
def HalfOp.quick (h : HalfOp) : List (RClass × Nat) :=
  match h with
  | .vf _ _ _ _ | .vh _ _ _ _ _ => []
  | h => (HalfOp.regs h).2

/-- Whether a half is one that a group alone executes (R183). -/
def HalfOp.vector : HalfOp → Bool
  | .vi _ _ _ _ | .vf _ _ _ _ | .vh _ _ _ _ _ => true
  | _ => false

/-- The default control part of the steps that are no words. -/
def noCtl : Ctl := { stall := 0, safe := none, neg := false, k := 0 }

/-- Registers of a row of a tile in a group of width `w` (R254, R255). -/
def rowRegs (w : Nat) (r : BitVec 8) : List (RClass × Nat) := rVn (64 / max 16 w) r

/-- The shape of an instruction in an agent of width `w` (R149); an `mma`'s reads depend on its gang (`State.shapeOf`). -/
def shape (w : Nat) : Instr → Shape
  | .nop c | .safepoint c => { c, always := true }
  | .exit c => { c }
  | .yield c => { c }
  | .reform c va => { c, reads := rV2 va, group := true }
  | .bra c _ => { c }
  | .brs c _ sa _ => { c, reads := rS sa }
  | .brk c ka _ => { c, reads := rK ka, whole := true, always := true }
  | .join c => { c, always := true }
  | .call c d _ => { c, writes := rS2 d, lat := .fixed 4 }
  | .ret c sa | .jmpr c sa => { c, reads := rS2 sa }
  | .loop c sa _ => { c, reads := rS sa, writes := rS sa, lat := .fixed 4 }
  | .movi c w64 d b => { c, reads := SSrc.regs w64 b, writes := SVDst.regs w64 d, lat := .fixed 4, group := SVDst.dcls d }
  | .sadd c o | .ssub c o | .smul c o | .smulh c _ o | .sand c o | .sor c o | .sxor c o | .sshl c o | .sshr c o | .ssra c o
  | .smin c _ o | .smax c _ o | .sbfe c o => shS c o []
  | .sdivu c o => { shS c o [] with lat := .div (if o.w64 then 36 else 20) }
  | .sclz c o | .spopc c o => { c, reads := rSw o.w64 o.a, writes := rSw o.w64 o.d, lat := .fixed 4 }
  | .sbfi c o sc => shS c o (rSw o.w64 sc)
  | .slea c _ o sc => { c, reads := rS2 o.a ++ SSrc.regs o.w64 o.b ++ rS sc, writes := rS2 o.d, lat := .fixed 4 }
  | .ssel c o kc => { shS c o (rK kc) with whole := true }
  | .scmp c _ w64 kd sa b => { c, reads := rSw w64 sa ++ SSrc.regs w64 b, writes := rK kd, lat := .fixed 4, uniform := true }
  | .movs c sel d => { c, writes := SVDst.regs sel.wide d, lat := .inter 4, group := SVDst.dcls d }
  | .kand c kd ka kb | .kor c kd ka kb | .kxor c kd ka kb => { c, reads := rK ka ++ rK kb, writes := rK kd, lat := .fixed 4 }
  | .knot c kd ka | .kmov c kd ka => { c, reads := rK ka, writes := rK kd, lat := .fixed 4 }
  | .kpopc c d ka | .kfirst c d ka | .kany c d ka | .kall c d ka => { c, reads := rK ka, writes := rS d, lat := .fixed 4, whole := true }
  | .vadd c _ o | .vsub c _ o | .vmul c _ o | .vmulh c _ o | .vshr c _ o | .vmin c _ o | .vmax c _ o => shV c o []
  | .vand c o | .vor c o | .vxor c o | .vshl c o | .vsra c o => shV c o []
  | .vmad c _ o vc | .vbfe c _ o vc | .vbfi c o vc => shV c o (rVw o.w64 vc)
  | .vnot c o | .vabs c o | .vclz c o | .vpopc c o | .vbrev c o | .vsat c _ _ o => shVU c o
  | .vcmp c _ w64 kd va b => { c, reads := rVw w64 va ++ VSrc.regs w64 b, writes := rK kd, lat := .fixed 4, group := true }
  | .vsel c o kc => shV c o (rK kc)
  | .faddF32 c _ o | .fsubF32 c _ o | .fmulF32 c _ o | .fminF32 c o | .fmaxF32 c o => shF c false o []
  | .fmaF32 c _ o vc => shF c false o (rV vc)
  | .fabsF32 c o | .fnegF32 c o | .fclassF32 c o => shFU c false o
  | .fcmpF32 c _ kd va b => { c, reads := rV va ++ VSrc.regs false b, writes := rK kd, lat := .fixed 6, group := true }
  | .faddF64 c _ o | .fsubF64 c _ o | .fmulF64 c _ o | .fminF64 c o | .fmaxF64 c o => shF c true o []
  | .fmaF64 c _ o vc => shF c true o (rV2 vc)
  | .fabsF64 c o | .fnegF64 c o => shFU c true o
  | .fclassF64 c o => { c, reads := rV2 o.a, writes := rV o.d, lat := .fixed 6, occ := 4, group := true }
  | .fcmpF64 c _ kd va b => { c, reads := rV2 va ++ VSrc.regs true b, writes := rK kd, lat := .fixed 6, occ := 4, group := true }
  | .hadd2 c _ _ o | .hmul2 c _ _ o | .hmin2 c _ o | .hmax2 c _ o => shF c false o []
  | .hfma2 c _ _ o vc => shF c false o (rV vc)
  | .frcp c o | .frsq c o | .fsqrt c o | .fexp2 c o | .flog2 c o | .fsin c o | .fcos c o | .ftanh c o => shSfu c o
  | .cvt c o => { c, reads := rVw o.src.wide o.a, writes := rVw o.dst.wide o.d, lat := .fixed 6, group := true }
  | .p4pack c o => { c, reads := rV o.a, writes := rV o.d ++ rS o.sb, lat := .fixed 6, group := true, whole := true, cross := true }
  | .p4unpack c _ d va vb => { c, reads := rV va ++ rV vb, writes := rV d, lat := .fixed 6, group := true, whole := true, cross := true }
  | .vnbr c _ _ o | .vred c _ o | .vscan c _ _ o => shX c o.d o.a []
  | .vshfl c _ o | .vbcast c o => shX c o.d o.a (VSrc.regs false o.b)
  | .vflags c d => { c, writes := rS d, lat := .fixed 4, group := true }
  | .hWord ha hb =>
    { c := { noCtl with stall := (max ha.stall.toNat hb.stall.toNat : Nat) },
      reads := (HalfOp.regs ha.op).1 ++ (HalfOp.regs hb.op).1 ++ rK ha.k ++ rK hb.k, writes := (HalfOp.regs ha.op).2 ++ (HalfOp.regs hb.op).2,
      lat := .fixed 6, quick := HalfOp.quick ha.op ++ HalfOp.quick hb.op, group := HalfOp.vector ha.op || HalfOp.vector hb.op, always := true }
  | .ldB8 c o | .ldB16 c o | .ldB32 c o => shL c 1 o
  | .ldB64 c o => shL c 2 o
  | .ldB128 c o => { shL c 4 o with group := true }
  | .stB8 c o | .stB16 c o | .stB32 c o => shSt c 1 o
  | .stB64 c o => shSt c 2 o
  | .stB128 c o => { shSt c 4 o with group := true }
  | .lduB32 c o => { c, reads := rS2 o.base, writes := rS o.d, lat := .inter 0 }
  | .lduB64 c o => { c, reads := rS2 o.base, writes := rS2 o.d, lat := .inter 0 }
  | .prefetch c _ m | .clean c m | .inval c m | .lineset c m => { c, reads := MemAddr.regs m }
  | .atom c o => { c, reads := rV2 o.a ++ rVw o.w64 o.b ++ (if o.op = .cas then rVw o.w64 o.c else []), writes := rVw o.w64 o.d, lat := .inter 0 }
  | .red c o => { c, reads := rV2 o.a ++ rVw o.w64 o.b }
  | .fenceAcq c _ | .fenceRel c _ | .fenceAr c _ | .fenceSc c _ => { c }
  | .pbinit c _ sa b | .pbexpect c sa b | .pbwait c sa b => { c, reads := rS2 sa ++ SSrc.regs false b }
  | .pbarrive c sa => { c, reads := rS2 sa }
  | .pbtest c d sa => { c, reads := rS2 sa, writes := rS d, lat := .inter 4 }
  | .barArrive c _ cnt | .barSync c _ cnt => { c, reads := SSrc.regs false cnt, group := true }
  | .gbar c => { c, group := true }
  | .discard c sa b => { c, reads := rS2 sa ++ SSrc.regs false b }
  | .pgclass c sa b => { c, reads := rS2 sa ++ SSrc.regs false b, priv := true }
  | .tlbiPage c sa => { c, reads := rS2 sa, priv := true }
  | .tlbiCtx c | .tlbiAll c => { c, priv := true }
  | .gangSet c sa => { c, reads := rS sa, matrix := true }
  | .mma c _ _ _ _ _ => { c, matrix := true }
  | .zclr c _ => { c, matrix := true }
  | .zwr c _ va row => { c, reads := rowRegs w va ++ SSrc.regs false row, matrix := true }
  | .zrd c o => { c, reads := SSrc.regs false o.row, writes := rowRegs w o.d, lat := .inter 10, matrix := true }
  | .epi c o => { c, reads := rS o.sc, matrix := true }
  | .ttset c _ sa _ => { c, reads := rS2 sa }
  | .ttld c _ sa => { c, reads := rS2 sa, lat := .inter 0 }
  | .ttst c _ sb => { c, reads := rS2 sb }
  | .ttidx c wr d _ _ => { c, reads := if wr then rS d else [], writes := if wr then [] else rS d, lat := .inter 4 }
  | .tewAdd c _ _ | .tewSub c _ _ | .tewMul c _ _ | .tewMin c _ _ | .tewMax c _ _ | .tewFma c _ _ _ | .tewSelect c _ _ _
  | .tewCvt c _ | .tewExp2 c _ | .tewRelu c _ | .tewCopy c _ | .tewRrow c _ _ | .tewRcol c _ _ => { c, matrix := true }
  | .tewScale c _ sb => { c, reads := rS sb, matrix := true }
  | .copy c o => shQ c (optS2 o.pbx) []
  | .copyDl c o _ => shQ c (optS2 o.pbx) []
  | .copySeal c o => shQ c (rS o.sb ++ optS o.last) []
  | .layout c o => shQ c (rS2 o.sb ++ optS2 o.pbx) []
  | .qwait c _ | .qfence c _ => shQ c [] []
  | .qstat c d _ => shQ c [] (rS2 d)
  | .dlchk c d _ => shQ c [] (rS d)
  | .coll c o => shQ c (rS o.sb) []
  | .cgmem c d sb => shQ c (rS sb) (rS2 d)
  | .trap c _ => { c }
  | .eret c => { c, priv := true }
  | .mfs c sel d => { c, writes := rSw sel.wide d, lat := .inter 4, priv := true }
  | .mts c sel sb => { c, reads := rSw sel.wide sb, priv := true }
  | .launch c sa sb sc => { c, reads := rS2 sa ++ rS2 sb ++ rS sc }
  | .capq c d _ => { c, writes := (List.range 8).map (fun j => (.s, d.toNat + j)), lat := .inter 12 }
  | .ptbrd c d => { c, writes := rS2 d, lat := .inter 4 }
  | .evsig c _ => { c }
  | .ctxsave c sa | .ctxrest c sa => { c, reads := rS sa, priv := true }
  | .wsld c sa sb sc => { c, reads := rS2 sa ++ rS sb ++ rS sc }
  | _ => { c := noCtl, always := true }

end Sys2Proof.Machine
end

