-- ==== Sys2Proof/Machine/Ops.lean ====
section
/-! DEFINITION. The shared operations: taking a trap (R310–R313, R316), the returns from one (R315, R317), gangs broken by a
departure (R244, R246), early reads and the checking scoreboard (R125–R128), and the issue of a word: the order of its checks
(R155), its execution condition (R55, R156), its timing (R124–R127, R158) and its register writes. -/

namespace Sys2Proof.Machine

/-! ## Traps -/

/-- What a trap names (R311, R313). `next` says the record's PC is the following word's address. -/
structure Trap where
  cause    : Cause
  addr     : W64 := 0
  lane     : Nat := 0xFF
  reg      : Nat := 0
  detail32 : W32 := 0
  detail64 : W64 := 0
  halfB    : Bool := false
  replay   : Bool := false
  pc       : Option W64 := none
deriving DecidableEq, Repr

/-- Causes of class Firmware (R309). -/
def Cause.firmware : Cause → Bool
  | .pageFault | .shadow | .mxchk => true
  | _ => false

/-- The divergence depth, spilled entries included. -/
def Agent.divDepth (a : Agent) : Nat := a.depth

/-- The record of a trap (R311). -/
def State.record (s : State) (key : Nat) (t : Trap) : TrapRec :=
  let a := s.ag key
  { pc := t.pc.getD a.pc, addr := t.addr, cause := t.cause.code, lane := t.lane, halfB := t.halfB, courier := a.kind == .courier,
    inside := a.inHandler || a.inSave || a.inRestore, replay := t.replay, reg := t.reg, detail32 := t.detail32, active := a.act,
    ptb := s.ptbAt a.die, detail64 := t.detail64, saved := 0, agent := key, ctx := s.ctxOf a, depth := a.depth, dispose := 0, live := true }

/-- The 64 bytes of a record (R311). -/
def State.recBytes (s : State) (r : TrapRec) : List Byte :=
  let a := s.ag r.agent
  let info := (if r.halfB then 1 else 0) + (if r.courier then 2 else 0) + (if r.inside then 4 else 0) + (if r.replay then 8 else 0)
  leBytes 8 r.pc.toNat ++ leBytes 8 r.addr.toNat ++ leBytes 1 r.cause ++ leBytes 1 r.lane ++ leBytes 1 info ++ leBytes 1 r.reg ++
    leBytes 4 r.detail32.toNat ++ leBytes 8 r.active.toNat ++ leBytes 8 r.ptb ++ leBytes 8 r.detail64.toNat ++ leBytes 8 r.saved.toNat ++
    leBytes 1 a.die ++ leBytes 1 a.core ++ leBytes 1 a.slot ++ leBytes 1 r.ctx ++ leBytes 2 r.depth ++ leBytes 1 r.dispose ++ leBytes 1 0

/-- Private address of a ring record (R312). -/
def ringAddr (i : Nat) : Nat := 0x10000 + 64 * i

/-- A trap enters the die controller's ring with DISPOSE 0 and asks for trap entry; while 256 records are pending the agent stays
stopped with its record (R310, R312). -/
def State.toRing (s : State) (key : Nat) (r : TrapRec) : State :=
  let a := s.ag key
  let d := s.di a.die
  match ((List.range 256).map (fun i => (d.ringPos + i) % 256)).find? (fun i => !(d.ring.any (fun p => p.1 == i))) with
  | none => s.setAg key { a with wait := .ring 256, wpc := a.pc, unfiled := some r, held := none }
  | some i =>
    let n := s.no a.die
    let s := s.setNo a.die { n with priv := memPutBytes n.priv (ringAddr i) (s.recBytes r) }
    let s := s.setDi a.die { d with ring := d.ring ++ [(i, r)], ringPos := (i + 1) % 256 }
    let s := s.setAg key { a with wait := .ring i, wpc := a.pc, unfiled := none, held := none }
    { s with todo := s.todo ++ [.dcTrapEntry a.die] }

/-- A page fault that stops no agent enters a die's ring: a command's, or an admission read's (R140, R276, R395). -/
def State.ringPut (s : State) (die : Nat) (r : TrapRec) : State :=
  let d := s.di die
  match ((List.range 256).map (fun i => (d.ringPos + i) % 256)).find? (fun i => !(d.ring.any (fun p => p.1 == i))) with
  | none => s
  | some i =>
    let n := s.no die
    let s := s.setNo die { n with priv := memPutBytes n.priv (ringAddr i) (s.recBytes r) }
    let s := s.setDi die { d with ring := d.ring ++ [(i, { r with engine := true })], ringPos := (i + 1) % 256 }
    { s with todo := s.todo ++ [Todo.dcTrapEntry die] }

/-- A command's page fault: a record of its courier context, which is not stopped (R276). -/
def State.engineFault (s : State) (key : Nat) (r : TrapRec) : State := s.ringPut (s.ag key).die r

/-- Slots a gang register lists (R23). -/
def gangSlots (g : W32) : List Nat :=
  match (g.toNat / 2 ^ 20) % 4 with
  | 1 => [g.toNat % 32, g.toNat / 32 % 32]
  | 2 => [g.toNat % 32, g.toNat / 32 % 32, g.toNat / 1024 % 32, g.toNat / 32768 % 32]
  | _ => []

/-- Members of a gang register (R23). -/
def gangSize (g : W32) : Nat := (gangSlots g).length

/-- Registers of a member's B part (R249). -/
def bRegs (f : MFmt) (m w : Nat) : Nat :=
  let part := if m = 4 then 1024 else 2048
  let bytes := if f = .p4 then part + 256 / m else part
  (bytes / 4 + w - 1) / w

/-- The entry of the kernel's own trap handler (R316): the record is stored at the agent's place of the context's trap table, its
address is written to S[n−2].64, the in-handler bit is set and the PC moves to TRAPVEC. The record is a store of the agent, behind its
earlier ones (R220): an abort of it is a store abort (R218), a page that takes no store drops it, and CLASSES is not checked (log 87). The handler begins once the
results still pending have landed (log 53). The agent leaves its gang (R310). -/
def State.toKernel (s : State) (key : Nat) (r : TrapRec) (trapvec : W64) : State :=
  let s := s.drainAll key
  let a := s.ag key
  let ctx := s.ctxOf a
  let base := (s.cx ctx).errBase
  let off := s.ctxField a.die ctx (base.toNat + 16) 8
  let x := if a.kind = .courier then 32 + a.slot else a.slot
  let va := base + BitVec.ofNat 64 (off + 64 * (1024 * a.die + 64 * a.core + x))
  let old := a.s64 (a.ns - 2)
  let s := match s.translateAt a.die a.core ctx (va.toNat % 2 ^ 56) .write with
    | (.ok pa cls false _ _ _ _, s) =>
      match (s.touch key (pa / 128) cls).writeLine a.die a.core (pa / 128) cls (dataAt (pa % 128) (leNat (s.recBytes { r with saved := old })))
        (maskAt (pa % 128) 64) ctx (s.cx ctx).gen .none with
      | (none, s) => s
      | (some ab, s) => s.storeAbort key va.toNat ab.cause
    | (.abort e, s) => s.storeAbort key va.toNat e.cause
    | (_, s) => s
  let a := s.ag key
  s.setAg key { (a.putS64 (a.ns - 2) va) with inHandler := true, trapDepth := a.depth, pc := trapvec, gang := 0, held := none, ready := max a.ready (a.landed (s.cycle + 1)), wait := .none }

/-- Where a trap of a group or courier context goes (R310): the ring, or the kernel's handler. -/
def State.routeTrap (s : State) (key : Nat) (t : Trap) : State :=
  let a := s.ag key
  let r := s.record key t
  match (s.launchOf a).hdr.trapvec with
  | none => s.toRing key r
  | some tv => if t.cause.firmware ∨ a.inHandler ∨ a.inSave ∨ a.inRestore then s.toRing key r else s.toKernel key r tv

/-- Members of a gang that wait at the latch of a core with the given gang register. -/
def State.latchWaiters (s : State) (ck : Nat) (g : W32) : List Nat :=
  (s.agents.filter (fun p => p.2.live && p.2.kind == .group && p.2.ck == ck && p.2.wait == .latch && p.2.gang == g)).map (·.1)

/-- Members that wait are released with GANGBROKEN, naming the slot that broke the gang (R246, R313). -/
def State.breakLatch (s : State) (ck : Nat) (g : W32) (slot : Nat) : State :=
  if g = 0 then s
  else (s.latchWaiters ck g).foldl (fun s k =>
    let a := s.ag k
    (s.setAg k { a with wait := .none, latch := none, pc := a.wpc }).routeTrap k { cause := .gangBroken, detail32 := BitVec.ofNat 32 slot }) s

/-- A group leaves its gang: its register is cleared and waiting members are released (R71, R244, R246). -/
def State.leaveGang (s : State) (key : Nat) : State :=
  let a := s.ag key
  if a.gang = 0 then s else (s.setAg key { a with gang := 0 }).breakLatch a.ck a.gang a.slot

/-- A shadow check that fails is retried by the replay of its word: a second failure there is a lasting error of the die (R447). -/
def State.shadowMet (s : State) (key : Nat) (t : Trap) : State :=
  let a := s.ag key
  if t.cause ≠ .shadow then s
  else if a.retried = some a.pc then (s.setAg key { a with retried := none }).lastingOf a.retryTime a.die 0x08 a.core 0 0xFF
  else s.setAg key { a with retried := some a.pc, retryTime := s.ptbAt ioNode }

/-- An agent that goes on at another word has run the one it replayed without a failure: the error was transient (R447). -/
def State.retryEnd (s : State) : State :=
  let a := s.ag s.cur
  match a.retried with
  | some p => if a.pc = p then s else (s.setAg s.cur { a with retried := none }).transientOf a.retryTime a.die 0x08 a.core 0 0xFF
  | none => s

/-- A trap of a group or courier context, with what it does to the gang the agent leaves (R244, R310). -/
def State.trapAgent (s : State) (key : Nat) (t : Trap) : State :=
  let a := s.ag key
  let s' := (s.shadowMet key t).routeTrap key t
  if a.gang ≠ 0 ∧ (s'.ag key).gang = 0 then s'.breakLatch a.ck a.gang a.slot else s'

/-- Take a trap (R310–R316): ONE operation for every precise trap of a group or a courier context. Firmware that traps while in
trap entry fences its die (R312); elsewhere the manual gives its traps no route. -/
def State.takeTrap (s : State) (key : Nat) (t : Trap) : Host.Outcome State Fault Refusal :=
  let a := s.ag key
  if a.kind = .firmware then
    if (s.di a.die).inTrap ∧ a.die < 22 then
      .next { (s.setAg key { a with wait := .halted }) with todo := .nodeFence a.die :: s.todo }
    else .fault .firmwareTrap
  else .next (s.trapAgent key t)

/-- Trap entry of a die controller (R312, R315): the pc is saved in the exception state, the controller runs at sys.trapvec at F. It
is held while the controller is in trap entry, and is not raised when no record is pending, or where the controller was not released (R468). -/
def State.dcEntry (s : State) (die : Nat) : State :=
  let d := s.di die
  let pending := d.ring.any (fun p => memGet (s.no die).priv (ringAddr p.1 + 62) == 0)
  if d.inTrap ∨ d.noCtl ∨ !pending then s
  else
    let a := s.ag (fwKey die)
    (s.setDi die { d with inTrap := true, excPc := a.pc, excF := a.wait == .none, excWait := a.wait }).setAg (fwKey die)
      { a with pc := d.trapvec, wait := .none, ready := max a.ready s.cycle }

/-- Records of agents that have gone release nothing when their disposition comes. -/
def State.deadRecs (s : State) (ks : List Nat) : State :=
  { s with dies := s.dies.map (fun (p : Nat × Die) =>
      (p.1, { p.2 with ring := p.2.ring.map (fun r => if !r.2.engine && ks.contains r.2.agent then (r.1, { r.2 with live := false }) else r) })) }

/-- Carry out one disposition (R314): 1 replays the word, or starts the `mma` its leader holds (R251), 2 asks for the context's kill, or for the
refusal of a request whose admission read it cannot serve (R140), 3
leaves the agent stopped and fences the die `die` (R451, R452), a lasting shadow or self-check error being its cause (R450). -/
def State.dispose (s : State) (die : Nat) (r : TrapRec) (code : Nat) : State :=
  let a := s.ag r.agent
  let fence (s : State) : State :=
    let n := s.no die
    let c := if r.cause = 0x16 then 0x08 else if r.cause = 0x17 then 0x09 else 0x0B
    { s.setNo die { n with icause := c } with todo := s.todo ++ [Todo.nodeFence die] }
  if code = 3 ∧ (r.engine ∨ !r.live) then fence s
  else if r.engine then
    (if code ≠ 2 then s else { s with todo := s.todo ++ [if 2 ^ 21 ≤ r.agent ∧ r.agent < 2 ^ 21 + 256 then .admRefuse r.agent r.addr else .contextKill r.ctx] })
  else if !r.live then s
  else if code = 1 then
    if (s.co a.ck).mmas.any (fun m => !m.started && m.members.head? == some r.agent) then s.setAg r.agent { a with wait := .engine, pc := a.wpc + 8 }
    else s.setAg r.agent { a with wait := .none, pc := r.pc, ready := max a.ready s.cycle }
  else
    let s := (s.setAg r.agent { a with wait := .halted }).leaveGang r.agent
    if code = 2 then { s with todo := s.todo ++ [.contextKill r.ctx] } else if code = 3 then fence s else s

/-- An agent that found the ring full enters it once a record has been released (R312). -/
def State.refile (s : State) (key : Nat) : State :=
  match (s.ag key).unfiled with
  | some r => if (s.ag key).live ∧ (s.ag key).wait = .ring 256 then s.toRing key r else s
  | none => s

/-- A firmware controller that trap entry took from a wait goes back to it (R315), and on at once where what it waited for has come. -/
def State.backTo (s : State) (die : Nat) (pc : W64) (w : Wait) : State :=
  let key := fwKey die
  let came : Bool := w == .remote && !(s.reqs.any (fun q => q.agent == key && q.fail == 0 && (q.dst.isSome || q.kind == .line)))
  s.setAg key { s.ag key with pc := pc, wait := if came then .none else w }

/-- `eret` of a die controller (R315): back to the saved pc and what it waited for there (outside trap entry, where the manual gives only the return
from one, to those of the last entry, or of reset; log 97), every record with a disposition released and
carried out; agents that found the ring full enter it, commands whose page fault has no pending record resume (R276), and a record left
undisposed raises trap entry again. -/
def State.eretDie (s : State) (die : Nat) : State :=
  let d := s.di die
  let s := s.backTo die d.excPc (if d.excF then .none else d.excWait)
  let code (p : Nat × TrapRec) : Nat := (memGet (s.no die).priv (ringAddr p.1 + 62)).toNat
  let done := d.ring.filter (fun p => code p != 0)
  let s := s.setDi die { d with inTrap := false, ring := d.ring.filter (fun p => code p == 0) }
  let s := done.foldl (fun s p => s.dispose die p.2 (code p)) s
  let s := (s.agents.filter (fun (p : Nat × Agent) => p.2.die == die && p.2.wait == Wait.ring 256)).foldl (fun (s : State) p => s.refile p.1) s
  let stalled := s.agents.flatMap (fun (p : Nat × Agent) =>
    if p.2.kind = .courier ∧ p.2.die = die ∧ !((s.di die).ring.any (fun r => r.2.engine && r.2.agent == p.1)) then
      ((s.cc p.1).queues.filter (fun q => match q.2 with | x :: _ => x.stalled | [] => false)).map (fun q => Todo.commandResume p.1 q.1)
    else [])
  let waiting := (s.sessions.filter (fun p => !p.2.ahead.isEmpty)).map (fun p => Todo.dhpGo p.1)
  let s := { s with todo := s.todo ++ stalled ++ [Todo.admission] ++ waiting }
  if (s.di die).ring.isEmpty then s else { s with todo := s.todo ++ [Todo.dcTrapEntry die] }

/-- The cause of a lane that cannot be accessed, as the trap it takes (R217, R313, R395). -/
def stopTrap (kind : AKind) (st : Stop × Nat × W64) : Trap :=
  match st.1 with
  | .addr => { cause := .addr, addr := st.2.2, lane := st.2.1 }
  | .align => { cause := .align, addr := st.2.2, lane := st.2.1 }
  | .perm => { cause := .perm, addr := st.2.2, lane := st.2.1 }
  | .cls => { cause := .classIllegal, addr := st.2.2, lane := st.2.1 }
  | .discard => { cause := .discardWrite, addr := st.2.2, lane := st.2.1 }
  | .pbx => { cause := .pbxOverwrite, addr := st.2.2, lane := st.2.1 }
  | .fault m va => { cause := .pageFault, addr := st.2.2, lane := st.2.1, detail64 := BitVec.ofNat 64 va, replay := true,
                     detail32 := BitVec.ofNat 32 (kind.num + if m then 4 else 0) }

/-! ## Early reads and the checking scoreboard (R125, R126, R128) -/

/-- First cycle in which pass `p` of a pending write may be read, for a reader that takes lanes by pass or whole. -/
def Pend.readyAt (d : Pend) (whole : Bool) (passes p : Nat) : Nat := d.avail + d.step * (if whole then passes - 1 else p)

/-- Whether pass `p` of a word that begins in cycle `t` with occupancy `o` reads a pending write before it is available; what is read whole is
read in pass 0 (R125, R157, R187). -/
def Pend.late (d : Pend) (whole : Bool) (passes t o p : Nat) : Bool := decide (t + (if whole then 0 else o * p) < d.readyAt whole passes p)

/-- Whether a pending write has lanes of pass `p`. -/
def Pend.inPass (d : Pend) (p : Nat) : Bool :=
  match d.cls with
  | .s => true
  | .v => d.oldV.any (fun x => x.1 / 16 == p)
  | .k => d.lanes.extractLsb' (16 * p) 16 != 0

/-- Whether a pending write is still early for a word that begins in cycle `t` with occupancy `o`. -/
def Pend.early (d : Pend) (whole : Bool) (passes t o : Nat) : Bool :=
  (List.range passes).any (fun p => d.inPass p && d.late whole passes t o p)

/-- What a word reads of one pending write: for each lane of an early pass, a free choice between the old and the new value; a scalar register
is read by each lane in its own pass, and for the word's scalar work in pass 0 (R126, R157; log 8). -/
def Agent.seeEarly (a : Agent) (d : Pend) (whole : Bool) (passes t o fresh : Nat) : Agent × Nat :=
  let old (l : Nat) : Bool := d.late whole passes t o (l / 16) && !Config.earlyNew (fresh + l)
  match d.cls with
  | .s =>
    let x (l : Nat) : W32 := if old l then lo32 d.oldS else a.s32 d.idx
    ({ a with sreg := tput a.sreg d.idx (x 0), sview := (List.range 64).foldl (fun t l => tput t (64 * d.idx + l) (x l)) a.sview }, fresh + 64)
  | .k =>
    let m := (List.range 64).foldl (fun (m : LaneMask) l => if old l && d.lanes.getLsbD l then m ||| BitVec.twoPow 64 l else m) 0
    ({ a with kreg := tput a.kreg d.idx ((tget a.kreg d.idx &&& ~~~ m) ||| (d.oldS &&& m)) }, fresh + 64)
  | .v =>
    (d.oldV.foldl (fun (a : Agent) p => if old p.1 then { a with vreg := tput a.vreg (64 * d.idx + p.1) p.2 } else a) a, fresh + 64)

/-- The registers as a word reads them, newest pending write first. -/
def Agent.view (a : Agent) (regs : List (RClass × Nat)) (whole : Bool) (passes t o fresh : Nat) : Agent × Nat :=
  (a.pend.reverse.filter (fun d => regs.contains (d.cls, d.idx) && d.early whole passes t o)).foldl
    (fun acc d => acc.1.seeEarly d whole passes t o acc.2) (a, fresh)

/-- Whether the checking scoreboard is on for a group, or a courier context, which behaves as one (R128, R271; log 8). -/
def State.ckscbOn (s : State) (a : Agent) : Bool := a.kind != .firmware && ((s.di a.die).ckscb || (s.launchOf a).hdr.ckscb)

/-! ## Register writes -/

/-- A register write of a word. -/
inductive RegW
  | s (r : Nat) (x : W32)
  | v (r : Nat) (x : Tab W32)
  | k (r : Nat) (x m : LaneMask)
deriving DecidableEq, Repr

/-- A write of a scalar at a width. -/
def wS (w64 : Bool) (r : BitVec n) (x : W64) : List RegW :=
  if w64 then [.s r.toNat (lo32 x), .s (r.toNat + 1) (hi32 x)] else [.s r.toNat (lo32 x)]

/-- A write of one value per lane at a width. -/
def wV (w64 : Bool) (r : BitVec n) (xs : List (Nat × W64)) : List RegW :=
  let lo : RegW := .v r.toNat (xs.map (fun p => (p.1, lo32 p.2)))
  if w64 then [lo, .v (r.toNat + 1) (xs.map (fun p => (p.1, hi32 p.2)))] else [lo]

/-- Apply one register write. -/
def Agent.write (a : Agent) : RegW → Agent
  | .s r x => a.putS r x
  | .v r xs => xs.foldl (fun a p => a.putV r p.1 p.2) a
  | .k r x m => a.putK r x m

/-- The pending entry a fixed-latency write leaves (R125): lanes by pass, whole results and the scalar of a cross-lane word at once, with its
last pass (R187, R206); a uniform predicate result is whole in pass 0 (R157). -/
def Agent.pendOf (a : Agent) (w : RegW) (t o passes lat : Nat) (cross uniform : Bool) (pc : W64) : Pend :=
  let last := if cross then t + o * (passes - 1) + lat else t + lat
  match w with
  | .s r _ => { cls := .s, idx := r, avail := last, step := 0, oldS := (a.s32 r).setWidth 64, oldV := [], pc := pc }
  | .v r xs => { cls := .v, idx := r, avail := last, step := if cross then 0 else o, oldS := 0, oldV := xs.map (fun p => (p.1, a.v32 r p.1)), pc := pc }
  | .k r _ m => { cls := .k, idx := r, avail := last, step := if cross || uniform then 0 else o, oldS := tget a.kreg r, oldV := [], pc := pc, lanes := m }

/-- The register a write names; a courier context's vector registers are scalar (R215). -/
def RegW.ref (grp : Bool) : RegW → RClass × Nat
  | .s r _ => (.s, r)
  | .v r _ => (if grp then .v else .s, r)
  | .k r _ _ => (.k, r)

/-- When a write of a vector register lands, and what its lanes held before it (R61). -/
def Agent.landing (a : Agent) (w : RegW) (land step : Nat) : List Land :=
  match w with
  | .v r xs => [⟨r, land, step, xs.map (fun p => (p.1, a.v32 r p.1))⟩]
  | _ => []

/-- The landing of a fixed-latency write: its availability, or with the interlock it also has, that of the interlock (R208). -/
def Agent.landingOf (a : Agent) (w : RegW) (d : Pend) : List Land :=
  let till := (a.inflight.filter (fun f => f.cls == .v && f.idx == d.idx)).foldl (fun t f => max t f.land) 0
  if d.avail < till then a.landing w till 0 else a.landing w d.avail d.step

/-- What is left of a pending write that a later word writes over: the lanes that word leaves alone (R127). -/
def Pend.under (d : Pend) (grp : Bool) (w : RegW) : Pend :=
  if (d.cls, d.idx) ≠ w.ref grp then d
  else match d.cls, w with
    | .v, .v _ xs => { d with oldV := d.oldV.filter (fun p => !xs.any (fun x => x.1 == p.1)) }
    | .k, .k _ _ m => { d with lanes := d.lanes &&& ~~~ m }
    | _, _ => { d with lanes := 0 }

/-- Whether something is left of a pending write. -/
def Pend.alive (d : Pend) : Bool :=
  match d.cls with
  | .v => !d.oldV.isEmpty
  | _ => d.lanes != 0

/-! ## Issue -/

/-- What a word does when it issues: the state its other effects leave, its register writes, flags, the next PC when it is not the
following word, whether that is a taken transfer, why the agent then waits, and whether the agent is gone; `trap` is a trap taken
in place of completing, `late` one taken after it, whose record names the following word (R218, R231). -/
structure Done where
  s     : State
  ws    : List RegW := []
  fl    : BitVec 6 := 0
  pc    : Option W64 := none
  taken : Bool := false
  wait  : Wait := .none
  gone  : Bool := false
  trap  : Option Trap := none
  late  : Option Trap := none

/-- Class and index of a register as an agent holds it (R215). -/
def regOf (grp : Bool) (r : RClass × Nat) : RClass × Nat := if r.1 = .v ∧ !grp then (.s, r.2) else r

/-- The trap of steps 3 to 5 of R155: subset, privilege, allocation. -/
def Agent.issueTrap (a : Agent) (sh : Shape) : Option Trap :=
  let grp := a.kind == .group
  if grp && sh.courier then some { cause := .role }
  else if grp && sh.matrix && !a.matrix then some { cause := .role }
  else if !grp && (sh.group || sh.matrix) then some { cause := .illegal }
  else if sh.priv && !a.isF then some { cause := .priv }
  else
    match (sh.reads ++ sh.writes).find? (fun r => match regOf grp r with
      | (.s, i) => decide (a.ns ≤ i)
      | (.v, i) => decide (a.nv ≤ i)
      | (.k, _) => false) with
    | some r => some { cause := .illegal, reg := r.2 }
    | none => none

/-- The cycle in which a word can begin: the stall count has elapsed, every interlocked operand has landed (R62, R127), and for a
division the pipe's divider is free (R164). -/
def State.beginAt (s : State) (a : Agent) (sh : Shape) : Nat :=
  let grp := a.kind == .group
  let regs := (sh.reads ++ sh.writes).map (regOf grp)
  let div := match sh.lat with | .div _ => tget (s.co a.ck).divFree a.pipe | _ => 0
  max div <| (a.inflight.filter (fun f => regs.contains (f.cls, f.idx))).foldl (fun t f => max t f.land) (max s.cycle a.ready)

/-- Complete a word: registers are written and their availability noted, a pending write under them forgotten (R125, R127), flags raised
(R188), the PC moved (R113), and the next word held by occupancy, stall count, transfer and a wait of the word's own (R125, R158, R252). -/
def State.complete (key : Nat) (sh : Shape) (t : Nat) (size : Nat) (d : Done) : State :=
  if d.gone then d.s
  else
    let a := d.s.ag key
    let grp := a.kind == .group
    let passes := a.passes
    let lastCycle := t + sh.occ * passes - 1
    let till := (a.held.map (·.2)).getD 0
    let pends := match sh.lat with
      | .fixed l => d.ws.map (fun w => a.pendOf w (max t till) sh.occ passes (if sh.quick.contains (w.ref grp) then 4 else l) sh.cross sh.uniform a.pc)
      | _ => []
    let flight := match sh.lat with
      | .inter n => d.ws.map (fun w => (⟨(w.ref grp).1, (w.ref grp).2, max lastCycle till + n⟩ : InFlight))
      | .div n => d.ws.map (fun w => (⟨(w.ref grp).1, (w.ref grp).2, t + n⟩ : InFlight))
      | _ => []
    let lands := match sh.lat with
      | .fixed _ => (d.ws.zip pends).flatMap (fun p => a.landingOf p.1 p.2)
      | .inter n => d.ws.flatMap (fun w => a.landing w (max lastCycle till + n) 0)
      | _ => []
    let b := d.ws.foldl Agent.write a
    let next := d.pc.getD (a.pc + BitVec.ofNat 64 size)
    let rdy := max lastCycle till + 1 + sh.c.stall.toNat
    let older := (a.pend.filter (fun p => decide (t < p.avail + p.step * 3))).map (fun p => d.ws.foldl (fun p w => p.under grp w) p)
    d.s.setAg key { b with
      pc := next, flags := b.flags ||| d.fl, wait := d.wait, wpc := a.pc,
      ready := if d.taken then max rdy (lastCycle + 4) else rdy, since := d.s.cycle, filed := false, woken := false,
      pend := older.filter Pend.alive ++ pends,
      lands := if grp then a.lands.filter (fun x => decide (t < x.land + x.step * 3)) ++ lands else [],
      inflight := (a.inflight.filter (fun f => decide (t < f.land))) ++ flight, arrived := [], held := none }

/-- The agent whose word runs. -/
def State.me (s : State) : Agent := s.ag s.cur

/-- The operand shape of a word for the agent that runs it; an `mma` reads its member's part of B (R249). -/
def State.shapeOf (s : State) (i : Instr) : Shape :=
  let sh := shape s.me.width i
  match i with
  | .mma _ _ f _ _ vb => if gangSize s.me.gang = 0 then sh else { sh with reads := rVn (bRegs f (gangSize s.me.gang) s.me.width) vb }
  | _ => sh

/-- The cycle in which the current agent's word begins: of a word that issued and had to wait, the cycle it issued in. -/
def State.startOf (s : State) (i : Instr) : Nat :=
  match s.me.held with
  | some h => h.1
  | none => s.beginAt s.me (s.shapeOf i)

/-- The registers the word reads, its guard among them. -/
def State.readsOf (s : State) (i : Instr) : List (RClass × Nat) :=
  ((s.shapeOf i).reads ++ rK (s.shapeOf i).c.k).map (regOf (s.me.kind == .group))

/-- The pending result a checked word would read too early (R128): of several the one written first, which the manual leaves open (log 97). -/
def State.tooEarly (s : State) (i : Instr) : Option Pend :=
  if s.ckscbOn s.me then
    s.me.pend.find? (fun d => (s.readsOf i).contains (d.cls, d.idx) && d.early (s.shapeOf i).whole s.me.passes (s.startOf i) (s.shapeOf i).occ)
  else none

/-- The registers as the word reads them, and the number of the next free value (R126). -/
def State.seesFrom (s : State) (i : Instr) : Agent × Nat :=
  s.me.view (s.readsOf i) (s.shapeOf i).whole s.me.passes (s.startOf i) (s.shapeOf i).occ s.fresh

/-- The agent as the word reads its registers (R125, R126). -/
def State.sees (s : State) (i : Instr) : Agent := (s.seesFrom i).1

/-- The state in the cycle the word begins; reaching the word a pre-emption stopped at ends the restore routine (R83). -/
def State.begun (s : State) (i : Instr) : State :=
  let s' : State := { s.advance (s.startOf i - s.cycle) with fresh := (s.seesFrom i).2 }
  if s.me.inRestore ∧ s.me.pc = s.me.resumePc then s'.setAg s.cur { s.me with inRestore := false } else s'

/-- The lanes active for the word (R55). -/
def State.lanes (s : State) (i : Instr) : LaneMask := (s.sees i).active (s.shapeOf i).c.neg (s.shapeOf i).c.k

/-- Whether the word's effect runs: a lane is active, or the word acts without one. -/
def State.effective (s : State) (i : Instr) : Bool := s.lanes i != 0 || (s.shapeOf i).always

/-- What follows from a word's own effect: its trap, or its completion. `s` is the state the word issued in. -/
def State.finish (s : State) (i : Instr) : Except Trap Done → Host.Outcome State Fault Refusal
  | .error t => (s.begun i).takeTrap s.cur t
  | .ok d =>
    match d.trap, d.late with
    | some t, _ => d.s.takeTrap s.cur t
    | none, some t => (State.complete s.cur (s.shapeOf i) (s.startOf i) i.size d).takeTrap s.cur t
    | none, none => .next (State.complete s.cur (s.shapeOf i) (s.startOf i) i.size d)

/-- Whether a trap before the word's own effect is half B's of an H word: half A meets none of its own (R122). -/
def Agent.inHalfB (a : Agent) (i : Instr) : Bool :=
  match i with
  | .hWord ha hb => ha.ok && (!hb.ok || (ha.op.compatible hb.op &&
      (a.issueTrap { c := noCtl, reads := (HalfOp.regs ha.op).1, writes := (HalfOp.regs ha.op).2, group := HalfOp.vector ha.op }).isNone))
  | _ => false

/-- Whether a register that is read too early is one half B alone reads (R122, R128). -/
def Agent.earlyInB (a : Agent) (i : Instr) (d : Pend) : Bool :=
  match i with
  | .hWord ha _ => !(((HalfOp.regs ha.op).1 ++ rK ha.k).map (regOf (a.kind == .group))).contains (d.cls, d.idx)
  | _ => false

/-- Issue a word of the current agent (R155): the decode condition, the subsets, privilege and allocation, the checking scoreboard, which R155 gives
no place and which stands after step 5 here (log 97), then the word's own effect `body` when a lane is active, over the registers as it reads them. -/
def issue (i : Instr) (s : State) (body : State → Agent → LaneMask → Except Trap Done) : Host.Outcome State Fault Refusal :=
  if !s.me.live then .next s
  else if !i.wf then s.takeTrap s.cur { cause := .illegal, halfB := s.me.inHalfB i }
  else match s.me.issueTrap (s.shapeOf i) with
    | some t => s.takeTrap s.cur { t with halfB := s.me.inHalfB i }
    | none =>
      match s.tooEarly i with
      | some d =>
        (s.advance (s.startOf i - s.cycle)).takeTrap s.cur { cause := .stallShort, reg := d.idx, detail64 := d.pc, halfB := s.me.earlyInB i d }
      | none => s.finish i (if s.effective i then body (s.begun i) (s.sees i) (s.lanes i) else .ok { s := s.begun i })

/-- A word that only writes registers and raises flags. -/
def issueRegs (i : Instr) (s : State) (f : Agent → LaneMask → List RegW × BitVec 6) : Host.Outcome State Fault Refusal :=
  issue i s (fun s v act => .ok { s := s, ws := (f v act).1, fl := (f v act).2 })

end Sys2Proof.Machine
end

