-- ==== Sys2Proof/Machine/Groups.lean ====
section
/-! DEFINITION. Groups in their slots (R58, R59), pigeonholes and the crossbar (R68–R72), and what a group's end or filing frees
(R75). -/

namespace Sys2Proof.Machine

/-- Keys of the live groups of a team in chain-rank order: even core first, then by slot (R59). -/
def State.teamGroups (s : State) (team : Nat) : List Nat :=
  (s.agents.filter (fun p => p.2.live && p.2.kind == .group && p.2.team == team)).map (·.1)

/-- The chain rank of a group (R59). -/
def State.rank (s : State) (key : Nat) : Nat := (s.teamGroups (s.ag key).team).idxOf key

/-- The slots a team holds on a core (R58). -/
def Team.slotsOn (t : Team) (ck : Nat) : List Nat :=
  if ck = coreKey t.die t.core then t.slots0 else if t.paired ∧ ck = coreKey t.die t.core + 1 then t.slots1 else []

/-- Whether a slot of a core holds a group or is being filled by the crossbar. -/
def State.slotBusy (s : State) (ck slot : Nat) : Bool :=
  (let a := s.ag (64 * ck + slot); a.live && a.kind == .group) || (s.co ck).xbar.any (fun p => p.2.slot == slot)

/-- The lowest free slot of a team on a core (R58). -/
def State.freeSlot (s : State) (team ck : Nat) : Option Nat :=
  (((s.tm team).slotsOn ck).insertionSort (· ≤ ·)).find? (fun x => !s.slotBusy ck x)

/-- Generators of a new group in a slot, and the count of the slot's seedings (R99): bit 11 of z is the parity of the core's number. -/
def State.seed (s : State) (team ck slot width : Nat) : Tab (BitVec 128) × State :=
  let t := s.tm team
  let parity := if ck = coreKey t.die t.core then 0 else 1
  let k := 32 * parity + slot
  let n := tget t.seeds k
  ((List.range width).map (fun l => (l, rngSeed t.lid t.bg t.teamId (ck % 2) slot l n)), s.setTm team { t with seeds := tput t.seeds k (n + 1) })

/-- Whether a release takes a slot no later than another: the earlier cycle, in one cycle the lower kind, of one kind the lower index (R72). -/
def Release.upTo (r q : Release) : Bool :=
  r.cycle < q.cycle || (r.cycle == q.cycle && (r.kind < q.kind || (r.kind == q.kind && decide (r.idx ≤ q.idx))))

/-- Mark a pigeonhole for a release of one kind: it closes and takes its place among the releases (R69, R72). -/
def State.releaseHole (s : State) (ck kind h : Nat) : State :=
  let c := s.co ck
  let x := tget c.holes h
  if x.live && x.order == none && !x.ths.isEmpty then
    s.setCo ck { c with relOrder := c.relOrder + 1, holes := tput c.holes h { x with order := some ⟨s.cycle, kind, if kind = 0 then c.relOrder else h⟩ } }
  else s

/-- The group a released pigeonhole forms in a slot (R70). -/
def holeAgent (x : Hole) (slot : Nat) (rng : Tab (BitVec 128)) : Agent :=
  let lanes := x.ths.zipIdx
  let mask := allLanes x.ths.length
  { x.model with
    live := true, slot := slot, pc := x.key, act := mask, pres := mask, stack := [], depth := 0, gang := 0, flags := x.flags,
    vreg := (lanes.map (fun p => p.1.v.map (fun r => (64 * r.1 + p.2, r.2)))).flatten.foldl (fun t r => tput t r.1 r.2) [],
    kreg := (List.range 7).map (fun j => (j + 1, lanes.foldl (fun (m : LaneMask) p => if p.1.k.getLsbD (j + 1) then m ||| BitVec.twoPow 64 p.2 else m) 0)),
    tids := lanes.map (fun p => (p.2, p.1.tid)), rng := rng, wait := .none, pend := [], inflight := [], lands := [], sq := [], latch := none, filed := true, woken := false,
    ptbLatch := none }

/-- A pigeonhole that waits for a slot takes a free one of its team and goes to the crossbar, whose moves start in the next cycle or once those
before have ended: in the cycle in which their group is ready (R72). -/
def State.grantHole (s : State) (ck h : Nat) : State :=
  let x := tget (s.co ck).holes h
  if !x.live || x.order == none then s
  else match s.freeSlot x.team ck with
    | none => s
    | some slot =>
      let (rng, s) := s.seed x.team ck slot x.model.width
      let c := s.co ck
      let start := c.xbar.foldl (fun t p => max t p.1) (s.cycle + 1)
      let ready := start + (x.ths.length + 15) / 16
      s.setCo ck { c with holes := tput c.holes h { x with live := false, ths := [], order := none }, xbar := c.xbar ++ [(ready, holeAgent x slot rng)] }

/-- The released pigeonholes of a core that wait for a slot, in release order (R72). -/
def State.waitingHoles (s : State) (ck : Nat) : List (Release × Nat) :=
  ((s.co ck).holes.filterMap (fun p => if p.2.live then p.2.order.map (fun r => (r, p.1)) else none)).insertionSort (fun p q => p.1.upTo q.1)

/-- Released pigeonholes of a core take slots in release order (R72, R499). -/
def State.grantHoles (s : State) (ck : Nat) : State := (s.waitingHoles ck).foldl (fun s p => s.grantHole ck p.2) s

/-- A displacement and the releases before it take slots at once, for its number is the one the filing goes on with (R68, R72). -/
def State.displace (s : State) (ck h : Nat) : State :=
  let s := s.releaseHole ck 0 h
  let ws := s.waitingHoles ck
  (ws.filter (fun p => ws.any (fun q => q.2 == h && p.1.upTo q.1))).foldl (fun s p => s.grantHole ck p.2) s

/-- The crossbar's next group becomes ready in its slot (R72). -/
def State.moveXbar (s : State) (ck : Nat) : State :=
  let c := s.co ck
  match c.xbar with
  | [] => s
  | p :: rest => (s.setCo ck { c with xbar := rest }).setAg (64 * ck + p.2.slot) { p.2 with ready := max s.cycle p.1, since := max s.cycle p.1 }

/-- Whether every thread of a team on a core is in a pigeonhole or has exited (R69 (d)). -/
def State.allFiled (s : State) (team ck : Nat) : Bool :=
  !(s.agents.any (fun p => p.2.live && p.2.kind == .group && p.2.team == team && p.2.ck == ck)) &&
    !((s.co ck).xbar.any (fun p => p.2.team == team))

/-- Release every pigeonhole of a team on a core, in ascending number (R69 (d), (e)). -/
def State.drainHoles (s : State) (team ck : Nat) : State :=
  (List.range 16).foldl (fun s h => if (tget (s.co ck).holes h).team = team then s.releaseHole ck 3 h else s) s

/-- Full pigeonholes are released, in ascending number (R69 (a), R72). -/
def State.releaseFull (s : State) (ck : Nat) : State :=
  (List.range 16).foldl (fun s h =>
    let x := tget (s.co ck).holes h
    if x.ths.length ≥ x.model.width then s.releaseHole ck 1 h else s) s

/-- Whether a team has been asked to stop (R79). -/
def Team.asked (t : Team) : Bool := match t.pre with | .asked _ => true | _ => false

/-- What a freed slot allows on its core: full pigeonholes, and every one of a team with no group left there or asked to stop, are released
(R69); they take slots once the words of the cycle have been issued (R72). -/
def State.slotFreed (s : State) (team ck : Nat) : State :=
  let s := s.releaseFull ck
  if s.allFiled team ck || (s.tm team).asked then s.drainHoles team ck else s

/-- The open pigeonhole of a team with a key (R68). -/
def openHole (hs : Tab Hole) (team : Nat) (key : W64) : Option Nat :=
  (hs.find? (fun p => p.2.live && p.2.order == none && decide (p.2.ths.length < p.2.model.width) && p.2.team == team && p.2.key == key)).map (·.1)

/-- The lowest empty pigeonhole (R68). -/
def emptyHole (hs : Tab Hole) : Option Nat := (List.range 16).find? (fun h => !(tget hs h).live)

/-- The pigeonhole a displacement releases: the earliest birth cycle, the lowest number on ties (R68). -/
def oldestHole (hs : Tab Hole) : Option Nat :=
  ((hs.filter (fun p => p.2.live && p.2.order == none && decide (p.2.ths.length < p.2.model.width))).foldl (fun (b : Option (Nat × Nat)) p =>
    match b with
    | none => some (p.2.born, p.1)
    | some x => if p.2.born < x.1 then some (p.2.born, p.1) else b) none).map (·.2)

/-- File the thread of one lane (R68); `none` when no pigeonhole is empty and the displaced one finds no slot (log 14). -/
def State.fileThread (s : State) (a : Agent) (key : W64) (th : Thread) : Option State :=
  let ck := a.ck
  let r : Option (Nat × State) := match openHole (s.co ck).holes a.team key with
    | some h => some (h, s)
    | none =>
      let s := match emptyHole (s.co ck).holes with
        | some _ => s
        | none => match oldestHole (s.co ck).holes with
          | some v => s.displace ck v
          | none => s.grantHoles ck
      let c := s.co ck
      (emptyHole c.holes).map (fun h =>
        let x : Hole := { live := true, key := key, team := a.team, born := s.cycle, first := a.slot, model := a, flags := 0, ths := [], order := none }
        (h, s.setCo ck { c with holes := tput c.holes h x }))
  r.map (fun (h, s) =>
    let c := s.co ck
    let x := tget c.holes h
    let x := { x with ths := x.ths ++ [th], flags := x.flags ||| a.flags }
    s.setCo ck { c with holes := tput c.holes h x })

/-- The thread of a lane (R70). -/
def Agent.thread (a : Agent) (l : Nat) : Thread :=
  { v := (List.range a.nv).filterMap (fun r => (tfind a.vreg (64 * r + l)).map (fun x => (r, x))),
    k := (List.range 8).foldl (fun (m : BitVec 8) j => if (tget a.kreg j).getLsbD l then m ||| BitVec.twoPow 8 j else m) 0,
    tid := tget a.tids l }

/-! ## Named barriers and gbar (R31, R235, R236) -/

/-- Groups of a team waiting on a barrier phase are re-inserted: their wait ends with the acquire actions of `.team` (R64, R235). -/
def State.wakeBarrier (s : State) (team b : Nat) (phase : Bool) : State :=
  (s.teamGroups team).foldl (fun s k =>
    let a := s.ag k
    if a.wait = .barrier b phase then (s.setAg k { a with wait := .none, ready := max a.ready (s.cycle + 1), since := s.cycle + 1, woken := true }).acquireAt k .team else s) s

/-- The mark of a saved group at the grid barrier: above every key of a live one (R236). -/
def gcode (bg teamId rank : Nat) : Nat := 2 ^ 30 + (bg * 16 + teamId) * 64 + rank

/-- The bit of a group among its team's slots. -/
def Team.slotBit (t : Team) (a : Agent) : Nat := 32 * (a.core - t.core) + a.slot

/-- Live groups of a launch that hold threads (R236). -/
def State.launchGroups (s : State) (lid : Nat) : List Nat :=
  (s.agents.filter (fun p => p.2.live && p.2.kind == .group && (s.tm p.2.team).lid == lid && (s.tm p.2.team).live && p.2.pres != 0)).map (·.1)

/-- Marks of the groups a saved team holds in its frames. -/
def Team.gcodes (t : Team) : List Nat :=
  (t.frames.filter (fun p => p.2.kind == .group)).map (fun p => gcode t.bg t.teamId p.1)

/-- Complete a launch's `gbar` phase when every group that holds threads, saved ones included, has arrived (R236). -/
def State.gbarCheck (s : State) (lid : Nat) : State :=
  let l := s.la lid
  let gs := s.launchGroups lid
  let saved := (s.teams.filter (fun t => t.2.lid == lid && t.2.pre == .saved)).flatMap (fun t => t.2.gcodes)
  if l.garr.isEmpty ∨ !((gs ++ saved).all (fun k => l.garr.contains k)) then s
  else
    let s := s.setLa lid { l with gphase := l.gphase + 1, garr := [] }
    gs.foldl (fun s k =>
      let a := s.ag k
      if a.wait = .gbar l.gphase then (s.setAg k { a with wait := .none, ready := max a.ready (s.cycle + 1), since := s.cycle + 1, woken := true }).acquireAt k .pkg else s) s

/-- A group ends (R75, R181): its stores are performed, it leaves its gang, its slot is freed, and its team may end. -/
def State.endGroup (s : State) (key : Nat) : State :=
  let s := (s.drainAll key).leaveGang key
  let a := s.ag key
  let s := s.setAg key { a with live := false, wait := .none, pend := [], inflight := [], lands := [] }
  let s := s.slotFreed a.team a.ck
  let s := s.gbarCheck (s.tm a.team).lid
  { s with todo := s.todo ++ [.teamEnd a.team] }

end Sys2Proof.Machine
end

