-- ==== Sys2Proof/Machine/Control.lean ====
section
/-! DEFINITION. Control instructions (R171–R181): transfers, the divergence stack with its spills (R21, R173–R177), `reform`,
`yield` and `exit`. -/

namespace Sys2Proof.Machine

/-- NOP (R180). -/
def execNop (c : Ctl) (s : State) : Host.Outcome State Fault Refusal := issue (.nop c) s (fun s _ _ => .ok { s := s })

/-- A uniform transfer: taken to `pc`, or past the word. -/
def jumpTo (s : State) (take : Bool) (pc : W64) (ws : List RegW) : Done :=
  if take then { s := s, ws := ws, pc := some pc, taken := true } else { s := s, ws := ws }

/-- BRA (R172). -/
def execBra (c : Ctl) (t : Tgt) (s : State) : Host.Outcome State Fault Refusal :=
  issue (.bra c t) s (fun s v _ => .ok (jumpTo s true (Tgt.addr v.pc t) []))

/-- BRS (R172): `z` branches on zero. -/
def execBrs (c : Ctl) (z : Bool) (sa : BitVec 6) (t : Tgt) (s : State) : Host.Outcome State Fault Refusal :=
  issue (.brs c z sa t) s (fun s v _ => .ok (jumpTo s ((v.s32 sa.toNat == 0) == z) (Tgt.addr v.pc t) []))

/-- CALL (R172): the link is the following word's address. -/
def execCall (c : Ctl) (d : BitVec 6) (t : Tgt) (s : State) : Host.Outcome State Fault Refusal :=
  issue (.call c d t) s (fun s v _ =>
    .ok (jumpTo s true (Tgt.addr v.pc t) (wS true d (v.pc + BitVec.ofNat 64 (Instr.size (.call c d t))))))

/-- RET (R172). -/
def execRet (c : Ctl) (sa : BitVec 6) (s : State) : Host.Outcome State Fault Refusal :=
  issue (.ret c sa) s (fun s v _ => .ok (jumpTo s true (v.s64 sa.toNat) []))

/-- JMPR (R172). -/
def execJmpr (c : Ctl) (sa : BitVec 6) (s : State) : Host.Outcome State Fault Refusal :=
  issue (.jmpr c sa) s (fun s v _ => .ok (jumpTo s true (v.s64 sa.toNat) []))

/-- LOOP (R172). -/
def execLoop (c : Ctl) (sa : BitVec 6) (t : Tgt) (s : State) : Host.Outcome State Fault Refusal :=
  issue (.loop c sa t) s (fun s v _ =>
    let n := v.s32 sa.toNat - 1
    .ok (jumpTo s (n != 0) (Tgt.addr v.pc t) [.s sa.toNat n]))

/-! ## The divergence stack (R21, R173–R177) -/

/-- The stack-aperture address of the spilled entry at a depth from 17 up (R177). -/
def spillEa (stack depth : Nat) : W64 := BitVec.ofInt 64 (0xFFFD000000000000 + ((stack : Int) - 16 * ((depth : Int) - 16)) % 2 ^ 48)

/-- Spot of a spilled entry, in the spill lane's stack. -/
def State.spillSpot (s : State) (key depth : Nat) (kind : AKind) : Except Trap Spot × State :=
  let a := s.ag key
  let ea := spillEa (s.teamOf a).stack depth
  match s.spotOf a a.spillLane ea kind with
  | (.ok sp, s) => (.ok sp, s)
  | (.error st, s) => (.error (stopTrap kind (st, a.spillLane, ea)), s)

/-- Push an entry: depths 1 to 16 lie in the stack hardware, deeper ones in the spill lane's stack (R21, R177). A courier has no spill
area (R159). -/
def State.pushDiv (s : State) (key : Nat) (e : DivEntry) : Except Trap State :=
  let a := s.ag key
  if a.depth < 16 then .ok (s.setAg key { a with stack := e :: a.stack, depth := a.depth + 1 })
  else if a.kind ≠ .group then .error { cause := .illegal }
  else
    let a := if a.depth = 16 then { a with spillLane := (lanesOf a.pres).headD 0 } else a
    let s := s.setAg key a
    match s.spillSpot key (a.depth + 1) .write with
    | (.error t, _) => .error t
    | (.ok sp, s) =>
      let ea := spillEa (s.teamOf a).stack (a.depth + 1)
      let s := s.pushStore key ea sp 16 (e.pc.toNat + e.mask.toNat * 2 ^ 64) .none
      let a := s.ag key
      .ok (s.setAg key { a with depth := a.depth + 1 })

/-- Pop an entry; one whose two fields are zero traps ILLEGAL (R177). -/
def State.popDiv (s : State) (key : Nat) : Except Trap (DivEntry × State) :=
  let a := s.ag key
  let check (e : DivEntry) (s : State) : Except Trap (DivEntry × State) :=
    if e.pc = 0 ∧ e.mask = 0 then .error { cause := .illegal } else .ok (e, s)
  if a.depth = 0 then .error { cause := .illegal }
  else if a.depth ≤ 16 then
    check (a.stack.headD ⟨0, 0⟩) (s.setAg key { a with stack := a.stack.tail, depth := a.depth - 1 })
  else match s.spillSpot key a.depth .read with
    | (.error t, _) => .error t
    | (.ok sp, s) =>
      match s.loadSpot key (spillEa (s.teamOf a).stack a.depth) sp 16 .none with
      | (.error e, _) => .error { cause := e.cause }
      | (.ok x, s) =>
        let a := s.ag key
        check ⟨BitVec.ofNat 64 x, BitVec.ofNat 64 (x / 2 ^ 64)⟩ (s.setAg key { a with depth := a.depth - 1 })

/-- BRK (R174): the guard and kA split the running lanes; every `brk` pushes one entry. -/
def execBrk (c : Ctl) (ka : BitVec 3) (t : Tgt) (s : State) : Host.Outcome State Fault Refusal :=
  issue (.brk c ka t) s (fun s v act =>
    let taken := act &&& v.k ka.toNat
    let rest := v.act &&& v.pres &&& ~~~ taken
    let next := v.pc + BitVec.ofNat 64 (Instr.size (.brk c ka t))
    if taken = 0 then (s.pushDiv s.cur ⟨1, 0⟩).map (fun s => { s := s })
    else if rest = 0 then (s.pushDiv s.cur ⟨1, 0⟩).map (fun s => jumpTo s true (Tgt.addr v.pc t) [])
    else (s.pushDiv s.cur ⟨next, rest⟩).map (fun s =>
      jumpTo (s.setAg s.cur { s.ag s.cur with act := taken }) true (Tgt.addr v.pc t) []))

/-- JOIN (R175). -/
def execJoin (c : Ctl) (s : State) : Host.Outcome State Fault Refusal :=
  issue (.join c) s (fun s v _ =>
    (s.popDiv s.cur).bind (fun (e, s) =>
      let a := s.ag s.cur
      if e.pc.getLsbD 0 then
        .ok { s := s.setAg s.cur { a with act := (a.act &&& a.pres) ||| (e.mask &&& a.pres) } }
      else (s.pushDiv s.cur ⟨v.pc ||| 1, a.act &&& a.pres⟩).map (fun s =>
        jumpTo (s.setAg s.cur { s.ag s.cur with act := e.mask &&& a.pres }) true e.pc [])))

/-- The pops of R176 after an `exit` empties the running lanes: the PC to go on from, if they change it. -/
def State.exitPops (s : State) (key : Nat) (pc : Option W64) : Nat → Except Trap (State × Option W64)
  | 0 => .ok (s, pc)
  | fuel + 1 =>
    let a := s.ag key
    if a.act &&& a.pres ≠ 0 ∨ a.depth = 0 then .ok (s, pc)
    else (s.popDiv key).bind (fun (e, s) =>
      let a := s.ag key
      let m := e.mask &&& a.pres
      if e.pc.getLsbD 0 then
        State.exitPops (s.setAg key { a with act := m }) key (if m ≠ 0 then some ((e.pc &&& ~~~ 1#64) + 8) else pc) fuel
      else (s.pushDiv key ⟨1, 0⟩).bind (fun s => State.exitPops (s.setAg key { s.ag key with act := m }) key (some e.pc) fuel))

/-- A stopped agent whose save routine has ended is saved (R79 step 3); it keeps its slot until its team is saved, on which the manual is silent (log 97). -/
def State.endSave (s : State) (key : Nat) : State :=
  let s := s.drainAll key
  let a := s.ag key
  { s.setAg key { a with wait := .saved } with todo := s.todo ++ [.teamSaved a.team] }

/-- EXIT (R181): ends the threads of the active lanes, then the group, or pops the divergence stack; on a courier it ends the courier
context, and in a save routine it ends the group without ending its threads. -/
def execExit (c : Ctl) (s : State) : Host.Outcome State Fault Refusal :=
  issue (.exit c) s (fun s v act =>
    let key := s.cur
    let a := s.ag key
    if v.inSave then .ok { s := s.endSave key, gone := true }
    else if v.kind ≠ .group then
      let s := s.drainAll key
      .ok { s := { s.setAg key { s.ag key with live := false } with todo := s.todo ++ [.teamEnd a.team] }, gone := true }
    else
      let pres := a.pres &&& ~~~ act
      let s := s.setAg key { a with pres := pres }
      if pres = 0 then .ok { s := s.endGroup key, gone := true }
      else if a.act &&& pres = 0 ∧ a.depth ≠ 0 then
        (s.exitPops key none (2 * a.depth + 2)).map (fun (s, pc) => match pc with
          | some t => jumpTo s true t []
          | none => { s := s })
      else .ok { s := s })

/-- YIELD (R179): the group leaves the ready set for 8 issue opportunities; on a courier it does nothing (R159). -/
def execYield (c : Ctl) (s : State) : Host.Outcome State Fault Refusal :=
  issue (.yield c) s (fun s v _ => .ok { s := s, wait := if v.kind = .group then .yielded 8 else .none })

/-- REFORM (R178): the checks, the wait for every pending write and the store queue, the filing of R68, and the slot freed. A group
whose thread finds no pigeonhole issues again in the next cycle (log 14). -/
def execReform (c : Ctl) (va : BitVec 8) (s : State) : Host.Outcome State Fault Refusal :=
  issue (.reform c va) s (fun s v act =>
    let key := s.cur
    let next (l : Nat) : W64 := v.v64 va.toNat l
    if v.depth ≠ 0 then .error { cause := .illegal }
    else match (lanesOf act).find? (fun l => (next l).toNat % 8 != 0) with
      | some l => .error { cause := .illegal, lane := l, addr := next l }
      | none =>
        let s := (s.advance (v.landed s.cycle - s.cycle)).drainAll key
        let s0 := s
        let s := s.leaveGang key
        let a := s.ag key
        let s := s.setAg key { a with live := false, pend := [], inflight := [], lands := [], wait := .none }
        let r := (lanesOf act).foldl (fun (acc : Option State) l => acc.bind (fun s => s.fileThread a (next l) (a.thread l))) (some s)
        match r with
        | some s => .ok { s := s.slotFreed a.team a.ck, gone := true }
        | none => .ok { s := s0.setAg key { s0.ag key with ready := s0.cycle + 1 }, gone := true })

end Sys2Proof.Machine
end

