-- ==== Sys2Proof/Machine/IntOps.lean ====
section
/-! DEFINITION. Integer operations at width n = 32 or 64 on natural numbers below 2^n, shared by the scalar and the vector
instructions (R163–R168, R189–R194). -/

namespace Sys2Proof.Machine

/-- Width of an integer form. -/
def wbits (w64 : Bool) : Nat := if w64 then 64 else 32

/-- The signed reading of an n-bit value. -/
def sInt (n x : Nat) : Int := if x ≥ 2 ^ (n - 1) then (x : Int) - 2 ^ n else x

def iAdd (n a b : Nat) : Nat := (a + b) % 2 ^ n
def iSub (n a b : Nat) : Nat := (a + 2 ^ n - b % 2 ^ n) % 2 ^ n
def iMul (n a b : Nat) : Nat := a * b % 2 ^ n

/-- High half of a product (R163, R189). -/
def iMulH (sgn : Bool) (n a b : Nat) : Nat :=
  if sgn then lowBits n (sInt n a * sInt n b / 2 ^ n) else a * b / 2 ^ n % 2 ^ n

/-- Unsigned quotient, all ones for a zero divisor (R164). -/
def iDivU (n a b : Nat) : Nat := if b = 0 then 2 ^ n - 1 else a / b

def iAnd (_ a b : Nat) : Nat := Nat.land a b
def iOr (_ a b : Nat) : Nat := Nat.lor a b
def iXor (_ a b : Nat) : Nat := Nat.xor a b
def iNot (n a : Nat) : Nat := 2 ^ n - 1 - a % 2 ^ n
def iShl (n a b : Nat) : Nat := a * 2 ^ (b % n) % 2 ^ n
def iShr (n a b : Nat) : Nat := a / 2 ^ (b % n)
def iSra (n a b : Nat) : Nat := lowBits n (sInt n a / 2 ^ (b % n))

/-- `vshr` with a signed count (R189). -/
def iShrS (n a b : Nat) : Nat :=
  let c := sInt 8 (b % 256)
  if c.natAbs ≥ n then 0 else if c < 0 then a * 2 ^ c.natAbs % 2 ^ n else a / 2 ^ c.toNat

/-- Whether a is below b, signed or unsigned. -/
def iLt (sgn : Bool) (n a b : Nat) : Bool := if sgn then decide (sInt n a < sInt n b) else decide (a < b)

def iMin (sgn : Bool) (n a b : Nat) : Nat := if iLt sgn n b a then b else a
def iMax (sgn : Bool) (n a b : Nat) : Nat := if iLt sgn n a b then b else a

/-- Leading zero bits; n for zero. -/
def iClz (n a : Nat) : Nat := if a = 0 then n else n - 1 - Nat.log2 a

/-- One bits. -/
def iPopc (n a : Nat) : Nat := ((List.range n).filter (fun i => a.testBit i)).length

/-- Bits in reverse order. -/
def iBrev (n a : Nat) : Nat := (List.range n).foldl (fun acc i => if a.testBit i then acc + 2 ^ (n - 1 - i) else acc) 0

/-- |a| read as signed, modulo 2^n. -/
def iAbs (n a : Nat) : Nat := lowBits n (sInt n a).natAbs

/-- Field of `m` bits at `pos`: 0 when m = 0 or pos ≥ n (R165, R193). -/
def iBfe (sgn : Bool) (n a pos m : Nat) : Nat :=
  if m = 0 ∨ n ≤ pos then 0
  else
    let f := a / 2 ^ pos % 2 ^ m
    if sgn && f ≥ 2 ^ (m - 1) then lowBits n ((f : Int) - 2 ^ m) else f

/-- Insert the low bits of `a` at `pos` into `c` (R165, R193). -/
def iBfi (n a c pos m : Nat) : Nat :=
  let mask := (2 ^ m - 1) * 2 ^ pos % 2 ^ n
  Nat.lor (Nat.land c (iNot n mask)) (Nat.land (a * 2 ^ pos % 2 ^ n) mask)

/-- The integer conditions of R147. -/
def iccHolds (cc : ICC) (n a b : Nat) : Bool :=
  match cc with
  | .eq => a == b
  | .ne => a != b
  | .lt => iLt true n a b
  | .le => !iLt true n b a
  | .gt => iLt true n b a
  | .ge => !iLt true n a b
  | .ltu => iLt false n a b
  | .leu => !iLt false n b a
  | .gtu => iLt false n b a
  | .geu => !iLt false n a b

/-- An exact result kept in n bits, or clamped to the signed range (R189, R190). -/
def iSat (sat : Bool) (n : Nat) (z : Int) : Nat × BitVec 6 :=
  if sat then
    let (y, fl) := clampSat (-(2 ^ (n - 1)), 2 ^ (n - 1) - 1) z
    (lowBits n y, fl)
  else (lowBits n z, 0)

end Sys2Proof.Machine
end

