-- ==== Sys2Proof/Machine/VectorInt.lean ====
section
/-! DEFINITION. Vector integer instructions (R183–R195). -/

namespace Sys2Proof.Machine

/-- One value with its flags per active lane (R184): the register writes and the flags of all of them (R102, R188). -/
def perLane (w64 : Bool) (d : BitVec 8) (act : LaneMask) (f : Nat → Nat × BitVec 6) : List RegW × BitVec 6 :=
  let xs := (lanesOf act).map (fun l => (l, f l))
  (wV w64 d (xs.map (fun p => (p.1, BitVec.ofNat 64 p.2.1))), xs.foldl (fun fl p => fl ||| p.2.2) 0)

/-- A vector `vD, vA, b` form at width n (R184). -/
def vBinary (i : Instr) (s : State) (o : VBin) (sgnImm : Bool) (f : Nat → Nat → Nat → Nat × BitVec 6) : Host.Outcome State Fault Refusal :=
  issueRegs i s (fun a act => perLane o.w64 o.d act (fun l =>
    f (wbits o.w64) (a.vw o.w64 o.a.toNat l).toNat (a.vsrc o.w64 sgnImm l o.b).toNat))

/-- A form that raises no flag. -/
def noFlag (f : Nat → Nat → Nat → Nat) (n a b : Nat) : Nat × BitVec 6 := (f n a b, 0)

/-- A vector `vD, vA` form. -/
def vUnary (i : Instr) (s : State) (o : VUn) (f : Nat → Nat → Nat × BitVec 6) : Host.Outcome State Fault Refusal :=
  issueRegs i s (fun a act => perLane o.w64 o.d act (fun l => f (wbits o.w64) (a.vw o.w64 o.a.toNat l).toNat))

/-- A three-source form with a vector c. -/
def vTernary (i : Instr) (s : State) (o : VBin) (sgnImm : Bool) (vc : BitVec 8) (f : Nat → Nat → Nat → Nat → Nat × BitVec 6) :
    Host.Outcome State Fault Refusal :=
  issueRegs i s (fun a act => perLane o.w64 o.d act (fun l =>
    f (wbits o.w64) (a.vw o.w64 o.a.toNat l).toNat (a.vsrc o.w64 sgnImm l o.b).toNat (a.vw o.w64 vc.toNat l).toNat))

/-- VADD (R189). -/
def execVadd (c : Ctl) (sat : Bool) (o : VBin) (s : State) : Host.Outcome State Fault Refusal :=
  vBinary (.vadd c sat o) s o false (fun n a b => iSat sat n (sInt n a + sInt n b))
/-- VSUB (R189). -/
def execVsub (c : Ctl) (sat : Bool) (o : VBin) (s : State) : Host.Outcome State Fault Refusal :=
  vBinary (.vsub c sat o) s o false (fun n a b => iSat sat n (sInt n a - sInt n b))
/-- VMUL (R189). -/
def execVmul (c : Ctl) (sat : Bool) (o : VBin) (s : State) : Host.Outcome State Fault Refusal :=
  vBinary (.vmul c sat o) s o false (fun n a b => iSat sat n (sInt n a * sInt n b))
/-- VMULH (R189). -/
def execVmulh (c : Ctl) (sgn : Bool) (o : VBin) (s : State) : Host.Outcome State Fault Refusal :=
  vBinary (.vmulh c sgn o) s o sgn (noFlag (iMulH sgn))
/-- VMAD (R190): one clamp, after the addition. -/
def execVmad (c : Ctl) (sat : Bool) (o : VBin) (vc : BitVec 8) (s : State) : Host.Outcome State Fault Refusal :=
  vTernary (.vmad c sat o vc) s o false vc (fun n a b c => iSat sat n (sInt n a * sInt n b + sInt n c))
/-- VAND (R189). -/
def execVand (c : Ctl) (o : VBin) (s : State) : Host.Outcome State Fault Refusal := vBinary (.vand c o) s o false (noFlag iAnd)
/-- VOR (R189). -/
def execVor (c : Ctl) (o : VBin) (s : State) : Host.Outcome State Fault Refusal := vBinary (.vor c o) s o false (noFlag iOr)
/-- VXOR (R189). -/
def execVxor (c : Ctl) (o : VBin) (s : State) : Host.Outcome State Fault Refusal := vBinary (.vxor c o) s o false (noFlag iXor)
/-- VNOT (R191). -/
def execVnot (c : Ctl) (o : VUn) (s : State) : Host.Outcome State Fault Refusal := vUnary (.vnot c o) s o (fun n a => (iNot n a, 0))
/-- VSHL (R189). -/
def execVshl (c : Ctl) (o : VBin) (s : State) : Host.Outcome State Fault Refusal := vBinary (.vshl c o) s o false (noFlag iShl)
/-- VSHR (R189). -/
def execVshr (c : Ctl) (sgn : Bool) (o : VBin) (s : State) : Host.Outcome State Fault Refusal :=
  vBinary (.vshr c sgn o) s o sgn (noFlag (if sgn then iShrS else iShr))
/-- VSRA (R189). -/
def execVsra (c : Ctl) (o : VBin) (s : State) : Host.Outcome State Fault Refusal := vBinary (.vsra c o) s o false (noFlag iSra)
/-- VMIN (R189). -/
def execVmin (c : Ctl) (sgn : Bool) (o : VBin) (s : State) : Host.Outcome State Fault Refusal :=
  vBinary (.vmin c sgn o) s o sgn (noFlag (iMin sgn))
/-- VMAX (R189). -/
def execVmax (c : Ctl) (sgn : Bool) (o : VBin) (s : State) : Host.Outcome State Fault Refusal :=
  vBinary (.vmax c sgn o) s o sgn (noFlag (iMax sgn))
/-- VABS (R191). -/
def execVabs (c : Ctl) (o : VUn) (s : State) : Host.Outcome State Fault Refusal := vUnary (.vabs c o) s o (fun n a => (iAbs n a, 0))
/-- VCLZ (R191). -/
def execVclz (c : Ctl) (o : VUn) (s : State) : Host.Outcome State Fault Refusal := vUnary (.vclz c o) s o (fun n a => (iClz n a, 0))
/-- VPOPC (R191). -/
def execVpopc (c : Ctl) (o : VUn) (s : State) : Host.Outcome State Fault Refusal := vUnary (.vpopc c o) s o (fun n a => (iPopc n a, 0))
/-- VBREV (R191). -/
def execVbrev (c : Ctl) (o : VUn) (s : State) : Host.Outcome State Fault Refusal := vUnary (.vbrev c o) s o (fun n a => (iBrev n a, 0))

/-- VBFE (R193): the length is a register, the position b[6:0]. -/
def execVbfe (c : Ctl) (sgn : Bool) (o : VBin) (vc : BitVec 8) (s : State) : Host.Outcome State Fault Refusal :=
  vTernary (.vbfe c sgn o vc) s o sgn vc (fun n a b c => (iBfe sgn n a (b % 128) (min (c % 128) n), 0))
/-- VBFI (R193). -/
def execVbfi (c : Ctl) (o : VBin) (vc : BitVec 8) (s : State) : Host.Outcome State Fault Refusal :=
  vTernary (.vbfi c o vc) s o false vc (fun n a b c => (iBfi n a c (b % 128) (min (b / 256 % 128) n), 0))

/-- Range of a `vsat` target (R192). -/
def satRange : SatT → Int × Int
  | .i8 => (-128, 127)
  | .u8 => (0, 255)
  | .i16 => (-32768, 32767)
  | .i32 => (-(2 ^ 31), 2 ^ 31 - 1)

/-- VSAT (R192). -/
def execVsat (c : Ctl) (t : SatT) (sgn : Bool) (o : VUn) (s : State) : Host.Outcome State Fault Refusal :=
  vUnary (.vsat c t sgn o) s o (fun n a =>
    let (z, fl) := clampSat (satRange t) (if sgn then sInt n a else a)
    (lowBits n z, fl))

/-- A mask write of one bit per active lane (R19). -/
def wMask (kd : BitVec 3) (act : LaneMask) (f : Nat → Bool) : RegW :=
  .k kd.toNat ((lanesOf act).foldl (fun (m : LaneMask) l => if f l then m ||| BitVec.twoPow 64 l else m) 0) act

/-- VCMP (R194). -/
def execVcmp (c : Ctl) (cc : ICC) (w64 : Bool) (kd : BitVec 3) (va : BitVec 8) (b : VSrc) (s : State) : Host.Outcome State Fault Refusal :=
  issueRegs (.vcmp c cc w64 kd va b) s (fun a act =>
    ([wMask kd act (fun l => iccHolds cc (wbits w64) (a.vw w64 va.toNat l).toNat (a.vsrc w64 true l b).toNat)], 0))

/-- VSEL (R195). -/
def execVsel (c : Ctl) (o : VBin) (kc : BitVec 3) (s : State) : Host.Outcome State Fault Refusal :=
  issueRegs (.vsel c o kc) s (fun a act => perLane o.w64 o.d act (fun l =>
    (if (a.k kc.toNat).getLsbD l then (a.vw o.w64 o.a.toNat l).toNat else (a.vsrc o.w64 false l o.b).toNat, 0)))

end Sys2Proof.Machine
end

