-- ==== Sys2Proof/Machine/Convert.lean ====
section
/-! DEFINITION. Conversions between formats: `cvt`, `p4pack` and `p4unpack` (R186, R204–R207), with the draws of stochastic
rounding (R98, R99). -/

namespace Sys2Proof.Machine

/-- The next draw of a lane's generator (R99). -/
def Agent.drawOf (a : Agent) (l : Nat) : Nat := (rngDraw (tget a.rng l)).1

/-- The generators after one draw of each lane listed. -/
def Agent.stepRng (a : Agent) (ls : List Nat) : Agent :=
  { a with rng := ls.foldl (fun t l => tput t l (rngDraw (tget t l)).2) a.rng }

/-- Step the generators of the lanes listed when the mode draws (R98: one draw an element, exact ones included). -/
def State.drew (s : State) (key : Nat) (mode : Rnd) (ls : List Nat) : State :=
  if mode = .sr then s.setAg key ((s.ag key).stepRng ls) else s

/-- One element converted into P4 with E = 31 (R205). -/
def cvtP4 (ty : P4Ty) (x : Ex) (mode : Rnd) (draw : Nat) : Nat × BitVec 6 :=
  match x with
  | .nan _ => (0, flNV)
  | .inf neg => (((p4Codes ty neg).getLastD (0, 0)).2, flNV ||| flSAT)
  | .fin neg m e =>
    let (c, fl) := p4Code ty neg m e mode draw
    (c, if fl &&& flSAT ≠ 0 then fl ||| flOF else fl)

/-- CVT (R204, R205). -/
def execCvt (c : Ctl) (o : CvtOp) (s : State) : Host.Outcome State Fault Refusal :=
  issue (.cvt c o) s (fun s v act =>
    let (ws, fl) := perLane o.dst.wide o.d act (fun l =>
      let x := (v.vw o.src.wide o.a.toNat l).toNat % 2 ^ o.src.bits
      if o.dst = .p4 then cvtP4 o.ty (elemValue o.src x 0) o.rnd (v.drawOf l)
      else convElem o.dst o.src x 0 o.rnd o.sat (v.drawOf l))
    .ok { s := s.drew s.cur o.rnd (lanesOf act), ws := ws, fl := fl })

/-- One block of `p4pack` (R206, R95): its scale byte, its 32 codes and its flags. -/
def packBlock (ty : P4Ty) (xs : List Ex) (draws : List Nat) (mode : Rnd) : Nat × List Nat × BitVec 6 :=
  let (ef, f0) := p4BlockE ty xs
  let cs := (xs.zip draws).map (fun p => p4Elem ty ef p.1 mode p.2)
  (p4Scale ty ef, cs.map (·.1), cs.foldl (fun fl p => fl ||| p.2) f0)

/-- The value a lane brings to `p4pack`: +0 when inactive, an infinity clamped under `.sat` (R206). -/
def packIn (v : Agent) (act : LaneMask) (sat : Bool) (r l : Nat) : Ex :=
  if !act.getLsbD l then .fin false 0 0
  else match ff32.value (v.v32 r l).toNat with
    | .inf neg => if sat then .fin neg (2 ^ 24 - 1) 104 else .inf neg
    | x => x

/-- P4PACK (R206). -/
def execP4pack (c : Ctl) (o : PackOp) (s : State) : Host.Outcome State Fault Refusal :=
  issue (.p4pack c o) s (fun s v act =>
    if v.width < 32 then .error { cause := .illegal }
    else
      let bl := (List.range (v.width / 32)).map (fun j =>
        let ls := (List.range 32).map (fun i => 32 * j + i)
        packBlock o.ty (ls.map (packIn v act o.sat o.a.toNat)) (ls.map v.drawOf) o.rnd)
      let scales := leNat (bl.map (fun b => BitVec.ofNat 8 b.1))
      let codes := (bl.map (fun b => b.2.1)).flatten
      let word (m : Nat) : W32 := BitVec.ofNat 32 ((List.range 8).foldl (fun x t => x + ((codes[8 * m + t]?).getD 0) * 16 ^ t) 0)
      .ok { s := s.drew s.cur o.rnd (List.range v.width),
            ws := [.v o.d.toNat (((lanesOf act).filter (fun m => m < v.width / 8)).map (fun m => (m, word m))),
              .s o.sb.toNat (BitVec.ofNat 32 scales)],
            fl := bl.foldl (fun fl b => fl ||| b.2.2) 0 })

/-- A source lane of a cross-lane read: zero where no thread is held (R207, R209). -/
def Agent.lane (v : Agent) (r l : Nat) : W32 := if v.pres.getLsbD l then v.v32 r l else 0

/-- P4UNPACK (R207). -/
def execP4unpack (c : Ctl) (rnd : Rnd) (d va vb : BitVec 8) (s : State) : Host.Outcome State Fault Refusal :=
  issueRegs (.p4unpack c rnd d va vb) s (fun v act => perLane false d act (fun l =>
    let code := (v.lane va.toNat (l / 8)).toNat / 16 ^ (l % 8) % 16
    ((roundTo ff32 (decodeP4 code ((v.v32 vb.toNat l).toNat % 256)) .rn false 0).1, 0)))

end Sys2Proof.Machine
end

