-- ==== Sys2Proof/Machine/VectorFp.lean ====
section
/-! DEFINITION. Floating-point vector instructions: FP32 and FP64 (R196–R199), packed half precision (R200), the shadow check of
R109, and the H word (R121, R122, R153). -/

namespace Sys2Proof.Machine

/-- Whether a format's instructions take pairs. -/
def FF.wide (f : FF) : Bool := f.eb == 11

/-- One operation on patterns: result pattern and flags. -/
abbrev FOp := Nat → Nat → Nat → Nat × BitVec 6

/-- Sum, difference, product and fused product, rounded once (R101, R196). -/
def fAdd (f : FF) (rnd : Rnd) : FOp := fun a b _ =>
  let (x, fl) := (f.value a).add rnd (f.value b)
  let (y, fr) := roundTo f x rnd false 0
  (y, fl ||| fr)
def fSub (f : FF) (rnd : Rnd) : FOp := fun a b _ =>
  let (x, fl) := (f.value a).add rnd (f.value b).neg
  let (y, fr) := roundTo f x rnd false 0
  (y, fl ||| fr)
def fMul (f : FF) (rnd : Rnd) : FOp := fun a b _ =>
  let (x, fl) := (f.value a).mul (f.value b)
  let (y, fr) := roundTo f x rnd false 0
  (y, fl ||| fr)
def fFma (f : FF) (rnd : Rnd) : FOp := fun a b c =>
  let (x, fl) := Ex.fma rnd (f.value a) (f.value b) (f.value c)
  let (y, fr) := roundTo f x rnd false 0
  (y, fl ||| fr)

/-- The exact value of an operation on patterns, before it is rounded (R101). -/
abbrev FX := Nat → Nat → Nat → Ex

def fAddX (f : FF) (rnd : Rnd) : FX := fun a b _ => ((f.value a).add rnd (f.value b)).1
def fSubX (f : FF) (rnd : Rnd) : FX := fun a b _ => ((f.value a).add rnd (f.value b).neg).1
def fMulX (f : FF) : FX := fun a b _ => ((f.value a).mul (f.value b)).1
def fFmaX (f : FF) (rnd : Rnd) : FX := fun a b c => (Ex.fma rnd (f.value a) (f.value b) (f.value c)).1

/-- Minimum and maximum of R197. -/
def fMinMax (f : FF) (isMax : Bool) : FOp := fun a b _ =>
  let x := f.value a
  let y := f.value b
  let fl := flIf (x.isSig || y.isSig) flNV
  if x.isNan ∧ y.isNan then (f.nanBits, fl)
  else if x.isNan then (b, fl)
  else if y.isNan then (a, fl)
  else (if (if isMax then y.before x else x.before y) then a else b, fl)

/-- |a| and −a (R196). -/
def fAbs (f : FF) (a : Nat) : Nat × BitVec 6 :=
  let x := f.value a
  if x.isNan then (f.nanBits, flIf x.isSig flNV) else (a % 2 ^ (f.eb + f.fb), 0)
def fNeg (f : FF) (a : Nat) : Nat × BitVec 6 :=
  let x := f.value a
  if x.isNan then (f.nanBits, flIf x.isSig flNV) else (Nat.xor a (2 ^ (f.eb + f.fb)), 0)

/-- Comparison of R147 and R198. -/
def fccHolds (cc : FCC) (x y : Ex) : Bool :=
  let nan := x.isNan || y.isNan
  match cc with
  | .eq => x.eqv y
  | .ne => nan || !x.eqv y
  | .lt => !nan && x.lt y
  | .le => !nan && !y.lt x
  | .gt => !nan && y.lt x
  | .ge => !nan && !x.lt y
  | .num => !nan
  | .nan => nan

/-- Class mask of R199. -/
def fClass (f : FF) (a : Nat) : Nat :=
  match f.value a with
  | .nan sig => if sig then 0x100 else 0x200
  | .inf neg => if neg then 0x001 else 0x080
  | .fin neg m _ =>
    if m = 0 then (if neg then 0x008 else 0x010)
    else if m < 2 ^ f.fb then (if neg then 0x004 else 0x020)
    else (if neg then 0x002 else 0x040)

/-- Elements of a packed register (R200). -/
def packed (op : FOp) : FOp := fun a b c =>
  let (x, fx) := op (a % 65536) (b % 65536) (c % 65536)
  let (y, fy) := op (a / 65536 % 65536) (b / 65536 % 65536) (c / 65536 % 65536)
  (x + 65536 * y, fx ||| fy)

def halfFF (bf : Bool) : FF := if bf then ffbf else ff16

/-- The shadow comparison of one element (R109): `m` is the main result, `x` the exact value. `m5` is m rounded to 5 significant bits, s is x
truncated to 5; they must agree in sign and differ by at most 2^(E−4). A result with an exponent field of zero, an infinity and a NaN are
exempt, and the datapath's own result `good` never fails, an overflow that rounds to the largest finite value among them. -/
def shadowOk (f : FF) (good m : Nat) (x : Ex) : Bool :=
  m == good || m / 2 ^ f.fb % 2 ^ f.eb == 0 || m / 2 ^ f.fb % 2 ^ f.eb == 2 ^ f.eb - 1 ||
    match f.value m, x with
    | .fin nm a e, .fin nx b k =>
      let q := (Nat.log2 a : Int) + e - 4
      let r := (Nat.log2 b : Int) + k - 4
      let (n, lo, d) := scaleTo a e q
      let n5 := if roundUp .rn nm false n lo d 0 then n + 1 else n
      let u := min q r
      nm == nx && decide ((((n5 * pow2 (q - u) : Nat) : Int) - ((scaleTo b k r).1 * pow2 (r - u) : Nat)).natAbs ≤ 2 ^ Nat.log2 n5 / 16 * pow2 (q - u))
    | _, _ => false

/-- The lowest element of `n` of a lane's result whose shadow comparison fails, over the patterns of the operands (R109). -/
def shadowFails (f : FF) (n : Nat) (x : FX) (a b c good m : Nat) : Option Nat :=
  let p (y e : Nat) : Nat := y / 65536 ^ e % 2 ^ (1 + f.eb + f.fb)
  (List.range n).find? (fun e => !shadowOk f (p good e) (p m e) (x (p a e) (p b e) (p c e)))

/-- The fault input of an agent's pipe, where its lane is active (log 9). -/
def State.upsetAt (s : State) (a : Agent) (act : LaneMask) : Option (Nat × W64) :=
  (tfind (s.co a.ck).upsets a.pipe).filter (fun u => act.getLsbD u.1)

/-- A fault input has had its effect. -/
def State.upsetDone (s : State) (a : Agent) (u : Option (Nat × W64)) : State :=
  if u.isSome then s.setCo a.ck { s.co a.ck with upsets := tdel (s.co a.ck).upsets a.pipe } else s

/-- A lane's result as the datapath delivers it. -/
def upsetBits (u : Option (Nat × W64)) (l x : Nat) : Nat :=
  match u with
  | some u => if u.1 = l then Nat.xor x u.2.toNat else x
  | none => x

/-- Results over lanes, shadow-checked (R109): `r` gives a lane's result and flags, `ops` its operand patterns, `x` the exact value of an element,
of which a lane has `n`. Register writes, flags, and the trap of the lowest lane and element that fails. -/
def shadowLanes (s : State) (a : Agent) (f : FF) (n : Nat) (x : FX) (d : BitVec 8) (act : LaneMask) (u : Option (Nat × W64))
    (ops : Nat → Nat × Nat × Nat) (r : Nat → Nat × BitVec 6) : List RegW × BitVec 6 × Option Trap :=
  let (ws, fl) := perLane f.wide d act (fun l => (upsetBits u l (r l).1, (r l).2))
  (ws, fl, if !(s.di a.die).shadow then none
    else (lanesOf act).findSome? (fun l =>
      (shadowFails f n x (ops l).1 (ops l).2.1 (ops l).2.2 (r l).1 (upsetBits u l (r l).1)).map (fun e =>
        { cause := .shadow, lane := l, replay := true, detail32 := BitVec.ofNat 32 (a.pipe % 4 + 4 * e) })))

/-- The operand patterns of a floating form in a lane. -/
def Agent.fops (v : Agent) (f : FF) (pk : Bool) (o : FBin) (vc : Option (BitVec 8)) (l : Nat) : Nat × Nat × Nat :=
  ((v.vw f.wide o.a.toNat l).toNat, (v.fsrc f pk l o.b).toNat, match vc with | some c => (v.vw f.wide c.toNat l).toNat | none => 0)

/-- A floating form over lanes: `op` on the patterns of a, b and c. -/
def fLanes (i : Instr) (s : State) (f : FF) (pk : Bool) (o : FBin) (vc : Option (BitVec 8)) (op : FOp) : Host.Outcome State Fault Refusal :=
  issueRegs i s (fun v act => perLane f.wide o.d act (fun l => let p := v.fops f pk o vc l; op p.1 p.2.1 p.2.2))

/-- A floating form whose results, `n` elements to a lane of exact value `x`, are shadow-checked (R109). -/
def fShadow (i : Instr) (s : State) (f : FF) (pk : Bool) (o : FBin) (vc : Option (BitVec 8)) (n : Nat) (x : FX) (op : FOp) :
    Host.Outcome State Fault Refusal :=
  issue i s (fun s v act =>
    let u := s.upsetAt v act
    let (ws, fl, t) := shadowLanes s v f n x o.d act u (v.fops f pk o vc) (fun l => let p := v.fops f pk o vc l; op p.1 p.2.1 p.2.2)
    match t with
    | some t => .ok { s := s.upsetDone v u, trap := some t }
    | none => .ok { s := s.upsetDone v u, ws := ws, fl := fl })

/-- A packed half-precision form: BF16 is shadow-checked (R109, R200). -/
def fHalf (i : Instr) (s : State) (bf : Bool) (o : FBin) (vc : Option (BitVec 8)) (x : FX) (op : FOp) : Host.Outcome State Fault Refusal :=
  if bf then fShadow i s ffbf true o vc 2 x (packed op) else fLanes i s ff16 true o vc (packed op)

/-- A one-source floating form. -/
def fUnary (i : Instr) (s : State) (f : FF) (wd : Bool) (o : FUn) (op : Nat → Nat × BitVec 6) : Host.Outcome State Fault Refusal :=
  issueRegs i s (fun a act => perLane wd o.d act (fun l => op (a.vw f.wide o.a.toNat l).toNat))

/-- A floating compare (R198). -/
def fCompare (i : Instr) (s : State) (f : FF) (cc : FCC) (kd : BitVec 3) (va : BitVec 8) (b : VSrc) : Host.Outcome State Fault Refusal :=
  issueRegs i s (fun a act =>
    let x (l : Nat) : Ex := f.value (a.vw f.wide va.toNat l).toNat
    let y (l : Nat) : Ex := f.value (a.fsrc f false l b).toNat
    ([wMask kd act (fun l => fccHolds cc (x l) (y l))],
      (lanesOf act).foldl (fun fl l => fl ||| flIf ((x l).isSig || (y l).isSig) flNV) 0))

/-- FADD_F32 (R196). -/
def execFaddF32 (c : Ctl) (rnd : Rnd) (o : FBin) (s : State) : Host.Outcome State Fault Refusal :=
  fShadow (.faddF32 c rnd o) s ff32 false o none 1 (fAddX ff32 rnd) (fAdd ff32 rnd)
/-- FSUB_F32 (R196). -/
def execFsubF32 (c : Ctl) (rnd : Rnd) (o : FBin) (s : State) : Host.Outcome State Fault Refusal :=
  fShadow (.fsubF32 c rnd o) s ff32 false o none 1 (fSubX ff32 rnd) (fSub ff32 rnd)
/-- FMUL_F32 (R196). -/
def execFmulF32 (c : Ctl) (rnd : Rnd) (o : FBin) (s : State) : Host.Outcome State Fault Refusal :=
  fShadow (.fmulF32 c rnd o) s ff32 false o none 1 (fMulX ff32) (fMul ff32 rnd)
/-- FMA_F32 (R196). -/
def execFmaF32 (c : Ctl) (rnd : Rnd) (o : FBin) (vc : BitVec 8) (s : State) : Host.Outcome State Fault Refusal :=
  fShadow (.fmaF32 c rnd o vc) s ff32 false o (some vc) 1 (fFmaX ff32 rnd) (fFma ff32 rnd)
/-- FMIN_F32 (R197). -/
def execFminF32 (c : Ctl) (o : FBin) (s : State) : Host.Outcome State Fault Refusal :=
  fLanes (.fminF32 c o) s ff32 false o none (fMinMax ff32 false)
/-- FMAX_F32 (R197). -/
def execFmaxF32 (c : Ctl) (o : FBin) (s : State) : Host.Outcome State Fault Refusal :=
  fLanes (.fmaxF32 c o) s ff32 false o none (fMinMax ff32 true)
/-- FABS_F32 (R196). -/
def execFabsF32 (c : Ctl) (o : FUn) (s : State) : Host.Outcome State Fault Refusal :=
  fUnary (.fabsF32 c o) s ff32 false o (fAbs ff32)
/-- FNEG_F32 (R196). -/
def execFnegF32 (c : Ctl) (o : FUn) (s : State) : Host.Outcome State Fault Refusal :=
  fUnary (.fnegF32 c o) s ff32 false o (fNeg ff32)
/-- FCMP_F32 (R198). -/
def execFcmpF32 (c : Ctl) (cc : FCC) (kd : BitVec 3) (va : BitVec 8) (b : VSrc) (s : State) : Host.Outcome State Fault Refusal :=
  fCompare (.fcmpF32 c cc kd va b) s ff32 cc kd va b
/-- FCLASS_F32 (R199). -/
def execFclassF32 (c : Ctl) (o : FUn) (s : State) : Host.Outcome State Fault Refusal :=
  fUnary (.fclassF32 c o) s ff32 false o (fun a => (fClass ff32 a, 0))
/-- FADD_F64 (R196). -/
def execFaddF64 (c : Ctl) (rnd : Rnd) (o : FBin) (s : State) : Host.Outcome State Fault Refusal :=
  fLanes (.faddF64 c rnd o) s ff64 false o none (fAdd ff64 rnd)
/-- FSUB_F64 (R196). -/
def execFsubF64 (c : Ctl) (rnd : Rnd) (o : FBin) (s : State) : Host.Outcome State Fault Refusal :=
  fLanes (.fsubF64 c rnd o) s ff64 false o none (fSub ff64 rnd)
/-- FMUL_F64 (R196). -/
def execFmulF64 (c : Ctl) (rnd : Rnd) (o : FBin) (s : State) : Host.Outcome State Fault Refusal :=
  fLanes (.fmulF64 c rnd o) s ff64 false o none (fMul ff64 rnd)
/-- FMA_F64 (R196). -/
def execFmaF64 (c : Ctl) (rnd : Rnd) (o : FBin) (vc : BitVec 8) (s : State) : Host.Outcome State Fault Refusal :=
  fLanes (.fmaF64 c rnd o vc) s ff64 false o (some vc) (fFma ff64 rnd)
/-- FMIN_F64 (R197). -/
def execFminF64 (c : Ctl) (o : FBin) (s : State) : Host.Outcome State Fault Refusal :=
  fLanes (.fminF64 c o) s ff64 false o none (fMinMax ff64 false)
/-- FMAX_F64 (R197). -/
def execFmaxF64 (c : Ctl) (o : FBin) (s : State) : Host.Outcome State Fault Refusal :=
  fLanes (.fmaxF64 c o) s ff64 false o none (fMinMax ff64 true)
/-- FABS_F64 (R196). -/
def execFabsF64 (c : Ctl) (o : FUn) (s : State) : Host.Outcome State Fault Refusal :=
  fUnary (.fabsF64 c o) s ff64 true o (fAbs ff64)
/-- FNEG_F64 (R196). -/
def execFnegF64 (c : Ctl) (o : FUn) (s : State) : Host.Outcome State Fault Refusal :=
  fUnary (.fnegF64 c o) s ff64 true o (fNeg ff64)
/-- FCMP_F64 (R198). -/
def execFcmpF64 (c : Ctl) (cc : FCC) (kd : BitVec 3) (va : BitVec 8) (b : VSrc) (s : State) : Host.Outcome State Fault Refusal :=
  fCompare (.fcmpF64 c cc kd va b) s ff64 cc kd va b
/-- FCLASS_F64 (R199). -/
def execFclassF64 (c : Ctl) (o : FUn) (s : State) : Host.Outcome State Fault Refusal :=
  fUnary (.fclassF64 c o) s ff64 false o (fun a => (fClass ff64 a, 0))

/-- HADD2 (R200); BF16 is shadow-checked. -/
def execHadd2 (c : Ctl) (bf : Bool) (rnd : Rnd) (o : FBin) (s : State) : Host.Outcome State Fault Refusal :=
  fHalf (.hadd2 c bf rnd o) s bf o none (fAddX (halfFF bf) rnd) (fAdd (halfFF bf) rnd)
/-- HMUL2 (R200). -/
def execHmul2 (c : Ctl) (bf : Bool) (rnd : Rnd) (o : FBin) (s : State) : Host.Outcome State Fault Refusal :=
  fHalf (.hmul2 c bf rnd o) s bf o none (fMulX (halfFF bf)) (fMul (halfFF bf) rnd)
/-- HFMA2 (R200). -/
def execHfma2 (c : Ctl) (bf : Bool) (rnd : Rnd) (o : FBin) (vc : BitVec 8) (s : State) : Host.Outcome State Fault Refusal :=
  fHalf (.hfma2 c bf rnd o vc) s bf o (some vc) (fFmaX (halfFF bf) rnd) (fFma (halfFF bf) rnd)
/-- HMIN2 (R200). -/
def execHmin2 (c : Ctl) (bf : Bool) (o : FBin) (s : State) : Host.Outcome State Fault Refusal :=
  fLanes (.hmin2 c bf o) s (halfFF bf) true o none (packed (fMinMax (halfFF bf) false))
/-- HMAX2 (R200). -/
def execHmax2 (c : Ctl) (bf : Bool) (o : FBin) (s : State) : Host.Outcome State Fault Refusal :=
  fLanes (.hmax2 c bf o) s (halfFF bf) true o none (packed (fMinMax (halfFF bf) true))

/-! ## The H word (R121, R122, R153) -/

def HVOp.run (op : HVOp) (sgn : Bool) (a b : Nat) : Nat :=
  match op with
  | .vadd => iAdd 32 a b
  | .vsub => iSub 32 a b
  | .vmul => iMul 32 a b
  | .vand => iAnd 32 a b
  | .vor => iOr 32 a b
  | .vxor => iXor 32 a b
  | .vshl => iShl 32 a b
  | .vshr => if sgn then iShrS 32 a b else iShr 32 a b
  | .vsra => iSra 32 a b
  | .vmin => iMin sgn 32 a b
  | .vmax => iMax sgn 32 a b

def HFOp.run (op : HFOp) (rnd : Rnd) : FOp :=
  match op with
  | .fadd => fAdd ff32 rnd
  | .fsub => fSub ff32 rnd
  | .fmul => fMul ff32 rnd
  | .fmin => fMinMax ff32 false
  | .fmax => fMinMax ff32 true

def HSOp.run (op : HSOp) (a b : Nat) : Nat :=
  match op with
  | .sadd => iAdd 32 a b
  | .ssub => iSub 32 a b
  | .sand => iAnd 32 a b
  | .sor => iOr 32 a b
  | .sxor => iXor 32 a b
  | .sshl => iShl 32 a b
  | .sshr => iShr 32 a b

/-- Source b of a half in a lane. -/
def Agent.hsrc (a : Agent) (l : Nat) : HSrc → Nat
  | .v r => (a.v32 r.toNat l).toNat
  | .s r => (a.s32At r.toNat l).toNat
  | .imm i => i.toNat

/-- The exact value of a half's floating operation; minimum and maximum are not checked (R109). -/
def HFOp.exact (op : HFOp) (rnd : Rnd) : FX :=
  match op with
  | .fadd => fAddX ff32 rnd
  | .fsub => fSubX ff32 rnd
  | _ => fMulX ff32

/-- Whether a half's results are shadow-checked (R109). -/
def HalfOp.checked : HalfOp → Bool
  | .vf op _ _ _ => HFOp.rounds op
  | .vh _ bf _ _ _ => bf
  | _ => false

/-- Register writes, flags and shadow trap of one half (R153): its guard is GK, not negated. -/
def runHalf (s : State) (a : Agent) (h : Half) (u : Option (Nat × W64)) : List RegW × BitVec 6 × Option Trap :=
  let act := a.active false h.k
  match h.op with
  | .nop => ([], 0, none)
  | .vi op sgn d b =>
    let (ws, fl) := perLane false d act (fun l => (HVOp.run op sgn (a.v32 d.toNat l).toNat (a.hsrc l b), 0))
    (ws, fl, none)
  | .vf op rnd d b =>
    let r (l : Nat) : Nat × BitVec 6 := HFOp.run op rnd (a.v32 d.toNat l).toNat (a.hsrc l b) 0
    if HFOp.rounds op then shadowLanes s a ff32 1 (HFOp.exact op rnd) d act u (fun l => ((a.v32 d.toNat l).toNat, a.hsrc l b, 0)) r
    else
      let (ws, fl) := perLane false d act r
      (ws, fl, none)
  | .vh mul bf rnd d b =>
    let f := halfFF bf
    let op : FOp := packed (if mul then fMul f rnd else fAdd f rnd)
    let r (l : Nat) : Nat × BitVec 6 := op (a.v32 d.toNat l).toNat (a.v32 b.toNat l).toNat 0
    if bf then shadowLanes s a f 2 (if mul then fMulX f else fAddX f rnd) d act u (fun l => ((a.v32 d.toNat l).toNat, (a.v32 b.toNat l).toNat, 0)) r
    else
      let (ws, fl) := perLane false d act r
      (ws, fl, none)
  | .si op d b => (if act = 0 then [] else [.s d.toNat (BitVec.ofNat 32 (HSOp.run op (a.s32 d.toNat).toNat (a.hsrc 0 b)))], 0, none)
  | .kp op d b =>
    let x := match op with | .kand => a.k d.toNat &&& a.k b.toNat | .kor => a.k d.toNat ||| a.k b.toNat | .kxor => a.k d.toNat ^^^ a.k b.toNat
    ([.k d.toNat x act], 0, none)

/-- The fault input a half meets, where it is checked (log 9). -/
def State.halfUpset (s : State) (v : Agent) (h : Half) : Option (Nat × W64) :=
  if HalfOp.checked h.op then s.upsetAt v (v.active false h.k) else none

/-- H_WORD (R122): both halves read before either writes; a trap in either leaves both without effect. -/
def execHWord (ha hb : Half) (s : State) : Host.Outcome State Fault Refusal :=
  issue (.hWord ha hb) s (fun s v _ =>
    let ua := s.halfUpset v ha
    let ub := if ua.isSome then none else s.halfUpset v hb
    let (wa, fa, ta) := runHalf s v ha ua
    let (wb, fb, tb) := runHalf s v hb ub
    let s := s.upsetDone v (ua.or ub)
    match ta, tb with
    | some t, _ => .ok { s := s, trap := some t }
    | none, some t => .ok { s := s, trap := some { t with halfB := true } }
    | none, none => .ok { s := s, ws := wa ++ wb, fl := fa ||| fb })

end Sys2Proof.Machine
end

