-- ==== Sys2Proof/Machine/Sfu.lean ====
section
/-! DEFINITION. Special-function instructions (R201–R203). Within R202's bound the manual does not fix a result: it is the free
value `Config.sfuFree` wherever that value keeps the bound, and the rounded exact value otherwise (log 7). The exact value is
computed to 2^−200 in natural-number arithmetic; a slack of 2^−60 of the bound covers its error. -/

namespace Sys2Proof.Machine

/-- Fraction bits of the fixed-point values below. -/
def sfQ : Nat := 200

/-- ln 2, π/2 at 2^200 and 2/π at 2^400. -/
def ln2Fix : Nat := 0xb17217f7d1cf79abc9e3b39803f2f6af40f343267298b62d8a
def halfPiFix : Nat := 0x1921fb54442d18469898cc51701b839a252049c1114cf98e804
def twoOverPi : Nat := 0xa2f9836e4e441529fc2757d1f534ddc0db6295993c439041fe5163abdebbc561b7246e3a424dd2e006492eea09d1921cfe1d

/-- Integer square root of `n`, from bit `k` down. -/
def isqrt (k n : Nat) : Nat := ((List.range (k + 1)).reverse).foldl (fun r b => if (r + 2 ^ b) * (r + 2 ^ b) ≤ n then r + 2 ^ b else r) 0

/-- Product of fixed-point values. -/
def fxMul (a b : Nat) : Nat := a * b / 2 ^ sfQ

/-- Σ x^k/k! of a fixed-point x below 1. -/
def fxExp (x : Nat) : Nat :=
  ((List.range 60).foldl (fun (acc : Nat × Nat) k => (acc.1 + acc.2, fxMul acc.2 x / (k + 1))) (0, 2 ^ sfQ)).1

/-- atanh of a fixed-point z of at most 1/3. -/
def fxAtanh (z : Nat) : Nat :=
  ((List.range 70).foldl (fun (acc : Nat × Nat) k => (acc.1 + acc.2 / (2 * k + 1), fxMul acc.2 (fxMul z z))) (0, z)).1

/-- sin (odd) or cos of a fixed-point r of at most π/4. -/
def fxTrig (odd : Bool) (r : Nat) : Nat :=
  let r2 := fxMul r r
  let start := if odd then r else 2 ^ sfQ
  (((List.range 25).foldl (fun (acc : Int × Nat) k =>
    let d := if odd then (2 * k + 2) * (2 * k + 3) else (2 * k + 1) * (2 * k + 2)
    (if k % 2 = 0 then acc.1 + acc.2 else acc.1 - acc.2, fxMul acc.2 r2 / d)) (0, start)).1).toNat

/-- Exact values of the functions at ±m·2^e, as ±m'·2^e' to 2^−200 (R202). -/
def sfRcp (neg : Bool) (m : Nat) (e : Int) : Ex := .fin neg (2 ^ 240 / m) (-240 - e)

def sfRsq (m : Nat) (e : Int) : Ex :=
  let (m, e) := if e % 2 = 0 then (m, e) else (2 * m, e - 1)
  .fin false (isqrt 215 (2 ^ 430 / m)) (-215 - e / 2)

/-- Square root with a sticky bit below its last one. -/
def sfSqrt (m : Nat) (e : Int) : Ex :=
  let (m, e) := if e % 2 = 0 then (m, e) else (2 * m, e - 1)
  let r := isqrt 120 (m * 2 ^ 200)
  .fin false (2 * r + if r * r = m * 2 ^ 200 then 0 else 1) (e / 2 - 101)

/-- ±m·2^e as a fixed-point integer, rounded down. -/
def toFix (neg : Bool) (m : Nat) (e : Int) : Int := signed neg m * pow2 (e + sfQ) / pow2 (-(e + sfQ))

def sfExp2 (neg : Bool) (m : Nat) (e : Int) : Ex :=
  let z := toFix neg m e
  let n := z / 2 ^ sfQ
  .fin false (fxExp (fxMul (z % 2 ^ sfQ).toNat ln2Fix)) (n - sfQ)

def sfLog2 (m : Nat) (e : Int) : Ex :=
  let t := Nat.log2 m
  let z := (m - 2 ^ t) * 2 ^ sfQ / (m + 2 ^ t)
  let frac := 2 * fxAtanh z * 2 ^ sfQ / ln2Fix
  let v : Int := ((t : Int) + e) * 2 ^ sfQ + frac
  .fin (decide (v < 0)) v.natAbs (-(sfQ : Int))

/-- sin and cos by quadrants of π/2 (R202: every finite x). -/
def sfTrig (isCos neg : Bool) (m : Nat) (e : Int) : Ex :=
  let p := if 0 ≤ e then m * twoOverPi * pow2 e else m * twoOverPi
  let sh := if 0 ≤ e then 400 else 400 + (-e).toNat
  let q := p / 2 ^ sh
  let frac := p % 2 ^ sh * 2 ^ sfQ / 2 ^ sh
  let r := fxMul frac halfPiFix
  let big := decide (2 ^ (sfQ - 1) < frac)
  let r' := if big then fxMul (2 ^ sfQ - frac) halfPiFix else r
  let k := if isCos then (q + 1) % 4 else q % 4
  let v := if k % 2 = 0 then (if big then fxTrig false r' else fxTrig true r') else (if big then fxTrig true r' else fxTrig false r')
  .fin ((decide (2 ≤ k)) != (neg && !isCos)) v (-(sfQ : Int))

def sfTanh (neg : Bool) (m : Nat) (e : Int) : Ex :=
  if (Nat.log2 m : Int) + e < -12 then
    -- x − x³/3 + 2x⁵/15 over a scale of the input's own
    let x := m * 2 ^ 120
    let u := pow2 (-(e - 120))
    let x3 := x * x / u * x / u
    let x5 := x3 * x / u * x / u
    .fin neg (x - x3 / 3 + 2 * x5 / 15) (e - 120)
  else if 5 ≤ (Nat.log2 m : Int) + e then .fin neg (2 ^ sfQ - 1) (-(sfQ : Int))
  else
    let z := (2 * toFix false m e).toNat * 2 ^ sfQ / ln2Fix
    let big := fxExp (fxMul (z % 2 ^ sfQ) ln2Fix) * 2 ^ (z / 2 ^ sfQ)
    .fin neg ((big - 2 ^ sfQ) * 2 ^ sfQ / (big + 2 ^ sfQ)) (-(sfQ : Int))

/-- Whether ±my·2^ey lies within `2^b·k` of ±mv·2^ev, less the slack. -/
def within (ny : Bool) (my : Nat) (ey : Int) (nv : Bool) (mv : Nat) (ev : Int) (k : Nat) (b : Int) : Bool :=
  let q := min (min ey ev) (b - 60)
  let d := signed ny (my * pow2 (ey - q)) - signed nv (mv * pow2 (ev - q))
  decide (d.natAbs + k * pow2 (b - 60 - q) ≤ k * pow2 (b - q))

/-- The bound of R202 at the exact value: `k·2^b`. -/
def sfBound (fn : Nat) (x : Nat × Int) (mv : Nat) (ev : Int) : Nat × Int :=
  let ulp : Int := max ((Nat.log2 mv : Int) + ev - 23) (-149)
  match fn with
  | 0 | 1 => (1, ulp)
  | 4 => if geDy x.1 x.2 1 (-1) && geDy 2 0 x.1 x.2 then (1, -22) else (2, ulp)
  | 5 | 6 => (1, -22)
  | _ => (2, ulp)

/-- A result below 2^−126 in magnitude is zero of its sign (R201). -/
def ftz (y : Nat) : Nat := if y % 2 ^ 31 < 2 ^ 23 then y / 2 ^ 31 * 2 ^ 31 else y

/-- The result at an ordinary input: exact where R202 says so, else the free value if it is finite, zero or normal, and keeps the
bound, else the rounded exact value; an exact value below 2^−126 gives zero (R201). -/
def sfResult (fn : Nat) (x : W32) (xm : Nat × Int) (exact : Bool) (v : Ex) : Nat :=
  match v with
  | .fin nv mv ev =>
    let round := ftz (roundTo ff32 v .rn false 0).1
    let free := (Config.sfuFree fn x).toNat
    if exact || fn == 2 then round
    else if mv = 0 then (if fn = 5 ∨ fn = 6 then round else 0)
    else if (fn ≠ 5 ∧ fn ≠ 6) && !geDy mv ev 1 (-126) then round
    else match ff32.value free with
      | .fin ny my ey =>
        let (k, b) := sfBound fn xm mv ev
        if free = ftz free && within ny my ey nv mv ev k b then free else round
      | _ => round
  | _ => 0

def isPow2 (m : Nat) : Bool := m == 2 ^ Nat.log2 m

/-- A special function of a pattern (R201–R203): functions 0 frcp, 1 frsq, 2 fsqrt, 3 fexp2, 4 flog2, 5 fsin, 6 fcos, 7 ftanh. -/
def sfu (fn : Nat) (x : Nat) : Nat × BitVec 6 :=
  let pinf := 0x7F800000
  let ninf := 0xFF800000
  let nan := 0x7FC00000
  let one := 0x3F800000
  let x := ftz x
  match ff32.value x with
  | .nan sig => (nan, flIf sig flNV)
  | .inf neg =>
    match fn with
    | 0 => (if neg then 0x80000000 else 0, 0)
    | 1 => if neg then (nan, flNV) else (0, 0)
    | 2 | 4 => if neg then (nan, flNV) else (pinf, 0)
    | 3 => (if neg then 0 else pinf, 0)
    | 5 | 6 => (nan, flNV)
    | _ => (if neg then 0xBF800000 else one, 0)
  | .fin neg 0 _ =>
    match fn with
    | 0 | 1 => (if neg then ninf else pinf, flDZ)
    | 4 => (ninf, flDZ)
    | 3 | 6 => (one, 0)
    | _ => (x, 0)
  | .fin neg m e =>
    let r (exact : Bool) (v : Ex) : Nat × BitVec 6 := (sfResult fn (BitVec.ofNat 32 x) (m, e) exact v, 0)
    match fn with
    | 0 => r (isPow2 m) (sfRcp neg m e)
    | 1 => if neg then (nan, flNV) else r (isPow2 m && ((Nat.log2 m : Int) + e) % 2 == 0) (sfRsq m e)
    | 2 => if neg then (nan, flNV) else r true (sfSqrt m e)
    | 3 =>
      if !neg && geDy m e 1 7 then (pinf, 0)
      else if neg && !geDy 126 0 m e then (0, 0)
      else r (e ≥ 0 || m % pow2 (-e) == 0) (sfExp2 neg m e)
    | 4 => if neg then (nan, flNV) else r (isPow2 m) (sfLog2 m e)
    | 5 => r false (sfTrig false neg m e)
    | 6 => r false (sfTrig true neg m e)
    | _ => r false (sfTanh neg m e)

/-- A special-function instruction. -/
def sfLanes (i : Instr) (s : State) (fn : Nat) (o : FUn) : Host.Outcome State Fault Refusal := fUnary i s ff32 false o (sfu fn)

/-- FRCP (R202). -/
def execFrcp (c : Ctl) (o : FUn) (s : State) : Host.Outcome State Fault Refusal := sfLanes (.frcp c o) s 0 o
/-- FRSQ (R202). -/
def execFrsq (c : Ctl) (o : FUn) (s : State) : Host.Outcome State Fault Refusal := sfLanes (.frsq c o) s 1 o
/-- FSQRT (R202). -/
def execFsqrt (c : Ctl) (o : FUn) (s : State) : Host.Outcome State Fault Refusal := sfLanes (.fsqrt c o) s 2 o
/-- FEXP2 (R202). -/
def execFexp2 (c : Ctl) (o : FUn) (s : State) : Host.Outcome State Fault Refusal := sfLanes (.fexp2 c o) s 3 o
/-- FLOG2 (R202). -/
def execFlog2 (c : Ctl) (o : FUn) (s : State) : Host.Outcome State Fault Refusal := sfLanes (.flog2 c o) s 4 o
/-- FSIN (R202). -/
def execFsin (c : Ctl) (o : FUn) (s : State) : Host.Outcome State Fault Refusal := sfLanes (.fsin c o) s 5 o
/-- FCOS (R202). -/
def execFcos (c : Ctl) (o : FUn) (s : State) : Host.Outcome State Fault Refusal := sfLanes (.fcos c o) s 6 o
/-- FTANH (R202). -/
def execFtanh (c : Ctl) (o : FUn) (s : State) : Host.Outcome State Fault Refusal := sfLanes (.ftanh c o) s 7 o

end Sys2Proof.Machine
end

