-- ==== Sys2Proof/Machine/Remote.lean ====
section
/-! DEFINITION. Requests that leave the package, at the core that sends them: request slots, landing lines, tags, waiting and sending
(R230, R425, R433, R498–R500, R515). -/

namespace Sys2Proof.Machine

/-- What a package sends to a peer: `typ` 1 a remote atomic, 2 its answer, 3 a fence notice, 4 a request for a frame again, 5 a drain
request, 6 a rejoin notice, 7 a credit, 8 a release, 9 a request for a line, 10 a drain acknowledgement. -/
def State.peerOut (s : State) (pkg typ seq status : Nat) (bs : List Byte) : Out :=
  { chan := 2 + pkg, typ := typ, session := 0, seq := seq, status := status, payload := bs, port := s.syncPort pkg }

/-- The number of an atomic operation (R227). -/
def aopCode : AOp → Nat
  | .add => 0 | .sub => 1 | .minU => 2 | .maxU => 3 | .minS => 4 | .maxS => 5 | .and => 6 | .or => 7 | .xor => 8 | .exch => 9 | .cas => 10
  | .faddF32 => 11 | .faddBf2 => 12

/-- Bytes of a remote atomic: tag, operation, T0, address, operands (R230). -/
def Req.bytes (q : Req) : List Byte :=
  leBytes 2 q.tag ++ leBytes 1 (aopCode q.op) ++ leBytes 1 (if q.w64 then 8 else 4) ++ leBytes 8 q.t0 ++ leBytes 8 q.pa ++ leBytes 8 q.b.toNat ++ leBytes 8 q.c.toNat

/-- What a request goes out as, `status` telling the home it is sent to again (R388, R498). -/
def State.reqOut (s : State) (q : Req) (status : Nat) : Out :=
  match q.kind with
  | .atomic => s.peerOut q.pkg 1 q.tag status q.bytes
  | .line => s.peerOut q.pkg 9 q.tag status (leBytes 2 q.tag ++ leBytes 8 q.t0 ++ leBytes 8 q.pa)

/-- A core's record of the tags it sent to the home of an address (R230). -/
def State.tagKey (s : State) (ck pa : Nat) : Nat := ck * 2 ^ 14 + paPkg pa * 64 + s.homeOf pa

/-- Whether a core has sent fewer than 4,096 tags to the home of an address in the last 1 ms (R230). -/
def State.tagFree (s : State) (ck pa : Nat) : Bool := decide ((tget s.recent (s.tagKey ck pa)).length < 4096)

/-- Whether a request keeps its agent at its word: a lane of an `atom`, a line of a load, or a lane of a `red` that has not left (R230, R433,
R515). -/
def Req.holds (q : Req) (key : Nat) : Bool := q.agent == key && q.fail == 0 && (q.dst.isSome || q.kind == .line || q.sends == 0)

/-- An agent that no request keeps goes on at the word it waits at. -/
def State.wakeAgent (s : State) (key : Nat) : State :=
  let a := s.ag key
  if a.live ∧ a.wait = .remote ∧ !(s.reqs.any (fun q => q.holds key)) then
    s.setAg key { a with wait := .none, ready := max a.ready (s.cycle + 1), since := s.cycle + 1 }
  else s

/-- Send a waiting request of a core: the core's next tag, T0 now, one more tag of its home in use, a request slot and a landing line
taken (R230, R433). -/
def State.launchReq (s : State) (q : Req) : State :=
  let ck := coreKey q.die q.core
  let tag := tget s.tags ck
  let hk := s.tagKey ck q.pa
  let now := s.ptbAt q.die
  let c := s.co ck
  let q' : Req := { q with tag := tag, t0 := now, sends := 1 }
  let s := s.setCo ck { c with slots := tput c.slots q.pkg (tget c.slots q.pkg + 1), landing := c.landing + 1 }
  let s : State := { s with
    tags := tput s.tags ck ((tag + 1) % 65536)
    recent := tput s.recent hk (tget s.recent hk ++ [now])
    reqs := s.reqs.map (fun x => if x.id = q.id ∧ x.lane = q.lane then q' else x)
    out := s.out ++ [s.reqOut q' 0] }
  if q.kind = .atomic ∧ q.dst.isNone then s.wakeAgent q.agent else s

/-- Whether a core may send a request toward a package now (R433). -/
def State.slotFree (s : State) (ck p : Nat) : Bool := decide (tget (s.co ck).slots p < 8) && decide ((s.co ck).landing < 128)

/-- Whether a request may leave now: it has a slot and landing space, and an atomic a tag (R230, R433); new traffic to a package that asks for its
routes to be drained is held (R460). -/
def State.mayLaunch (s : State) (q : Req) : Bool :=
  s.slotFree (coreKey q.die q.core) q.pkg && !s.draining.contains q.pkg && (q.kind == .line || s.tagFree (coreKey q.die q.core) q.pa)

/-- Whether a request waits for a slot or for landing space. -/
def Req.waiting (q : Req) : Bool := q.sends == 0 && q.fail == 0

/-- A request enters the core's requests, sent at once when the core holds what it needs and none waits before it (R433, R499). -/
def State.addReq (s : State) (q : Req) : State :=
  let older := s.reqs.any (fun x => x.waiting && x.die == q.die && x.core == q.core && x.pkg == q.pkg)
  let s := { s with nextReq := s.nextReq + 1, reqs := s.reqs ++ [q] }
  if s.mayLaunch q && !older then s.launchReq q else s


/-- Agents that wait to send toward another package try again. -/
def State.wakeRemote (s : State) (ck : Nat) : State :=
  { s with agents := s.agents.map (fun (p : Nat × Agent) =>
      if p.2.live ∧ p.2.ck = ck ∧ p.2.wait = Wait.remote ∧ !(s.reqs.any (fun q => q.holds p.1)) then
        (p.1, { p.2 with wait := .none, ready := max p.2.ready s.cycle })
      else p) }

/-- A request's landing line is free again; where all 128 were in use, what waited for one goes on (R433). -/
def State.landReq (s : State) (q : Req) : State :=
  let ck := coreKey q.die q.core
  let c := s.co ck
  if q.sends = 0 then s
  else
    let s := s.setCo ck { c with landing := c.landing - 1 }
    if c.landing < 128 then s
    else
      let s := (s.reqs.filter (fun x => x.waiting && x.die == q.die && x.core == q.core)).foldl (fun s x => if s.mayLaunch x then s.launchReq x else s) s
      s.wakeRemote ck

/-- Requests are forgotten with the agents that sent them; a response that arrives later is discarded (R425). -/
def State.dropReqs (s : State) (f : Req → Bool) : State :=
  let qs := s.reqs.filter (fun q => f q && q.fail == 0)
  let s : State := { s with reqs := s.reqs.filter (fun q => !f q) }
  qs.foldl (fun s q => s.landReq q) s

/-- Whether an agent of a team has a request that has not ended. -/
def State.teamOwes (s : State) (team : Nat) : Bool := s.reqs.any (fun q => q.fail == 0 && (s.ag q.agent).team == team)

end Sys2Proof.Machine
end

