-- ==== Sys2Proof/Machine/MemInstr.lean ====
section
/-! DEFINITION. Loads, stores, line operations, atomics and fences (R215–R232), with the requests a remote atomic leaves behind
(R230, R231, R433). -/

namespace Sys2Proof.Machine

/-- The trap of an aborted load (R218). -/
def loadTrap (ab : Abort) (lane : Nat) (ea : W64) : Trap :=
  { cause := if ab = .mismatch then .classMismatch else .dataAbort, lane := lane, addr := ea }

/-- Perform a read in every lane of a list of spots: the values, or the lowest lane that aborts (R218). -/
def State.loadLanes (s : State) (key n : Nat) (hint : Hint) : List (Nat × W64 × Spot) → Except (Abort × Nat × W64) (List (Nat × Nat)) × State
  | [] => (.ok [], s)
  | (l, ea, sp) :: rest =>
    match s.loadSpot key ea sp n hint with
    | (.error e, s) => (.error (e, l, ea), s)
    | (.ok x, s) =>
      match s.loadLanes key n hint rest with
      | (.ok xs, s) => (.ok ((l, x) :: xs), s)
      | r => r

/-- The registers a load of `k` words writes (R14, R219). -/
def wLoad (k : Nat) (d : Nat) (xs : List (Nat × Nat)) : List RegW :=
  (List.range k).map (fun j => .v (d + j) (xs.map (fun p => (p.1, BitVec.ofNat 32 (p.2 / 2 ^ (32 * j))))))

/-- The acquire of a load or atomic that has one (R220, R229). -/
def State.acqOpt (s : State) (key : Nat) (o : Option Scope) : State := match o with | none => s | some sc => s.acquireAt key sc

/-- An agent that cannot go on before another package has answered, or that cannot send toward it, stays at its word (R230, R433). -/
def State.holdRemote (s : State) (key : Nat) : Done := { s := s.setAg key { s.ag key with wait := .remote }, gone := true }

/-- Whether an agent has a request in another package that has not ended. -/
def State.owes (s : State) (key : Nat) : Bool := s.reqs.any (fun q => q.agent == key && q.fail == 0)

/-- The store-abort check of R218, of a fence, release or arrival: the trap, with the bit cleared; and, of a word that releases, the wait
for the acknowledgements of the agent's earlier `red`s (R232). -/
def State.abortCheck (s : State) (key : Nat) (rel : Bool) : Option Done :=
  let a := s.ag key
  if a.storeAbort then some { s := s.setAg key { a with storeAbort := false }, trap := some { cause := .storeAbort } }
  else if rel && s.owes key then some (s.holdRemote key)
  else none

/-- A word that accesses memory or places work comes after its agent's earlier atomics, those in other packages among them: it waits for their
acknowledgements (R220, R334). -/
def afterAtoms (s : State) (r : Except Trap Done) : Except Trap Done := if s.owes s.cur then .ok (s.holdRemote s.cur) else r

/-- Whether a load of `n` bytes at a spot finds them all in the agent's own queue, and so makes no access (R220). -/
def Agent.queued (v : Agent) (n : Nat) (sp : Spot) : Bool :=
  match sp with
  | .at p cls => cls != .sc && (List.range n).all (fun i => (fwdByte v.sq p i).isSome)
  | _ => false

/-- Lines homed in other packages that a word's spots miss in the agent's store queue, the core's L1 and the die's L2 and that have not come,
each once, in ascending order of the lowest lane (R220, R498, R515). -/
def State.remoteMisses (s : State) (v : Agent) (n : Nat) (sp : List (Nat × W64 × Spot)) : List Nat :=
  (sp.filterMap (fun p => match p.2.2 with
    | .at (.phys pa) cls =>
      if paPkg pa ≠ Config.pkg ∧ (s.homeAbort (pa / 128) cls).isNone ∧ !v.queued n p.2.2 ∧ !s.holds v.die (pa / 128) cls (maskAt (pa % 128) n) ∧
          (s.l1? v.ck (pa / 128) cls).isNone ∧ !v.arrived.any (fun x => x.1 == pa / 128)
      then some (pa / 128) else none
    | _ => none)).eraseDups

/-- The package of a line. -/
def linePkg (l : Nat) : Nat := paPkg (128 * l)

/-- Ask for a line of another package: one request, sent or waiting for a request slot (R433, R498). -/
def State.askLine (s : State) (key : Nat) (v : Agent) (l : Nat) : State :=
  if s.reqs.any (fun q => q.holds key && q.kind == .line && q.pa == 128 * l) then s
  else s.addReq {
    kind := .line, id := s.nextReq, agent := key, lane := 0, pkg := linePkg l, die := v.die, core := v.core, tag := 0,
    t0 := 0, sends := 0, pa := 128 * l, va := 0, w64 := true, op := .add, b := 0, c := 0, dst := none, fail := 0 }

/-- A load asks for the lines it misses and stays at its word until all have come (R435, R498, R515). -/
def State.askLines (s : State) (key : Nat) (v : Agent) (ls : List Nat) : Done := (ls.foldl (fun s l => s.askLine key v l) s).holdRemote key

/-- Whether the line of a spot was asked for and its request aborted (R218, R425). -/
def Agent.lost (v : Agent) (sp : Spot) : Bool :=
  match sp with | .at (.phys pa) _ => v.arrived.contains (pa / 128, false) | _ => false

/-- Read in every lane once no line is missing; the lowest lane that aborts is named, be it at its home or on the way (R218). -/
def State.loadGot (s : State) (key : Nat) (v : Agent) (n : Nat) (hint : Hint) (sp : List (Nat × W64 × Spot)) :
    Except (Abort × Nat × W64) (List (Nat × Nat)) × State :=
  let forget (s : State) : State := s.setAg key { s.ag key with arrived := [] }
  match s.loadLanes key n hint (sp.takeWhile (fun p => !v.lost p.2.2)) with
  | (.error e, s) => (.error e, forget s)
  | (.ok xs, s) =>
    match sp.find? (fun p => v.lost p.2.2) with
    | some p => (.error (.timeout, p.1, p.2.1), forget s)
    | none => (.ok xs, s)

/-- LD of `n` bytes (R216–R222): lines that only another package holds are asked for first (R498, R515). -/
def runLoad (i : Instr) (s : State) (n : Nat) (o : MemOp) : Host.Outcome State Fault Refusal :=
  issue i s (fun s v act => afterAtoms s (
    let key := s.cur
    match s.laneChecks v ((lanesOf act).map (fun l => (l, v.ea o.addr l))) n .read with
    | (.error st, s) => .ok { s := s, trap := some (stopTrap .read st) }
    | (.ok sp, s) =>
      let miss := s.remoteMisses v n sp
      if !miss.isEmpty then .ok (s.askLines key v miss)
      else match s.loadGot key v n o.hint sp with
      | (.error (e, l, ea), s) => .ok { s := s, trap := some (loadTrap e l ea) }
      | (.ok xs, s) => .ok { s := s.acqOpt key o.ord, ws := wLoad (max 1 (n / 4)) o.d.toNat xs }))

/-- The low bytes of a store's data in a lane (R219). -/
def Agent.storeData (v : Agent) (n d l : Nat) : Nat :=
  (List.range (max 1 (n / 4))).foldl (fun x j => x + (v.v32 (d + j) l).toNat * 2 ^ (32 * j)) 0 % 2 ^ (8 * n)

/-- ST of `n` bytes (R216–R222): `.rel` checks and releases before any lane's store leaves. -/
def runStore (i : Instr) (s : State) (n : Nat) (o : MemOp) : Host.Outcome State Fault Refusal :=
  issue i s (fun s v act =>
    let key := s.cur
    match (if o.ord.isSome then s.abortCheck key true else none) with
    | some d => .ok d
    | none => afterAtoms s (
      match s.laneChecks v ((lanesOf act).map (fun l => (l, v.ea o.addr l))) n .write with
      | (.error st, s) => .ok { s := s, trap := some (stopTrap .write st) }
      | (.ok sp, s) =>
        let s := match o.ord with | none => s | some sc => s.release key sc
        .ok { s := sp.foldl (fun s p => s.pushStore key p.2.1 p.2.2 n (v.storeData n o.d.toNat p.1) o.hint) s }))

/-- LDU (R219): one address, one value. -/
def runLdu (i : Instr) (s : State) (n : Nat) (o : LduOp) : Host.Outcome State Fault Refusal :=
  issue i s (fun s v act => afterAtoms s (
    let key := s.cur
    match s.laneChecks v [((lanesOf act).headD 0, v.s64 o.base.toNat + Off.val o.off)] n .read with
    | (.error st, s) => .ok { s := s, trap := some (stopTrap .read st) }
    | (.ok sp, s) =>
      let miss := s.remoteMisses v n sp
      if !miss.isEmpty then .ok (s.askLines key v miss)
      else match s.loadGot key v n .none sp with
      | (.error (e, l, ea), s) => .ok { s := s, trap := some (loadTrap e l ea) }
      | (.ok xs, s) => .ok { s := s.acqOpt key o.ord, ws := wS (n == 8) o.d (BitVec.ofNat 64 (xs.headD (0, 0)).2) }))

/-- LD_B8 (R219). -/
def execLdB8 (c : Ctl) (o : MemOp) (s : State) : Host.Outcome State Fault Refusal := runLoad (.ldB8 c o) s 1 o
/-- LD_B16 (R219). -/
def execLdB16 (c : Ctl) (o : MemOp) (s : State) : Host.Outcome State Fault Refusal := runLoad (.ldB16 c o) s 2 o
/-- LD_B32 (R219). -/
def execLdB32 (c : Ctl) (o : MemOp) (s : State) : Host.Outcome State Fault Refusal := runLoad (.ldB32 c o) s 4 o
/-- LD_B64 (R219). -/
def execLdB64 (c : Ctl) (o : MemOp) (s : State) : Host.Outcome State Fault Refusal := runLoad (.ldB64 c o) s 8 o
/-- LD_B128 (R219). -/
def execLdB128 (c : Ctl) (o : MemOp) (s : State) : Host.Outcome State Fault Refusal := runLoad (.ldB128 c o) s 16 o
/-- ST_B8 (R219). -/
def execStB8 (c : Ctl) (o : MemOp) (s : State) : Host.Outcome State Fault Refusal := runStore (.stB8 c o) s 1 o
/-- ST_B16 (R219). -/
def execStB16 (c : Ctl) (o : MemOp) (s : State) : Host.Outcome State Fault Refusal := runStore (.stB16 c o) s 2 o
/-- ST_B32 (R219). -/
def execStB32 (c : Ctl) (o : MemOp) (s : State) : Host.Outcome State Fault Refusal := runStore (.stB32 c o) s 4 o
/-- ST_B64 (R219). -/
def execStB64 (c : Ctl) (o : MemOp) (s : State) : Host.Outcome State Fault Refusal := runStore (.stB64 c o) s 8 o
/-- ST_B128 (R219). -/
def execStB128 (c : Ctl) (o : MemOp) (s : State) : Host.Outcome State Fault Refusal := runStore (.stB128 c o) s 16 o
/-- LDU_B32 (R219). -/
def execLduB32 (c : Ctl) (o : LduOp) (s : State) : Host.Outcome State Fault Refusal := runLdu (.lduB32 c o) s 4 o
/-- LDU_B64 (R219). -/
def execLduB64 (c : Ctl) (o : LduOp) (s : State) : Host.Outcome State Fault Refusal := runLdu (.lduB64 c o) s 8 o

/-! ## Line operations (R224–R226) -/

/-- Bring the line of one spot into the L2 and, without a hint, the L1, if nothing stands against it (R224); a hint acts in the global aperture
alone (R221). -/
def State.prefetchSpot (s : State) (key : Nat) (hint : Hint) (ap : Aper) (sp : Except Stop Spot) : State :=
  let hint := if ap = .global then hint else .none
  match sp with
  | .ok (.at (.phys pa) cls) =>
    let a := s.ag key
    let l := pa / 128
    if (s.homeAbort l cls).isSome || !caches a.die then s
    else
      let s := if s.holds a.die l cls fullMask then s else s.fetchLine a.die l cls hint
      if hint = .none then (s.readLine a.die a.core l cls fullMask .none).2 else s
  | _ => s

/-- PREFETCH (R224): a lane that meets a condition is dropped. -/
def execPrefetch (c : Ctl) (h : Hint) (m : MemAddr) (s : State) : Host.Outcome State Fault Refusal :=
  issue (.prefetch c h m) s (fun s v act => afterAtoms s (
    .ok { s := (lanesOf act).foldl (fun s l =>
      let r := s.spotOf v l (v.ea m l) .read
      r.2.prefetchSpot s.cur h (aperOf (v.ea m l)) r.1) s }))

/-- CLEAN and INVAL (R225): one store-queue entry for each active lane's line in the global aperture. -/
def runLineOp (i : Instr) (s : State) (k : SqKind) (m : MemAddr) : Host.Outcome State Fault Refusal :=
  issue i s (fun s v act => afterAtoms s (
    let key := s.cur
    let eas := (lanesOf act).map (fun l => (l, v.ea m l))
    match eas.find? (fun e => aperOf e.2 == .bad) with
    | some e => .ok { s := s, trap := some (stopTrap .read (.addr, e.1, e.2)) }
    | none =>
      match s.laneChecks v (eas.filter (fun e => aperOf e.2 == .global)) 1 .read with
      | (.error st, s) => .ok { s := s, trap := some (stopTrap .read st) }
      | (.ok sp, s) =>
        .ok { s := sp.foldl (fun s p => match p.2.2 with
          | .at (.phys pa) cls =>
            let a := s.ag key
            s.setAg key { a with sq := a.sq ++ [{ kind := k, place := .phys pa, cls := cls, n := 0, data := 0, va := p.2.1 }] }
          | .aborted e => s.storeAbort key p.2.1.toNat e.cause
          | _ => s) s }))

/-- CLEAN (R225). -/
def execClean (c : Ctl) (m : MemAddr) (s : State) : Host.Outcome State Fault Refusal := runLineOp (.clean c m) s .clean m
/-- INVAL (R225). -/
def execInval (c : Ctl) (m : MemAddr) (s : State) : Host.Outcome State Fault Refusal := runLineOp (.inval c m) s .inval m

/-- Stores of 128 zero bytes, 16 at a time, each translated by itself. -/
def State.zeroBytes (s : State) (key : Nat) (v : Agent) (lane : Nat) (ea : W64) : State :=
  (List.range 8).foldl (fun s i =>
    let e := ea + BitVec.ofNat 64 (16 * i)
    match s.spotOf v lane e .write with
    | (.ok p, s) => s.pushStore key e p 16 0 .none
    | (.error _, s) => s) s

/-- The checks of a `lineset`'s lanes (R217), each piece of 16 bytes translated by itself: a line of a thread's stack may lie on two pages, and may
end beyond the allocation (R41, R511). The spots are those of the lanes' first bytes; a trap names its lane's address. -/
def State.linesetChecks (s : State) (v : Agent) (eas : List (Nat × W64)) : Except (Stop × Nat × W64) (List (Nat × W64 × Spot)) × State :=
  match eas.find? (fun e => addrBad s v e.2 .write) with
  | some e => (.error (.addr, e.1, e.2), s)
  | none =>
    match eas.find? (fun e => e.2.toNat % 128 != 0) with
    | some e => (.error (.align, e.1, e.2), s)
    | none =>
      match s.laneChecks v (eas.flatMap (fun e => (List.range 8).map (fun i => (e.1, e.2 + BitVec.ofNat 64 (16 * i))))) 16 .write with
      | (.error (st, l, ea), s) => (.error (st, l, ea &&& ~~~ 0x7F#64), s)
      | (.ok sp, s) => (.ok (sp.filter (fun x => x.2.1.toNat % 128 == 0)), s)

/-- Place the 128 zero bytes of one lane: one whole-line entry where they are a line of physical memory within the allocation, stores of 8 bytes
elsewhere (R41, R226; log 86). -/
def State.pushLineset (s : State) (key : Nat) (v : Agent) (lane : Nat) (ea : W64) (sp : Spot) : State :=
  match sp with
  | .at (.phys pa) cls =>
    if pa % 128 = 0 ∧ (aperOf ea ≠ .stack ∨ aperOff ea + 128 ≤ (s.teamOf v).stack) then
      let a := s.ag key
      s.setAg key { a with sq := a.sq ++ [{ kind := .lineset, place := .phys pa, cls := cls, n := 128, data := 0, va := ea }] }
    else s.zeroBytes key v lane ea
  | .aborted e => s.storeAbort key ea.toNat e.cause
  | _ => s.zeroBytes key v lane ea

/-- The lanes of a `lineset` that write: those that name a line no lower lane names (R226). -/
def firstOf (xs : List (Nat × W64 × Spot)) : List (Nat × W64 × Spot) :=
  xs.foldl (fun acc x => if acc.any (fun y => y.2.1 == x.2.1) && aperOf x.2.1 != .stack then acc else acc ++ [x]) []

/-- LINESET (R226). -/
def execLineset (c : Ctl) (m : MemAddr) (s : State) : Host.Outcome State Fault Refusal :=
  issue (.lineset c m) s (fun s v act => afterAtoms s (
    match s.linesetChecks v ((lanesOf act).map (fun l => (l, v.ea m l))) with
    | (.error st, s) => .ok { s := s, trap := some (stopTrap .write st) }
    | (.ok sp, s) => .ok { s := (firstOf sp).foldl (fun s p => s.pushLineset s.cur v p.1 p.2.1 p.2.2) s }))

/-! ## Atomics (R227–R231) -/

/-- How a lane of an atomic ends. -/
inductive AtRes
  | val (m : Nat)
  | fail (code : Nat)
  | pending
deriving DecidableEq, Repr

/-- The failure code of an abort (R218, R228); code 2 is INDETERMINATE (R230). -/
def Abort.failCode : Abort → Nat
  | .data => 1
  | .timeout => 5
  | .mismatch => 3
  | .pvOwner => 4

/-- The cause of a failure code. -/
def failCause : Nat → Cause
  | 2 => .atomIndeterminate
  | 3 => .classMismatch
  | 4 => .classIllegal
  | _ => .dataAbort

/-- The cause of the store abort a failed `red` leaves (R218, R231). -/
def redCause (k : Nat) : Cause := if k = 5 then .timeout else failCause k

/-- The acquire part of an atomic's ordering (R229). -/
def atomAcq : Option (AOrd × Scope) → Option Scope
  | some (.acq, sc) | some (.ar, sc) => some sc
  | _ => none

/-- Copies of a line on this package's dies go home before an atomic is performed there: of an SC line all of them, of another class those of
the issuing die (R228, R349). -/
def State.sendHome (s : State) (die l : Nat) (cls : PClass) : State :=
  match cls with
  | .sc => s.recallLine l
  | .pv => s
  | _ => (s.settle l settleFuel).dropLine die l

/-- A remote atomic of a lane: sent, or waiting for a request slot with `sends` 0 (R230, R433, R515). -/
def State.sendRemote (s : State) (key lane pa : Nat) (ea : W64) (cls : PClass) (o : AtomOp) (b c : W64) (dst : Option Nat) : State :=
  let a := s.ag key
  (s.sendHome a.die (pa / 128) cls).addReq {
    id := s.nextReq, agent := key, lane := lane, pkg := paPkg pa, die := a.die, core := a.core, tag := 0,
    t0 := 0, sends := 0, pa := pa, va := ea, w64 := o.w64, op := o.op, b := b, c := c, dst := dst, fail := 0,
    cls := cls, acq := if dst.isSome then atomAcq o.ord else none }

/-- A lane of an `atom` that has failed already, kept until its remote lanes end (R218). -/
def deadReq (id key : Nat) (v : Agent) (o : AtomOp) (p : Nat × W64 × Nat) : Req := {
  id := id, agent := key, lane := p.1, pkg := 0, die := v.die, core := v.core, tag := 0, t0 := 0, sends := 0, pa := 0, va := p.2.1,
  w64 := o.w64, op := o.op, b := 0, c := 0, dst := none, fail := p.2.2, acq := atomAcq o.ord }

/-- How an atomic performed in this package ends for want of an answer: at its home INDETERMINATE (R230), at the die's L2, whose request for
the line ends with TIMEOUT, aborted (R425). -/
def Abort.atomCode (e : Abort) (cls : PClass) : Nat := if e = .timeout ∧ cls = .rc then 2 else e.failCode

/-- Perform one lane of an atomic at its place (R228). -/
def State.atomLane (s : State) (key : Nat) (o : AtomOp) (lane : Nat) (ea : W64) (sp : Spot) (b c : W64) (dst : Option Nat) : AtRes × State :=
  let n := if o.w64 then 8 else 4
  match sp with
  | .at (.phys pa) cls =>
    if paPkg pa ≠ Config.pkg ∧ s.domain.contains (paPkg pa) ∧ s.reachable (paPkg pa) then (.pending, s.sendRemote key lane pa ea cls o b c dst)
    else match s.atomicAt key (.phys pa) cls n o.op b.toNat c.toNat with
      | (.ok m, s) => (.val m, s)
      | (.error e, s) => (.fail (if paPkg pa = Config.pkg then e.atomCode cls else e.failCode), s)
  | .at p cls =>
    match s.atomicAt key p cls n o.op b.toNat c.toNat with
    | (.ok m, s) => (.val m, s)
    | (.error e, s) => (.fail e.failCode, s)
  | .aborted e => (.fail e.failCode, s)
  | _ => (.val 0, s.spoor (s.ctxOf (s.ag key)) ea)

/-- Perform every lane of an atomic in ascending order (R227). -/
def State.atomLanes (s : State) (key : Nat) (v : Agent) (o : AtomOp) (ret : Bool) :
    List (Nat × W64 × Spot) → List (Nat × W64 × AtRes) × State
  | [] => ([], s)
  | (l, ea, sp) :: rest =>
    let (r, s) := s.atomLane key o l ea sp (v.vw o.w64 o.b.toNat l) (v.vw o.w64 o.c.toNat l) (if ret then some o.d.toNat else none)
    let (rs, s) := s.atomLanes key v o ret rest
    ((l, ea, r) :: rs, s)

/-- Whether a core may send no remote atomic now to a home some lane needs (R230). -/
def State.tagsOut (s : State) (a : Agent) (sp : List (Nat × W64 × Spot)) : Bool :=
  sp.any (fun p => match p.2.2 with
    | .at (.phys pa) _ => paPkg pa != Config.pkg && !s.tagFree a.ck pa
    | _ => false)

/-- The release part of an atomic's ordering (R229). -/
def atomRel : Option (AOrd × Scope) → Option Scope
  | some (.rel, sc) | some (.ar, sc) => some sc
  | _ => none

/-- ATOM and RED (R227–R231): an `atom` with remote lanes waits for their answers; its failed lanes trap once all have ended, and
those of a `red` are store aborts. Requests without a slot wait in the order of R499, and a `red` waits until its own have left (R433). -/
def runAtom (i : Instr) (s : State) (ret : Bool) (o : AtomOp) : Host.Outcome State Fault Refusal :=
  issue i s (fun s v act =>
    let key := s.cur
    match (if (atomRel o.ord).isSome then s.abortCheck key true else none) with
    | some d => .ok d
    | none => afterAtoms s (
      match s.laneChecks v ((lanesOf act).map (fun l => (l, v.v64 o.a.toNat l))) (if o.w64 then 8 else 4) .atomic with
      | (.error st, s) => .ok { s := s, trap := some (stopTrap .atomic st) }
      | (.ok sp, s) =>
        if s.tagsOut v sp then .ok (s.holdRemote key)
        else
          let s := match atomRel o.ord with | none => s.drainAll key | some sc => (s.drainAll key).release key sc
          let (rs, s) := s.atomLanes key v o ret sp
          let wait := ret && rs.any (fun r => r.2.2 == .pending)
          let s := if wait then s else s.acqOpt key (atomAcq o.ord)
          if ret then
            let ws := wV o.w64 o.d (rs.filterMap (fun r => match r.2.2 with | .val m => some (r.1, BitVec.ofNat 64 m) | _ => none))
            let bad := rs.filterMap (fun r => match r.2.2 with | .fail k => some (r.1, r.2.1, k) | _ => none)
            if wait then
              let dead := bad.map (deadReq s.nextReq key v o)
              .ok { s := { s with reqs := s.reqs ++ dead, nextReq := s.nextReq + 1 }, ws := ws, wait := .remote }
            else
              .ok { s := s, ws := ws, late := bad.head?.map (fun p => { cause := failCause p.2.2, lane := p.1, addr := p.2.1 }) }
          else
            let s := rs.foldl (fun s r => match r.2.2 with
              | .fail k => s.storeAbort key r.2.1.toNat (redCause k)
              | _ => s) s
            .ok { s := s, wait := if s.reqs.any (fun q => q.holds key) then .remote else .none }))

/-- ATOM (R227). -/
def execAtom (c : Ctl) (o : AtomOp) (s : State) : Host.Outcome State Fault Refusal := runAtom (.atom c o) s true o
/-- RED (R227). -/
def execRed (c : Ctl) (o : AtomOp) (s : State) : Host.Outcome State Fault Refusal := runAtom (.red c o) s false o

/-! ## Fences (R232) -/

/-- Wait until every earlier load and atomic of an agent has landed (R232). -/
def State.landAll (s : State) (key : Nat) : State :=
  s.advance ((s.ag key).inflight.foldl (fun t f => max t f.land) s.cycle - s.cycle)

/-- The part of an `.sc` fence beyond `.ar`: the lines that hold the agent's earlier writes, and those whose dirty bytes it has read,
are written home (R232, R343). -/
def State.performHome (s : State) (key : Nat) : State :=
  let s := s.drainAll key
  let a := s.ag key
  let s := a.touched.foldl (fun s l => s.cleanLine a.die l) s
  s.setAg key { s.ag key with touched := [] }

/-- A fence, after the store-abort check (R218, R232); `rel` of one that releases. -/
def runFence (i : Instr) (s : State) (rel : Bool) (f : State → Nat → State) : Host.Outcome State Fault Refusal :=
  issue i s (fun s _ _ =>
    match s.abortCheck s.cur rel with
    | some d => .ok d
    | none => .ok { s := f s s.cur })

/-- FENCE_ACQ (R232). -/
def execFenceAcq (c : Ctl) (sc : Scope) (s : State) : Host.Outcome State Fault Refusal :=
  runFence (.fenceAcq c sc) s false (fun s k => (s.landAll k).acquireAt k sc)
/-- FENCE_REL (R232). -/
def execFenceRel (c : Ctl) (sc : Scope) (s : State) : Host.Outcome State Fault Refusal :=
  runFence (.fenceRel c sc) s true (fun s k => (s.landAll k).release k sc)
/-- FENCE_AR (R232). -/
def execFenceAr (c : Ctl) (sc : Scope) (s : State) : Host.Outcome State Fault Refusal :=
  runFence (.fenceAr c sc) s true (fun s k => ((s.landAll k).release k sc).acquireAt k sc)
/-- FENCE_SC (R232). -/
def execFenceSc (c : Ctl) (sc : Scope) (s : State) : Host.Outcome State Fault Refusal :=
  runFence (.fenceSc c sc) s true (fun s k => (((s.landAll k).release k sc).performHome k).acquireAt k sc)

end Sys2Proof.Machine
end

