-- ==== Sys2Proof/Machine/Sync.lean ====
section
/-! DEFINITION. Postboxes (R32, R33, R233, R234), named barriers and the grid barrier (R31, R235, R236), and the page operations
`discard`, `pgclass` and `tlbi` (R237–R239). -/

namespace Sys2Proof.Machine

/-! ## Postboxes -/

/-- The fields of a postbox (R32). -/
structure Pbx where
  pending  : Nat
  arrived  : Nat
  expected : Nat
  phase    : Bool
  armed    : Bool
deriving DecidableEq, Repr

/-- Read a postbox at a place of the scratchpad. -/
def State.pbxAt (s : State) (ck off : Nat) : Pbx :=
  let b := memBytes (s.co ck).scratch off 16
  let w2 := leNat ((b.drop 8).take 4)
  { pending := leNat (b.take 4), arrived := leNat ((b.drop 4).take 2), expected := leNat ((b.drop 6).take 2),
    phase := w2 % 2 == 1, armed := w2 / 2 % 2 == 1 }

/-- The 16 bytes of a postbox (R32). -/
def Pbx.bytes (p : Pbx) : List Byte :=
  leBytes 4 (p.pending % 2 ^ 32) ++ leBytes 2 p.arrived ++ leBytes 2 p.expected ++
    leBytes 4 ((if p.phase then 1 else 0) + if p.armed then 2 else 0) ++ leBytes 4 0

/-- Write a postbox. -/
def State.putPbx (s : State) (ck off : Nat) (p : Pbx) : State :=
  s.setCo ck { s.co ck with scratch := memPutBytes (s.co ck).scratch off p.bytes, bad := stillBad (s.co ck).bad off 16 }

/-- The core and offset of a postbox of a team. -/
def Team.pbxPlace (t : Team) (off : Nat) : Option (Nat × Nat) :=
  match t.spadPlace off with
  | some (.spad c o) => some (c, o)
  | _ => none

/-- The fields of a team's postbox. -/
def State.pbx (s : State) (team off : Nat) : Pbx :=
  match (s.tm team).pbxPlace off with
  | some (c, o) => s.pbxAt c o
  | none => ⟨0, 0, 0, false, false⟩

/-- Set the fields of a team's postbox. -/
def State.setPbx (s : State) (team off : Nat) (p : Pbx) : State :=
  match (s.tm team).pbxPlace off with
  | some (c, o) => s.putPbx c o p
  | none => s

/-- Agents of a team that wait on a postbox. -/
def State.pbxWaiters (s : State) (team off : Nat) : List Nat :=
  (s.agents.filter (fun p => p.2.live && p.2.kind != .firmware && p.2.team == team && (match p.2.wait with | .postbox o _ => o == off | _ => false))).map (·.1)

/-- Waiters whose phase has passed are re-inserted in the next cycle, with the acquire of the postbox's scope (R64, R233, R234). -/
def State.wakePbx (s : State) (team off : Nat) : State :=
  let ph := (s.pbx team off).phase
  let sc := tget (s.tm team).pbx off
  (s.pbxWaiters team off).foldl (fun s k =>
    let a := s.ag k
    if a.wait = .postbox off (!ph) then
      (s.setAg k { a with wait := .none, ready := max a.ready (s.cycle + 1), since := s.cycle + 1, woken := true }).acquireAt k sc
    else s) s

/-- The completion test of a postbox (R234). -/
def State.pbxTest (s : State) (team off : Nat) : State :=
  let p := s.pbx team off
  if (s.tm team).pbx.any (fun q => q.1 == off) ∧ p.arrived = p.expected ∧ p.pending = 0 then
    (s.setPbx team off { p with phase := !p.phase, arrived := 0 }).wakePbx team off
  else s

/-- An update of a postbox; its completion is tested once, after every update of the cycle (R233). -/
def State.pbxPut (s : State) (team off : Nat) (p : Pbx) : State :=
  let s := s.setPbx team off p
  let t := s.tm team
  s.setTm team { t with pbxDue := if t.pbxDue.contains off then t.pbxDue else t.pbxDue ++ [off] }

/-- The completion tests at the end of a cycle (R233). -/
def State.pbxTests (s : State) : State :=
  (s.teams.filter (fun p => !p.2.pbxDue.isEmpty)).foldl (fun s p =>
    p.2.pbxDue.foldl (fun s off => s.pbxTest p.1 off) (s.setTm p.1 { s.tm p.1 with pbxDue := [] })) s

/-- Whether a team's postbox is armed (R32). -/
def Team.armed (t : Team) (off : Nat) : Bool := (tfind t.pbx off).isSome

/-- A copy countdown: dropped when the postbox is not armed (R234, R289). -/
def State.pbxCount (s : State) (team off n : Nat) : State :=
  if (s.tm team).armed off then
    let p := s.pbx team off
    s.pbxPut team off { p with pending := (p.pending + 2 ^ 32 - n % 2 ^ 32) % 2 ^ 32 }
  else s

/-- The postbox offset an instruction names, or its trap (R233). -/
def pbxArg (t : Team) (ea : W64) : Except Trap Nat :=
  if aperOf ea ≠ .spad ∨ (t.spadPlace (aperOff ea)).isNone then .error { cause := .addr, addr := ea, lane := 0 }
  else if aperOff ea % 16 ≠ 0 then .error { cause := .align, addr := ea, lane := 0 }
  else .ok (aperOff ea)

/-- Disarm a postbox: its waiters trap PBX_STATE at their own word (R233). -/
def State.pbxDisarm (s : State) (team off : Nat) : State :=
  let t := s.tm team
  let s := (s.setPbx team off { s.pbx team off with armed := false })
  let s := s.setTm team { t with pbx := tdel t.pbx off }
  (s.pbxWaiters team off).foldl (fun s k =>
    let a := s.ag k
    (s.setAg k { a with wait := .none, pc := a.wpc }).trapAgent k { cause := .pbxState }) s

/-- A postbox instruction: its register condition `bad`, the address checks, then `f` on the team, the offset and the view (R155, R233). -/
def runPbx (i : Instr) (s : State) (sa : BitVec 6) (bad : Agent → Bool) (f : State → Agent → Nat → Nat → Done) : Host.Outcome State Fault Refusal :=
  issue i s (fun s v _ =>
    if bad v then .error { cause := .illegal }
    else match pbxArg (s.teamOf v) (v.s64 sa.toNat) with
    | .error t => .error t
    | .ok off => .ok (f s v v.team off))

/-- PBINIT (R233). -/
def execPbinit (c : Ctl) (sc : Scope) (sa : BitVec 6) (b : SSrc) (s : State) : Host.Outcome State Fault Refusal :=
  runPbx (.pbinit c sc sa b) s sa (fun v => decide (65535 < (v.ssrc false false b).toNat)) (fun s v team off =>
    let n := (v.ssrc false false b).toNat
    let t := s.tm team
    if n = 0 then { s := if t.armed off then s.pbxDisarm team off else s }
    else if t.armed off then
      let p := s.pbx team off
      if p.arrived = 0 ∧ p.pending = 0 then
        { s := (s.setPbx team off { p with expected := n }).setTm team { t with pbx := tput t.pbx off sc } }
      else { s := s, trap := some { cause := .pbxState } }
    else if 64 ≤ t.pbx.length then { s := s, trap := some { cause := .pbxLimit } }
    else { s := (s.setPbx team off ⟨0, 0, n, false, true⟩).setTm team { t with pbx := tput t.pbx off sc } })

/-- PBEXPECT (R233). -/
def execPbexpect (c : Ctl) (sa : BitVec 6) (b : SSrc) (s : State) : Host.Outcome State Fault Refusal :=
  runPbx (.pbexpect c sa b) s sa (fun _ => false) (fun s v team off =>
    if (s.tm team).armed off then
      let p := s.pbx team off
      { s := s.pbxPut team off { p with pending := (p.pending + (v.ssrc false false b).toNat) % 2 ^ 32 } }
    else { s := s, trap := some { cause := .pbxState } })

/-- PBARRIVE (R233, R234): the release stands even when the arrival traps. -/
def execPbarrive (c : Ctl) (sa : BitVec 6) (s : State) : Host.Outcome State Fault Refusal :=
  runPbx (.pbarrive c sa) s sa (fun _ => false) (fun s _ team off =>
    match s.abortCheck s.cur true with
    | some d => d
    | none =>
      let s := match tfind (s.tm team).pbx off with | some sc => s.release s.cur sc | none => s
      let p := s.pbx team off
      if !(s.tm team).armed off || p.arrived == p.expected then { s := s, trap := some { cause := .pbxState } }
      else { s := s.pbxPut team off { p with arrived := p.arrived + 1 } })

/-- PBWAIT (R233): waits until PHASE differs from bit 0 of its operand, then acquires at the postbox's scope. -/
def execPbwait (c : Ctl) (sa : BitVec 6) (b : SSrc) (s : State) : Host.Outcome State Fault Refusal :=
  runPbx (.pbwait c sa b) s sa (fun _ => false) (fun s v team off =>
    let ph := (v.ssrc false false b).getLsbD 0
    if !(s.tm team).armed off then { s := s, trap := some { cause := .pbxState } }
    else if (s.pbx team off).phase ≠ ph then { s := s.acquireAt s.cur (tget (s.tm team).pbx off) }
    else { s := s, wait := .postbox off ph })

/-- PBTEST (R233). -/
def execPbtest (c : Ctl) (d sa : BitVec 6) (s : State) : Host.Outcome State Fault Refusal :=
  runPbx (.pbtest c d sa) s sa (fun _ => false) (fun s _ team off =>
    if !(s.tm team).armed off then { s := s, trap := some { cause := .pbxState } }
    else
      let p := s.pbx team off
      { s := s.acquireAt s.cur (tget (s.tm team).pbx off),
        ws := [.s d.toNat ((if p.phase then 1 else 0) + if p.armed then 2 else 0)] })

/-! ## Named barriers (R31, R235) -/

/-- Whether an agent executes its word again after a resume (R83). -/
def Agent.resumed (v : Agent) : Bool := v.inRestore && v.pc == v.resumePc

/-- One arrival at a barrier, after the checks: the new state and whether the arrival completed the phase. -/
def State.arriveBar (s : State) (team b n bit : Nat) (sync : Bool) : State × Bool :=
  let t := s.tm team
  let x := (tfind t.bars b).getD ⟨0, 0, false, 0⟩
  if x.arrived + 1 = n then
    ((s.setTm team { t with bars := tput t.bars b ⟨n, 0, !x.phase, 0⟩ }).wakeBarrier team b x.phase, true)
  else
    (s.setTm team { t with bars := tput t.bars b ⟨n, x.arrived + 1, x.phase, if sync then x.ranks ||| BitVec.twoPow 64 bit else x.ranks⟩ }, false)

/-- BAR_ARRIVE and BAR_SYNC: store-abort check, count checks, release at `.team`, arrival (R235). -/
def runBar (i : Instr) (s : State) (b : BitVec 4) (cnt : SSrc) (sync : Bool) : Host.Outcome State Fault Refusal :=
  issue i s (fun s v _ =>
    let key := s.cur
    let n := (v.ssrc false false cnt).toNat
    let x := (tfind (s.teamOf v).bars b.toNat).getD ⟨0, 0, false, 0⟩
    let bit := (s.teamOf v).slotBit v
    if n = 0 ∨ 64 < n then .error { cause := .illegal }
    else match s.abortCheck key true with
    | some d => .ok d
    | none =>
      if sync && v.resumed && x.ranks.getLsbD bit then .ok { s := s, wait := .barrier b.toNat x.phase }
      else if sync && v.resumed && v.waited == .barrier b.toNat (!x.phase) then .ok { s := s.acquireAt key .team }
      else if x.arrived ≠ 0 ∧ x.expected ≠ n then .error { cause := .illegal }
      else
        let (s, full) := (s.release key .team).arriveBar v.team b.toNat n bit sync
        if !sync then .ok { s := s }
        else if full then .ok { s := s.acquireAt key .team }
        else .ok { s := s, wait := .barrier b.toNat x.phase })

/-- BAR_ARRIVE (R235). -/
def execBarArrive (c : Ctl) (b : BitVec 4) (cnt : SSrc) (s : State) : Host.Outcome State Fault Refusal :=
  runBar (.barArrive c b cnt) s b cnt false
/-- BAR_SYNC (R235). -/
def execBarSync (c : Ctl) (b : BitVec 4) (cnt : SSrc) (s : State) : Host.Outcome State Fault Refusal :=
  runBar (.barSync c b cnt) s b cnt true

/-- GBAR (R236): illegal outside a resident launch; the completing arrival goes on at once. -/
def execGbar (c : Ctl) (s : State) : Host.Outcome State Fault Refusal :=
  issue (.gbar c) s (fun s v _ =>
    let key := s.cur
    let lid := (s.teamOf v).lid
    let l := s.la lid
    if !l.hdr.resident then .error { cause := .illegal }
    else match s.abortCheck key true with
      | some d => .ok d
      | none =>
        if v.resumed && l.garr.contains key then .ok { s := s, wait := .gbar l.gphase }
        else if v.resumed && (match v.waited with | .gbar p => p != l.gphase | _ => false) then .ok { s := s.acquireAt key .pkg }
        else
          let s := s.release key .pkg
          let l := s.la lid
          let s := (s.setLa lid { l with garr := l.garr ++ [key] }).gbarCheck lid
          if (s.la lid).gphase ≠ l.gphase then .ok { s := s.acquireAt key .pkg } else .ok { s := s, wait := .gbar l.gphase })

/-! ## Page operations (R237–R239) -/

/-- What `discard` finds of a page (R237): no mapping, a MALFORMED walk, an abort of a table's read (R391; log 104), or the leaf's entry, its address
and whether it maps 64 MiB. -/
inductive PageAt
  | unmapped
  | malformed
  | aborted (e : Abort)
  | leaf (e : W64) (pa : Nat) (large : Bool)
deriving DecidableEq, Repr

/-- What a page's walk finds, without setting A or D (R237, R391, R392). -/
def State.peek (s : State) (base va : Nat) : Nat → PageAt
  | 0 =>
    let p := base + 8 * (va / 2 ^ 16 % 1024)
    let e := (s.tableWord p).1
    if !s.tableOk base then .malformed
    else if let some a := s.tableAbort p then .aborted a
    else if !e.getLsbD 0 then .unmapped
    else if badLeaf e 0 then .malformed else .leaf e p false
  | level + 1 =>
    let p := base + 8 * (va / 2 ^ (26 + 10 * level) % 1024)
    let e := (s.tableWord p).1
    if !s.tableOk base then .malformed
    else if let some a := s.tableAbort p then .aborted a
    else if !e.getLsbD 0 then .unmapped
    else if level = 0 ∧ e.getLsbD 7 then (if badLeaf e 1 then .malformed else .leaf e p true)
    else if badTable e then .malformed
    else s.peek (nextTable e) va level

/-- Drop every cached copy of the lines of a range of pages in the package without writing back, and clear their LOST marks
(R237). -/
def State.dropPages (s : State) (page n : Nat) : State :=
  let inR (l : Nat) : Bool := decide (page ≤ linePage l) && decide (linePage l < page + n)
  { s.findPages page n with
    cores := s.cores.map (fun c => (c.1, { c.2 with l1 := c.2.l1.filter (fun x => !inR x.line) }))
    dies := s.dies.map (fun d => (d.1, { d.2 with l2 := d.2.l2.filter (fun x => !inR x.line), wbuf := d.2.wbuf.filter (fun x => !inR x.line), comb := d.2.comb.filter (fun l => !inR l) }))
    dirs := s.dirs.map (fun d => if inR d.1 then (d.1, { bad := d.2.bad }) else d)
    net := s.net.filter (fun m => !inR m.line) }

/-- Remove translations from every cache of every compute die of the package (R237, R239, R393). -/
def State.dropTlb (s : State) (f : Tlb → Bool) : State :=
  { s with dies := s.dies.map (fun d => (d.1, { d.2 with tlb := d.2.tlb.filter (fun t => !f t), walks := [] })),
           cores := s.cores.map (fun c => (c.1, { c.2 with tlb := c.2.tlb.filter (fun t => !f t) })) }

/-- The stores queued under a translation are performed: those of a context and virtual address that `f` names, and every one to a thread's stack,
whose page its address does not tell (R237, R239, R394, R511; a store may always leave its queue early, R220). -/
def State.drainUsers (s : State) (f : Nat → Nat → Bool) : State :=
  s.agents.foldl (fun s p =>
    let a := s.ag p.1
    if a.kind != .firmware && a.sq.any (fun e => aperOf e.va == .stack || f (s.ctxOf a) (e.va.toNat % 2 ^ 56)) then s.drainAll p.1 else s) s

/-- Run the current agent's word again in the next cycle. -/
def State.again (s : State) : Done := { s := s.setAg s.cur { s.ag s.cur with ready := s.cycle + 1 }, gone := true }

/-- Whether a cached translation maps a virtual page of a context. -/
def Tlb.maps (t : Tlb) (ctx va : Nat) : Bool := t.ctx == ctx && t.vpage == (if t.large then va / 2 ^ 26 else va / 65536)

/-- The write of a table entry at its home, after dirty copies of its line have come home. -/
def State.putPte (s : State) (pa : Nat) (e : W64) : State :=
  (s.recallLine (pa / 128)).homePut pa (leBytes 8 e.toNat)

/-- Discard one page (R237 steps 3 and 4): its entry's state becomes 0b01. -/
def State.discardPage (s : State) (ctx va : Nat) (pte : W64) (ptePa : Nat) (large : Bool) : State :=
  let pte' := (pte &&& ~~~ 0x300#64) ||| 0x100
  let s := s.putPte ptePa pte'
  let page := pte.toNat / 65536 % 2 ^ 40
  (s.dropPages page (if large then 1024 else 1)).dropTlb (fun t => t.maps ctx va)

/-- Whether the range from `page` over `n` pages covers a part, not the whole, of the 64 MiB page that holds `p`. -/
def partOfLarge (page n p : Nat) : Bool := decide (p / 1024 * 1024 < page) || decide (page + n < p / 1024 * 1024 + 1024)

/-- Whether a page is in a migration (R390). -/
def State.movingPage (s : State) (page : Nat) : Bool := s.moving.any (fun m => m.1.src / 65536 == page || m.1.dst / 65536 == page)

/-- DISCARD (R237): checks over the whole range before any page; a range with a page in the moving state waits. Stores that other agents have
queued under a translation of a page are performed before it is discarded. Of a range that meets both PERM and ADDR the manual does not say
which traps: here the lowest page's, PERM before ADDR on one page (log 97). -/
def execDiscard (c : Ctl) (sa : BitVec 6) (b : SSrc) (s : State) : Host.Outcome State Fault Refusal :=
  issue (.discard c sa b) s (fun s v _ =>
    let key := s.cur
    let ea := v.s64 sa.toNat
    let n := (v.ssrc false false b).toNat
    let page := ea.toNat / 65536
    let ctx := s.ctxOf v
    let base := (s.cx ctx).ptbase.toNat % 2 ^ 56
    if aperOf ea ≠ .global then .error { cause := .addr, addr := ea }
    else if ea.toNat % 65536 ≠ 0 then .error { cause := .align, addr := ea }
    else if 2 ^ 40 < page + n then .error { cause := .addr, addr := ea }
    else
      let walks := (List.range n).map (fun j => (page + j, s.peek base (65536 * (page + j)) 3))
      let bad := walks.findSome? (fun (p : Nat × PageAt) =>
        let va := BitVec.ofNat 64 (65536 * p.1)
        match p.2 with
        | .unmapped => none
        | .aborted e => some (loadTrap e 0xFF va)
        | .malformed => some { stopTrap .write (.fault true va.toNat, 0xFF, va) with lane := 0xFF }
        | .leaf e _ large => if !e.getLsbD 3 then some { cause := .perm, addr := va, lane := 0xFF }
          else if large && partOfLarge page n p.1 then some { cause := .addr, addr := va, lane := 0xFF } else none)
      let pages := walks.filterMap (fun p => match p.2 with | .leaf e pa large => some (p.1, e, pa, large) | _ => none)
      match bad with
      | some t => .ok { s := s, trap := some t }
      | none => afterAtoms s (
        if pages.any (fun p => p.2.1.toNat / 256 % 4 == 2) then .ok s.again
        else
          let s := (s.drainAll key).drainUsers (fun c va => c == ctx && decide (page ≤ va / 65536) && decide (va / 65536 < page + n))
          .ok { s := pages.foldl (fun s p => s.discardPage ctx (65536 * p.1) p.2.1 p.2.2.1 p.2.2.2) s }))

/-- Lines of a page that any cache or directory of the package knows. -/
def State.pageLines (s : State) (page : Nat) : List Nat :=
  let ls := (s.dies.map (fun d => d.2.l2.map (·.line))).flatten ++ s.dirs.map (·.1) ++ s.net.map (·.line)
  (ls.filter (fun l => linePage l == page)).dedup

/-- The class change at the home (R238): every copy recalled, owner tags cleared, the entry written. -/
def State.reclass (s : State) (page : Nat) (cls : PClass) : State :=
  if s.classAt page = cls then s
  else
    let s := (s.pageLines page).foldl (fun s l => s.recallLine l) s
    { s with classes := tput s.classes page cls }

/-- PGCLASS (R238): a page in the moving state is waited for. -/
def execPgclass (c : Ctl) (sa : BitVec 6) (b : SSrc) (s : State) : Host.Outcome State Fault Refusal :=
  issue (.pgclass c sa b) s (fun s v _ =>
    let pa := v.s64 sa.toNat
    let cls := (v.ssrc false false b).toNat
    let page := pa.toNat / 65536
    if 3 < cls then .error { cause := .illegal }
    else if pa.toNat % 65536 ≠ 0 then .error { cause := .align, addr := pa }
    else if 2 ^ 56 ≤ pa.toNat then .error { cause := .addr, addr := pa }
    else if s.movingPage page then .ok s.again
    else .ok { s := s.reclass page (classOf cls) })

/-- A `tlbi` (R239): the translations that `gone` names leave every die; stores queued under them, by context and address those `use` names, are
performed, and the word is run again while an access to another package under one of them has no answer. -/
def State.tlbiWord (s : State) (gone : Tlb → Bool) (use : Nat → Nat → Bool) : Done :=
  let s := (s.drainUsers use).dropTlb gone
  if s.reqs.any (fun q => q.fail == 0 && (s.ag q.agent).kind != .firmware && (aperOf q.va == .stack || use (s.ctxOf (s.ag q.agent)) (q.va.toNat % 2 ^ 56))) then s.again
  else { s := s }

/-- TLBI_PAGE (R239): the context is the one sys.ctxsel names. -/
def execTlbiPage (c : Ctl) (sa : BitVec 6) (s : State) : Host.Outcome State Fault Refusal :=
  issue (.tlbiPage c sa) s (fun s v _ =>
    let va := (v.s64 sa.toNat).toNat % 2 ^ 56
    .ok (s.tlbiWord (fun t => t.maps (s.ctxOf v) va) (fun c a => c == s.ctxOf v && a / 2 ^ 26 == va / 2 ^ 26)))
/-- TLBI_CTX (R239). -/
def execTlbiCtx (c : Ctl) (s : State) : Host.Outcome State Fault Refusal :=
  issue (.tlbiCtx c) s (fun s v _ => .ok (s.tlbiWord (fun t => t.ctx == s.ctxOf v) (fun c _ => c == s.ctxOf v)))
/-- TLBI_ALL (R239). -/
def execTlbiAll (c : Ctl) (s : State) : Host.Outcome State Fault Refusal :=
  issue (.tlbiAll c) s (fun s _ _ => .ok (s.tlbiWord (fun _ => true) (fun _ _ => true)))

end Sys2Proof.Machine
end

