-- ==== Sys2Proof/Machine/Tensor.lean ====
section
/-! DEFINITION. Tensor table entries (R24–R29): the fields of an image, its well-formedness, the address of an element; reading and
writing elements for sweeps and commands (R33, R41, R217, R218); the canonical blocked layout (R241); the tensor table
instructions (R262–R264). -/

namespace Sys2Proof.Machine

/-! ## Images -/

/-- The fields of an image (R25). -/
structure Tens where
  base   : Nat
  fmt    : Nat
  rank   : Nat
  bcast  : Nat
  scale  : Nat
  ext    : List Nat
  stride : List Int
deriving DecidableEq, Repr

/-- `n` bits of an image from bit `lo`. -/
def imgBits (i : BitVec 512) (lo n : Nat) : Nat := (i.extractLsb' lo n).toNat

/-- Read an image (R25). -/
def tensOf (i : BitVec 512) : Tens :=
  { base := imgBits i 0 64, fmt := imgBits i 64 5, rank := imgBits i 69 3 + 1, bcast := imgBits i 72 8, scale := imgBits i 80 48,
    ext := (List.range 8).map (fun j => imgBits i (128 + 24 * j) 24),
    stride := (List.range 8).map (fun j => (i.extractLsb' (320 + 24 * j) 24).toInt) }

/-- The format of a well-formed code (R26). -/
def fmtOf : Nat → Option Fmt
  | 1 => some .f64 | 2 => some .f32 | 3 => some .f16 | 4 => some .bf16 | 5 => some .e4m3 | 6 => some .e5m2 | 7 => some .p4
  | 8 => some .i8 | 9 => some .u8 | 10 => some .i16 | 11 => some .i32 | 12 => some .i64 | _ => none

def Tens.f (t : Tens) : Fmt := (fmtOf t.fmt).getD .u8
def Tens.ex (t : Tens) (j : Nat) : Nat := (t.ext[j]?).getD 0
def Tens.st (t : Tens) (j : Nat) : Int := (t.stride[j]?).getD 0
def Tens.bc (t : Tens) (j : Nat) : Bool := t.bcast.testBit j

/-- Bytes of an element; P4 counts 1 (R26). -/
def Tens.size (t : Tens) : Nat := if t.f = .p4 then 1 else t.f.bits / 8

/-- The aperture of a tensor. -/
def Tens.aper (t : Tens) : Aper := aperOf (BitVec.ofNat 64 t.base)

/-- Whether SCALE breaks R27. -/
def Tens.scaleBad (t : Tens) : Bool :=
  match t.f with
  | .p4 => false
  | .e4m3 | .e5m2 =>
    let m := t.scale % 2 ^ 32
    decide (2 ^ 32 ≤ t.scale) || m == 0x80000000 || decide (0x7F800000 ≤ m % 2 ^ 31)
  | _ => t.scale != 0

/-- The first condition of R28 an image breaks, as the byte offset of its lowest field (R514). -/
def Tens.bad (t : Tens) : Option Nat :=
  let axes := List.range 8
  if (fmtOf t.fmt).isNone then some 8
  else match axes.find? (fun j => decide (j < t.rank) && t.ex j == 0) with
  | some j => some (16 + 3 * j)
  | none =>
  match axes.find? (fun j => decide (t.rank ≤ j) && t.ex j != 0) with
  | some j => some (16 + 3 * j)
  | none =>
  match axes.find? (fun j => decide (t.rank ≤ j) && t.st j != 0) with
  | some j => some (40 + 3 * j)
  | none =>
    if t.bcast / 2 ^ t.rank ≠ 0 then some 9
    else if t.aper = .bad then some 0
    else if t.base % t.size ≠ 0 then some 0
    else if t.f = .p4 ∧ t.ex 0 % 32 ≠ 0 then some 16
    else if t.f = .p4 ∧ t.st 0 ≠ 1 then some 40
    else if t.scaleBad then some 10
    else none

/-- An entry is ill formed when its valid bit is clear or its image breaks R28. -/
def TEntry.ill (e : TEntry) : Bool := !e.valid || (tensOf e.image).bad.isSome

def TEntry.t (e : TEntry) : Tens := tensOf e.image

/-- An entry of a team's table; one never written is clear. -/
def Team.entry (t : Team) (n : Nat) : TEntry := (tfind t.tt n).getD ⟨false, 0, []⟩

def State.entry (s : State) (v : Agent) (n : BitVec 6) : TEntry := (s.teamOf v).entry n.toNat

/-- Elements of the iteration space. -/
def Tens.count (t : Tens) : Nat := (t.ext.take t.rank).foldl (· * ·) 1

/-- The index of the `k`-th element, axis 0 fastest. -/
def idxOf : List Nat → Nat → List Nat
  | [], _ => []
  | e :: es, k => k % max 1 e :: idxOf es (k / max 1 e)

/-- The place of an index in that order. -/
def linOf : List Nat → List Nat → Nat
  | e :: es, i :: is => i + e * linOf es is
  | _, _ => 0

def Tens.idx (t : Tens) (k : Nat) : List Nat := idxOf (t.ext.take t.rank) k

/-- Σ i_j · STRIDE_j over the axes that are not broadcast (R25). -/
def Tens.elem (t : Tens) (idx : List Nat) : Int :=
  (idx.zipIdx).foldl (fun (a : Int) p => if t.bc p.2 then a else a + p.1 * t.st p.2) 0

/-- The address of an element and, for P4, its nibble (R25, R26). -/
def Tens.addr (t : Tens) (idx : List Nat) : W64 × Nat :=
  let e := t.elem idx
  if t.f = .p4 then (BitVec.ofInt 64 (t.base + e / 2), (e % 2).toNat) else (BitVec.ofInt 64 (t.base + t.size * e), 0)

/-- The block an element belongs to, along axis 0 and then outward (R27); a broadcast axis counts as index 0. -/
def Tens.block (t : Tens) (idx : List Nat) : Nat :=
  let i := (idx.zipIdx).map (fun p => if t.bc p.2 then 0 else p.1)
  match i with
  | [] => 0
  | i0 :: rest => i0 / 32 + (t.ex 0 / 32) * linOf ((t.ext.take t.rank).drop 1) rest

/-- The address of a block's scale byte (R27). -/
def Tens.scaleAddr (t : Tens) (b : Nat) : W64 := BitVec.ofNat 64 (t.scale * 256 + b)

/-- The FP8 multiplier; 1 for every other format (R27). -/
def Tens.mult (t : Tens) : Ex :=
  match t.f with
  | .e4m3 | .e5m2 => if t.scale % 2 ^ 32 = 0 then .fin false 1 0 else ff32.value (t.scale % 2 ^ 32)
  | _ => .fin false 1 0

/-! ## Exact quotients -/

/-- x / m for a finite nonzero m, exact or with a sticky bit far below every rounding. -/
def Ex.div (x m : Ex) : Ex :=
  match x, m with
  | .nan s, _ => .nan s
  | .inf n, m => .inf (n != m.sign)
  | .fin n a e, .fin k b f =>
    if b = 1 ∧ f = 0 ∧ !k then .fin n a e
    else if a = 0 then .fin (n != k) 0 0
    else
      let q := a * 2 ^ 400 / b
      .fin (n != k) (2 * q + if q * b = a * 2 ^ 400 then 0 else 1) (e - f - 401)
  | x, _ => x

/-! ## One access of a sweep or a command -/

/-- Why an element's access cannot be made: a lane condition (R217) or an abort (R218). -/
inductive TStop
  | stop (kind : AKind) (st : Stop) (ea : W64)
  | abort (kind : AKind) (e : Abort) (ea : W64)
deriving DecidableEq, Repr

/-- The trap of a stopped sweep (R269). -/
def TStop.trap (lane : Nat) : TStop → Trap
  | .stop k st ea => stopTrap k (st, lane, ea)
  | .abort _ e ea => loadTrap e lane ea

/-- Read `n` bytes at a generic address as an agent. -/
def State.tRead (s : State) (key lane : Nat) (ea : W64) (n : Nat) : Except TStop Nat × State :=
  match s.laneChecks (s.ag key) [(lane, ea)] n .read with
  | (.error (st, _, ea), s) => (.error (.stop .read st ea), s)
  | (.ok sp, s) =>
    match s.loadSpot key ea (match sp with | p :: _ => p.2.2 | [] => .beyond) n .none with
    | (.ok x, s) => (.ok x, s)
    | (.error e, s) => (.error (.abort .read e ea), s)

/-- Write `n` bytes at a generic address as an agent, performed at once. -/
def State.tWrite (s : State) (key lane : Nat) (ea : W64) (n x : Nat) : Option TStop × State :=
  match s.laneChecks (s.ag key) [(lane, ea)] n .write with
  | (.error (st, _, ea), s) => (some (.stop .write st ea), s)
  | (.ok sp, s) =>
    match (match sp with | p :: _ => p.2.2 | [] => Spot.beyond) with
    | .at p cls =>
      let a := s.ag key
      let s := match p with | .phys pa => s.touch key (pa / 128) cls | _ => s
      match s.writePlace a.die a.core p cls n x (s.ctxOf a) .none with
      | (none, s) => (none, s)
      | (some e, s) => (some (.abort .write e ea), s)
    | .beyond => (none, s.spoor (s.ctxOf (s.ag key)) ea)
    | .aborted e => (some (.abort .write e ea), s)
    | _ => (none, s)

/-- Read the pattern of an element, and for P4 its block's scale byte. -/
def State.tElem (s : State) (key lane : Nat) (t : Tens) (idx : List Nat) : Except TStop (Nat × Nat) × State :=
  let (ea, nib) := t.addr idx
  match s.tRead key lane ea t.size with
  | (.error e, s) => (.error e, s)
  | (.ok x, s) =>
    if t.f = .p4 then
      match s.tRead key lane (t.scaleAddr (t.block idx)) 1 with
      | (.error e, s) => (.error e, s)
      | (.ok sb, s) => (.ok (x / 16 ^ nib % 16, sb), s)
    else (.ok (x, 0), s)

/-- Write the pattern of an element; a P4 code goes into its nibble. -/
def State.tPut (s : State) (key lane : Nat) (t : Tens) (idx : List Nat) (x : Nat) : Option TStop × State :=
  let (ea, nib) := t.addr idx
  if t.f = .p4 then
    match s.tRead key lane ea 1 with
    | (.error e, s) => (some e, s)
    | (.ok old, s) => s.tWrite key lane ea 1 (if nib = 0 then old / 16 * 16 + x % 16 else old % 16 + 16 * (x % 16))
  else s.tWrite key lane ea t.size x

/-- Write the codes of a P4 block from element `k` on, then its scale byte. -/
def State.tPutBlock (s : State) (key lane : Nat) (t : Tens) (k : Nat) (codes : List Nat) (sb : Nat) : Option TStop × State :=
  let r := codes.zipIdx.foldl (fun (acc : Option TStop × State) c =>
    match acc with
    | (some e, s) => (some e, s)
    | (none, s) => s.tPut key lane t (t.idx (k + c.2)) c.1) (none, s)
  match r with
  | (some e, s) => (some e, s)
  | (none, s) => s.tWrite key lane (t.scaleAddr (t.block (t.idx k))) 1 sb

/-! ## The canonical blocked layout (R241) -/

/-- The byte offset of row `i`, column byte `j` of an operand of `rows` rows. -/
def brickOff (rows i j : Nat) : Nat :=
  512 * (j / 64 * (rows / 8) + i / 8) + 64 * (i % 8) + (j % 64 + 8 * (i % 8)) % 64

/-! ## Tensor table instructions (R262–R264) -/

/-- Write an entry of a team's table: the valid bit is set and the counters cleared (R29). -/
def State.putImage (s : State) (team n : Nat) (i : BitVec 512) : State :=
  let t := s.tm team
  s.setTm team { t with tt := tput t.tt n ⟨true, i, []⟩ }

/-- `n` bits of an image replaced from bit `lo`. -/
def imgPut (i : BitVec 512) (lo n : Nat) (x : Nat) : BitVec 512 :=
  (i &&& ~~~ (BitVec.ofNat 512 (2 ^ n - 1) <<< lo)) ||| (BitVec.ofNat 512 (x % 2 ^ n) <<< lo)

/-- TTSET (R262). -/
def execTtset (c : Ctl) (td sa : BitVec 6) (sel : BitVec 8) (s : State) : Host.Outcome State Fault Refusal :=
  issue (.ttset c td sa sel) s (fun s v _ =>
    let x := v.s64 sa.toNat
    let k := sel.toNat
    let old := (s.entry v td).image
    if k = 0 then .ok { s := s.putImage v.team td.toNat (imgPut old 0 64 x.toNat) }
    else if k = 1 then .ok { s := s.putImage v.team td.toNat (imgPut old 64 64 x.toNat) }
    else if k < 10 then
      if x.toNat < 2 ^ 24 then .ok { s := s.putImage v.team td.toNat (imgPut old (128 + 24 * (k - 2)) 24 x.toNat) } else .error { cause := .illegal }
    else if x = (x.setWidth 24).signExtend 64 then
      .ok { s := s.putImage v.team td.toNat (imgPut old (320 + 24 * (k - 10)) 24 x.toNat) }
    else .error { cause := .illegal })

/-- The four 16-byte pieces of a 64-byte access. -/
def pieces (lane : Nat) (ea : W64) : List (Nat × W64) := (List.range 4).map (fun i => (lane, ea + BitVec.ofNat 64 (16 * i)))

/-- TTLD (R263). -/
def execTtld (c : Ctl) (td sa : BitVec 6) (s : State) : Host.Outcome State Fault Refusal :=
  issue (.ttld c td sa) s (fun s v act =>
    let ea := v.s64 sa.toNat
    let lane := (lanesOf act).headD 0
    if !addrBad s v ea .read && ea.toNat % 64 != 0 then .error { cause := .align, addr := ea, lane := lane }
    else afterAtoms s (match s.laneChecks v (pieces lane ea) 16 .read with
      | (.error st, s) => .ok { s := s, trap := some (stopTrap .read st) }
      | (.ok sp, s) =>
        match s.loadLanes s.cur 16 .none sp with
        | (.error (e, l, ea), s) => .ok { s := s, trap := some (loadTrap e l ea) }
        | (.ok xs, s) => .ok { s := s.putImage v.team td.toNat (BitVec.ofNat 512 (xs.foldr (fun p a => p.2 + 2 ^ 128 * a) 0)) }))

/-- TTST (R263). -/
def execTtst (c : Ctl) (ta sb : BitVec 6) (s : State) : Host.Outcome State Fault Refusal :=
  issue (.ttst c ta sb) s (fun s v act =>
    let ea := v.s64 sb.toNat
    let lane := (lanesOf act).headD 0
    let i := (s.entry v ta).image
    if !addrBad s v ea .write && ea.toNat % 64 != 0 then .error { cause := .align, addr := ea, lane := lane }
    else afterAtoms s (match s.laneChecks v (pieces lane ea) 16 .write with
      | (.error st, s) => .ok { s := s, trap := some (stopTrap .write st) }
      | (.ok sp, s) =>
        .ok { s := (sp.zipIdx).foldl (fun s p => s.pushStore s.cur p.1.2.1 p.1.2.2 16 (imgBits i (128 * p.2) 128) .none) s }))

/-- TTIDX (R264). -/
def execTtidx (c : Ctl) (wr : Bool) (d : BitVec 6) (ta : BitVec 6) (ax : BitVec 3) (s : State) : Host.Outcome State Fault Refusal :=
  issue (.ttidx c wr d ta ax) s (fun s v _ =>
    let e := s.entry v ta
    if wr then
      let x := v.s32 d.toNat
      if 2 ^ 24 ≤ x.toNat then .error { cause := .illegal }
      else
        let t := s.teamOf v
        .ok { s := s.setTm v.team { t with tt := tput t.tt ta.toNat { e with idx := tput e.idx ax.toNat (x.setWidth 24) } } }
    else .ok { s := s, ws := [.s d.toNat ((tget e.idx ax.toNat).setWidth 32)] })

end Sys2Proof.Machine
end

