-- ==== Sys2Proof/Machine/Matrix.lean ====
section
/-! DEFINITION. The matrix engine: gangs and the rendezvous latch (R23, R243–R247), `mma` with its arithmetic (R103–R107, R249–R251)
and self-check (R111, R112), the accumulator tiles (R34, R35, R252–R255), and `vflags`, which waits for them (R213). -/

namespace Sys2Proof.Machine

/-! ## Tiles -/

def State.putTile (s : State) (ck z : Nat) (t : Tile) : State := s.setCo ck { s.co ck with tiles := tput (s.co ck).tiles z t }

/-- An element of a tile. -/
def Tile.at (t : Tile) (i j : Nat) : Nat := (tget t.el (64 * i + j)).toNat

/-! ## Operands of an mma (R242, R249) -/

def mfCode : MFmt → Nat | .bf16 => 4 | .f16 => 3 | .f8e4 => 5 | .f8e5 => 6 | .i8 => 8 | .p4 => 7
def mfNum : MFmt → Nat | .bf16 => 0 | .f16 => 1 | .f8e4 => 2 | .f8e5 => 3 | .i8 => 4 | .p4 => 5
def mfmtOf : Nat → MFmt | 0 => .bf16 | 1 => .f16 | 2 => .f8e4 | 3 => .f8e5 | 4 => .i8 | _ => .p4

/-- K of a format (R103). -/
def mfK : MFmt → Nat | .bf16 | .f16 => 32 | .f8e4 | .f8e5 | .i8 => 64 | .p4 => 128

/-- Bits of an operand element. -/
def mfBits : MFmt → Nat | .bf16 | .f16 => 16 | .p4 => 4 | _ => 8

/-- Byte `t` of a member's part of width `w`, from register `vb` on (R249): `b` holds its registers by 64·register + lane. -/
def bByte (b : Tab W32) (w vb t : Nat) : Nat :=
  let u := t / 4
  (tget b (64 * (vb + u / w) + u % w)).toNat / 256 ^ (t % 4) % 256

/-- Element (k, n') of a member's part, with its scale byte for P4. -/
def bElem (b : Tab W32) (w : Nat) (f : MFmt) (m vb k n : Nat) : Nat × Nat :=
  match mfBits f with
  | 16 => (bByte b w vb (64 * n + 2 * k) + 256 * bByte b w vb (64 * n + 2 * k + 1), 0)
  | 8 => (bByte b w vb (64 * n + k), 0)
  | _ => (bByte b w vb (64 * n + k / 2) / 16 ^ (k % 2) % 16, bByte b w vb ((if m = 4 then 1024 else 2048) + 4 * n + k / 32))

/-- A member's part of B in the cycle the engine reads it, by 64·register + lane: a register the member's word read early as it was then
(R126), and zero in a lane that holds no thread (R249). -/
def Agent.bPart (a : Agent) (n vb : Nat) (early : Tab W32) : Tab W32 :=
  (List.range n).flatMap (fun j => (List.range a.width).map (fun l =>
    (64 * (vb + j) + l, if a.pres.getLsbD l then (tfind early (64 * (vb + j) + l)).getD (a.v32 (vb + j) l) else 0)))

/-- The registers of B that a word reads (`v`) otherwise than its agent holds them (`a`): results not yet available to it (R126). -/
def Agent.bEarly (a v : Agent) (n vb : Nat) : Tab W32 :=
  (List.range n).flatMap (fun j => (List.range a.width).filterMap (fun l =>
    if v.v32 (vb + j) l = a.v32 (vb + j) l then none else some (64 * (vb + j) + l, v.v32 (vb + j) l)))

/-- Whether an entry meets R242 for a gang of `m` on an agent's core. -/
def aTensOk (s : State) (v : Agent) (f : MFmt) (m : Nat) (t : Tens) : Bool :=
  let off := t.base % 2 ^ 48
  let place (o : Nat) : Bool := match (s.teamOf v).spadPlace o with | some (.spad c _) => c == v.ck | _ => false
  t.fmt == mfCode f && t.rank == 2 && t.ex 0 == mfK f && t.ex 1 == 16 * m && t.st 0 == 1 && t.st 1 == mfK f && t.bcast == 0 &&
    t.aper == .spad && off % 512 == 0 && place off && place (off + 1024 * m - 1)

/-! ## Arithmetic (R104–R107) -/

/-- RoundFP32 with flush for the engine: only OF, and UF when a result is flushed (R105, R107). R107 does not say whether a nonzero value that
rounds to zero at once, with no subnormal to flush, raises UF: here it does (log 88). -/
def mRound (x : Ex) : Nat × BitVec 6 :=
  let (b, fl) := roundFP32 x .rn true
  let tiny := match x with | .fin _ m _ => m != 0 && b % 2 ^ 31 == 0 | _ => false
  (b, (fl &&& flOF) ||| flIf tiny flUF)

/-- ChunkSum over the operand pairs of a chunk (R104). A signalling NaN among the operands raises no NV: R104 gives none when an input was a
NaN, where R89 gives one for every operation that reads one (log 88). -/
def chunkSum (ps : List (Ex × Ex)) (m : Ex) : Nat × BitVec 6 :=
  let nanIn := ps.any (fun p => p.1.isNan || p.2.isNan)
  let zeroBad := ps.any (fun p => ((p.1.isNan || p.1.isInf) && p.2.isZero) || ((p.2.isNan || p.2.isInf) && p.1.isZero))
  let xs := ps.map (fun p => (p.1.mul p.2).1)
  let pos := xs.contains (.inf false)
  let neg := xs.contains (.inf true)
  if xs.any Ex.isNan || (pos && neg) then (ff32.nanBits, flIf (!nanIn || zeroBad) flNV)
  else if pos || neg then (ff32.signBit neg + ff32.infBits, 0)
  else if xs.all Ex.isZero then (ff32.signBit (xs.all Ex.sign), 0)
  else
    let top (x : Ex) : Int := match x with | .fin _ a e => (Nat.log2 a : Int) + e | _ => 0
    let nz := xs.filter (fun x => !x.isZero)
    let emax := nz.foldl (fun t x => max t (top x)) (top (nz.headD (.fin false 1 0)))
    let q := emax - 64
    let sum := nz.foldl (fun (z : Int) x => match x with
      | .fin n a e => z + signed n (scaleTo a e q).1
      | _ => z) 0
    if sum = 0 then (0, 0) else mRound ((Ex.ofInt sum q false).mul m).1

/-- One step of the accumulator (R105). -/
def accStep (acc : Nat) (c : Nat × BitVec 6) : Nat × BitVec 6 :=
  let (x, f) := (ff32.value acc).add .rn (ff32.value c.1)
  let (y, g) := mRound x
  (y, (f &&& flNV) ||| c.2 ||| g)

/-- The value of an operand element in a format. -/
def mfVal (f : MFmt) (x : Nat × Nat) : Ex :=
  match f with
  | .bf16 => ffbf.value x.1
  | .f16 => ff16.value x.1
  | .f8e4 => ffe4.value x.1
  | .f8e5 => ffe5.value x.1
  | .i8 => exInt (Fmt.int .i8 x.1)
  | .p4 => decodeP4 x.1 x.2

/-- One element of an mma from its accumulator and its K operand pairs (R105, R106, R250). -/
def mmaElem (f : MFmt) (m : Ex) (acc : Nat) (ps : List ((Nat × Nat) × (Nat × Nat))) : Nat × BitVec 6 :=
  if f = .i8 then
    (lowBits 32 (Fmt.int .i32 acc + ps.foldl (fun (z : Int) p => z + Fmt.int .i8 p.1.1 * Fmt.int .i8 p.2.1) 0), 0)
  else
    let v := ps.map (fun p => (mfVal f p.1, mfVal f p.2))
    let h := mfK f / 2
    let (a, fa) := accStep acc (chunkSum (v.take h) m)
    let (b, fb) := accStep a (chunkSum (v.drop h) m)
    (b, fa ||| fb)

/-! ## Gangs (R243–R246) -/

/-- GANG_SET (R243). -/
def execGangSet (c : Ctl) (sa : BitVec 6) (s : State) : Host.Outcome State Fault Refusal :=
  issue (.gangSet c sa) s (fun s v _ =>
    let key := s.cur
    let g := v.s32 sa.toNat
    let sz := g.toNat / 2 ^ 20 % 4
    let slots := gangSlots g
    let ok := g.toNat < 2 ^ 22 && sz != 3 && (sz != 1 || g.toNat / 2 ^ 10 % 2 ^ 10 == 0) &&
      (if sz = 0 then g == 0 else slots.Nodup && slots.contains v.slot &&
        slots.all (fun x => let a := s.ag (64 * v.ck + x); a.live && a.kind == .group && a.matrix && a.team == v.team))
    if !ok then .error { cause := .illegal }
    else
      let s := if v.gang ≠ g then s.leaveGang key else s
      .ok { s := s.setAg key { s.ag key with gang := g } })

/-- The first listed slot of a gang that holds no group with its value (R246). -/
def State.brokenSlot (s : State) (ck : Nat) (g : W32) : Option Nat :=
  (gangSlots g).find? (fun x => let a := s.ag (64 * ck + x); !(a.live && a.kind == .group && a.gang == g))

/-- Release waiting members with a trap at their `mma` word (R245, R246). -/
def State.trapMembers (s : State) (ks : List Nat) (t : Trap) : State :=
  ks.foldl (fun s k =>
    let a := s.ag k
    if a.live then (s.setAg k { a with wait := .none, latch := none, pc := a.wpc }).routeTrap k t else s) s

/-- Whether an `mma` accepted now is self-checked, and the core's counter after it (R111, R112). The counter moves when the latch completes, so
an `mma` that then traps ZINVALID at its start has moved it (log 88). -/
def State.mxCount (s : State) (die core : Nat) (replay : Bool) : Bool × State :=
  let ck := coreKey die core
  let n := (s.di die).mxchk.toNat
  let c := (s.co ck).mmaCount
  if replay then (true, s) else (n != 0 && (c + 1) % n == 0, s.setCo ck { s.co ck with mmaCount := c + 1 })

/-- The leader of an `mma`, the group of the first listed slot (R251). -/
def Mma.lead (q : Mma) : Nat := q.members.headD 0

/-- The cycle of a started `mma`'s tile write, the last it occupies the engine (R251). -/
def Mma.last (q : Mma) : Nat := q.begun + if q.checked then 15 else 7

/-- An accepted `mma` takes its place: by the cycle its latch completed in, those of one cycle by the leader's slot (R251). -/
def insertMma (q : Mma) : List Mma → List Mma
  | [] => [q]
  | m :: ms => if !m.started && (decide (q.latched < m.latched) || (q.latched == m.latched && decide (q.lead % 64 < m.lead % 64))) then q :: m :: ms
    else m :: insertMma q ms

/-- The `mma` a completed latch gives the engine (R245, R251): `ks` are the members, in the order of the gang register, `w` the last word to
arrive, `c` the cycle it arrived in. -/
def State.mmaOf (s : State) (v : Agent) (ks : List Nat) (w : LatchWord) (e : TEntry) (checked : Bool) (c : Nat) : Mma :=
  let word (k : Nat) : LatchWord := if k = s.cur then w else (s.ag k).latch.getD w
  { members := ks, word := { w with early := [] }, vbs := ks.map (fun k => (word k).vb), image := e, size := ks.length, checked := checked,
    team := v.team, width := v.width, base := match (s.teamOf v).spadPlace (e.t.base % 2 ^ 48) with | some (.spad _ o) => o | _ => 0,
    latched := c, due := c + 1, bregs := ks.map (fun k => (word k).early), again := ks.any (fun k => (s.ag k).recheck) }

/-- A word that issued in cycle `c` waits for an `mma`, or until cycle `till`: its group issues nothing meanwhile, and the word runs then (R213,
R245, R252). -/
def State.waitTile (s : State) (key c : Nat) (till : Option Nat) : Done :=
  { s := s.setAg key { s.ag key with wait := .tile till, wpc := (s.ag key).pc, held := some (c, till.getD s.cycle) }, gone := true }

/-- MMA (R245, R246, R248): the word arrives at the latch, with every check made there, in the last cycle it occupies its pipe; the last listed
member completes it. -/
def execMma (c : Ctl) (acc : Bool) (fmt : MFmt) (zd : BitVec 4) (ta : BitVec 6) (vb : BitVec 8) (s : State) :
    Host.Outcome State Fault Refusal :=
  issue (.mma c acc fmt zd ta vb) s (fun s v _ =>
    let key := s.cur
    let m := gangSize v.gang
    let n := bRegs fmt m v.width
    let w : LatchWord := { zd := zd.toNat, ta := ta.toNat, acc := acc, fmt := mfNum fmt, vb := vb.toNat, safe := c.safe.isSome,
                           early := (s.ag key).bEarly v n vb.toNat }
    if m = 0 then .error { cause := .illegal }
    else if v.held.isNone ∧ 1 < v.passes then .ok (s.waitTile key s.cycle (some (s.cycle + v.passes - 1)))
    else afterAtoms s (
      let waiting := s.latchWaiters v.ck v.gang
      match s.brokenSlot v.ck v.gang with
      | some x =>
        let t : Trap := { cause := .gangBroken, detail32 := BitVec.ofNat 32 x }
        .ok { s := s.trapMembers waiting t, trap := some t }
      | none =>
        if waiting.length + 1 < m then
          .ok { s := s.setAg key { s.ag key with latch := some w }, wait := .latch }
        else
          let ks := (gangSlots v.gang).map (fun x => 64 * v.ck + x)
          let others := ks.filter (· != key)
          let agree := others.all (fun k => match (s.ag k).latch with
            | some x => x.zd == w.zd && x.ta == w.ta && x.acc == w.acc && x.fmt == w.fmt
            | none => false)
          let e := s.entry v ta
          let stop (t : Trap) : Except Trap Done := .ok { s := s.trapMembers others t, trap := some t }
          if !agree then stop { cause := .gangBroken, detail32 := 0x1F }
          else if e.ill then stop { cause := .ttIllformed }
          else if !aTensOk s v fmt m e.t then stop { cause := .illegal }
          else
            let (chk, s) := s.mxCount v.die v.core (ks.any (fun k => (s.ag k).recheck))
            let q := s.mmaOf v ks w e chk s.cycle
            let s := s.setCo v.ck { s.co v.ck with mmas := insertMma q (s.co v.ck).mmas }
            .ok { s := ks.foldl (fun s k => s.setAg k { s.ag k with wait := .engine, latch := none, recheck := false }) s, wait := .engine }))

/-! ## The engine (R250, R251) -/

/-- The scale bytes of P4 operand A, read by the leader: one for each row and block (R242, R251). -/
def State.aScales (s : State) (key : Nat) (t : Tens) (n : Nat) : Except TStop (List Nat) × State :=
  (List.range n).foldl (fun (acc : Except TStop (List Nat) × State) i =>
    match acc with
    | (.error e, s) => (.error e, s)
    | (.ok l, s) =>
      match s.tRead key 0 (t.scaleAddr i) 1 with
      | (.error e, s) => (.error e, s)
      | (.ok x, s) => (.ok (l ++ [x]), s)) (.ok [], s)

/-- Element (i, k) of operand A from the bytes the engine has read (R241, R242). -/
def Mma.aElem (q : Mma) (f : MFmt) (i k : Nat) : Nat × Nat :=
  let b (j : Nat) : Nat := ((q.abuf[brickOff (16 * q.size) i j]?).getD 0).toNat
  match mfBits f with
  | 16 => (b (2 * k) + 256 * b (2 * k + 1), 0)
  | 8 => (b k, 0)
  | _ => (b (k / 2) / 16 ^ (k % 2) % 16, (q.scales[4 * i + k / 32]?).getD 0)

/-- Remove the `mma` at the head of a core's list. -/
def State.popMma (s : State) (ck : Nat) : State := s.setCo ck { s.co ck with mmas := (s.co ck).mmas.drop 1 }

/-- The engine of a core has ended an `mma`: the next starts in the cycle after, at the earliest (R251). -/
def State.mmaEnd (s : State) (ck : Nat) : State :=
  s.setCo ck { s.co ck with mmas := ((s.co ck).mmas.drop 1).map (fun m => { m with due := max m.due (s.cycle + 1) }) }

/-- Re-insert members that wait for the engine (R251). -/
def State.reinsert (s : State) (ks : List Nat) : State :=
  ks.foldl (fun s k =>
    let a := s.ag k
    if a.live ∧ a.wait = .engine then s.setAg k { a with wait := .none, ready := max a.ready (s.cycle + 1), since := s.cycle + 1, woken := true } else s) s

/-- The results of an `mma` over what it has read and the tile as it stands (R250). -/
def Mma.result (q : Mma) (tile : Tile) : Tab W32 × BitVec 6 :=
  let f := mfmtOf q.word.fmt
  let m := q.image.t.mult
  let per := 64 / q.size
  let bs := (List.range 64).map (fun n => (List.range (mfK f)).map (fun k =>
    bElem ((q.bregs[n / per]?).getD []) q.width f q.size ((q.vbs[n / per]?).getD 0) k (n % per)))
  (List.range (16 * q.size)).foldl (fun (acc : Tab W32 × BitVec 6) i =>
    let as := (List.range (mfK f)).map (fun k => q.aElem f i k)
    bs.zipIdx.foldl (fun acc b =>
      let (x, fl) := mmaElem f m (if q.word.acc then tile.at i b.2 else 0) (as.zip b.1)
      (acc.1 ++ [(64 * i + b.2, BitVec.ofNat 32 x)], acc.2 ||| fl)) acc) ([], 0)

/-- The bytes of A the engine has still to read, as the scratchpad holds them: 512 a cycle (R251). -/
def State.mmaBlocks (s : State) (ck : Nat) (q : Mma) (n : Nat) : List Byte :=
  memBytes (s.co ck).scratch (q.base + q.abuf.length) (min n (1024 * q.size - q.abuf.length))

/-- Words that wait for an `mma` on a core go on now, in the order the core accepted them (R213, R252). -/
def State.wakeTile (s : State) (ck : Nat) : State :=
  { s with agents := s.agents.map (fun p => if p.2.ck = ck ∧ p.2.wait = .tile none then
      (p.1, { p.2 with wait := .tile (some s.cycle), held := p.2.held.map (fun h => (h.1, s.cycle)) }) else p) }

/-- The `mma` at the head ends at its start with a trap of its members; words that wait for it go on (R251, R252). -/
def State.mmaTrap (s : State) (ck : Nat) (ks : List Nat) (t : Trap) : State := ((s.popMma ck).wakeTile ck).trapMembers ks t

/-- The leader of an `mma` whose scale bytes met a page fault stops at that word, with its record (R251). -/
def State.leadFault (s : State) (key : Nat) (tr : Trap) : State :=
  let a := s.ag key
  (s.setAg key { a with pc := a.wpc }).toRing key (s.record key { tr with pc := some a.wpc })

/-- MMA_ENGINE_START (R251): in the cycle it may start in the oldest accepted `mma` reads its members' B, the scale bytes of a P4 A and the
first block of A and, unchecked, re-inserts its members. A page fault of a scale byte holds it until firmware has served the fault. -/
def State.mmaStart (s : State) (die core : Nat) : State :=
  let ck := coreKey die core
  match (s.co ck).mmas with
  | [] => s
  | q :: rest =>
    if q.started ∨ (s.ag q.lead).wait ≠ .engine then s
    else
      let t := q.image.t
      let s := s.advance (q.due - s.cycle)
      if q.word.acc && !(s.tile ck q.word.zd).valid then s.mmaTrap ck q.members { cause := .zinvalid }
      else if (s.co ck).badAt q.base (1024 * q.size) then s.mmaTrap ck q.members (loadTrap .data 0xFF (BitVec.ofNat 64 t.base))
      else
        let sc := if mfmtOf q.word.fmt = .p4 then s.aScales q.lead t (64 * q.size) else (.ok [], s)
        match sc with
        | (.error (.stop k st ea), s) =>
          let tr := stopTrap k (st, 0xFF, ea)
          match st with
          | .fault _ _ => s.leadFault q.lead tr
          | _ => s.mmaTrap ck q.members tr
        | (.error (.abort _ e ea), s) => s.mmaTrap ck q.members (loadTrap e 0xFF ea)
        | (.ok scales, s) =>
          let n := bRegs (mfmtOf q.word.fmt) q.size q.width
          let bs := (q.members.zip (q.vbs.zip q.bregs)).map (fun p => (s.ag p.1).bPart n p.2.1 p.2.2)
          let q := { q with started := true, begun := s.cycle, scales := scales, bregs := bs, abuf := s.mmaBlocks ck { q with abuf := [] } 512 }
          let s := s.setCo ck { s.co ck with mmas := q :: rest }
          if q.checked then s else s.reinsert q.members

/-- The next block of A is read (R251). -/
def State.mmaRead (s : State) (ck : Nat) : State :=
  match (s.co ck).mmas with
  | [] => s
  | q :: rest => s.setCo ck { s.co ck with mmas := { q with abuf := q.abuf ++ s.mmaBlocks ck q 512 } :: rest }

/-- The difference a self-check finds, from the core's fault input: row, column and chunk of the lowest one, over the rows the `mma` computes
(R112; log 9). -/
def mxDiff (upset : Option Nat) (rows : Nat) : Option (Nat × Nat × Nat) :=
  match upset with
  | some e => if e / 64 % 64 < rows then some (e / 64 % 64, e % 64, e / 4096 % 2) else none
  | none => none

/-- What a self-check that differs says of row `r`, column `c`, chunk `h`: the record's DETAIL32 (R112, R313). -/
def mxDetail (r c h : Nat) : W32 := BitVec.ofNat 32 (r + 64 * c + 4096 * h + 8192 * (r % 16) + 2 ^ 17 * ((r + 1) % 16))

/-- MMA_TILE_WRITE (R251): the tile and the flags in the last cycle; a self-check that differs writes nothing and traps MXCHK on every
member (R112). Of an `mma` replayed after one, the error is transient or lasting (R447). -/
def State.mmaWrite (s : State) (die core : Nat) : State :=
  let ck := coreKey die core
  match (s.co ck).mmas with
  | [] => s
  | q :: _ =>
    if !q.started then s
    else
      let q := { q with abuf := q.abuf ++ s.mmaBlocks ck q 4096 }
      let s := ((s.advance (q.last - s.cycle)).mmaEnd ck).wakeTile ck
      let c := s.co ck
      let s := if q.checked then s.setCo ck { c with mxUpset := none } else s
      match (if q.checked then mxDiff c.mxUpset (16 * q.size) else none) with
      | some (r, col, h) =>
        let s := if q.again then s.lastingOf (s.ag q.lead).retryTime die 0x09 core 0 0xFF else s
        let s := q.members.foldl (fun s k => s.setAg k { s.ag k with recheck := true, retryTime := s.ptbAt ioNode }) s
        s.trapMembers q.members { cause := .mxchk, replay := true, detail32 := mxDetail r col h }
      | none =>
        let s := if q.again then s.transientOf (s.ag q.lead).retryTime die 0x09 core 0 0xFF else s
        let t := s.tile ck q.word.zd
        let x := q.result t
        let s := s.putTile ck q.word.zd { t with el := x.1.foldl (fun e p => tput e p.1 p.2) t.el, valid := t.valid || !q.word.acc }
        let s := q.members.foldl (fun s k => if (s.ag k).team = q.team then s.setAg k { s.ag k with flags := (s.ag k).flags ||| x.2 } else s) s
        if q.checked then s.reinsert q.members else s

/-- MMA_ENGINE_START. -/
def execMmaEngineStart (die core : Nat) (s : State) : Host.Outcome State Fault Refusal := .next (s.mmaStart die core)
/-- MMA_TILE_WRITE. -/
def execMmaTileWrite (die core : Nat) (s : State) : Host.Outcome State Fault Refusal := .next (s.mmaWrite die core)

/-- Whether the core accepted an `mma` before a word accepted in cycle `c` from a slot (R252). -/
def Mma.before (m : Mma) (c slot : Nat) : Bool := decide (m.latched < c) || (m.latched == c && decide (m.lead % 64 < slot))

/-- The cycle in which a core accepted the word an agent runs: that of its first pass (R252). -/
def State.accepted (s : State) (v : Agent) : Nat := (v.held.map (·.1)).getD s.cycle

/-- An agent whose word cannot go on in this cycle: it issues the same word again in the next one. -/
def State.stall (s : State) (key : Nat) : Done := { s := s.setAg key { s.ag key with ready := s.cycle + 1 }, gone := true }

/-- A word on a tile: after every `mma` on it that the core accepted earlier (R252). -/
def withTile (s : State) (v : Agent) (z : Nat) (f : State → Except Trap Done) : Except Trap Done :=
  if (s.co v.ck).mmas.any (fun m => m.word.zd == z && m.before (s.accepted v) v.slot) then .ok (s.waitTile s.cur (s.accepted v) none) else f s

/-- ZCLR (R253). -/
def execZclr (c : Ctl) (z : BitVec 4) (s : State) : Host.Outcome State Fault Refusal :=
  issue (.zclr c z) s (fun s v _ => withTile s v z.toNat (fun s =>
    let t := s.tile v.ck z.toNat
    .ok { s := s.putTile v.ck z.toNat { t with valid := true, el := [] } }))

/-- ZWR (R254). -/
def execZwr (c : Ctl) (z : BitVec 4) (va : BitVec 8) (row : SSrc) (s : State) : Host.Outcome State Fault Refusal :=
  issue (.zwr c z va row) s (fun s v act =>
    let r := (v.ssrc false false row).toNat
    if 63 < r then .error { cause := .illegal }
    else withTile s v z.toNat (fun s =>
      let t := s.tile v.ck z.toNat
      let js := (List.range 64).filter (fun j => act.getLsbD (j % v.width))
      let el := js.foldl (fun e j => tput e (64 * r + j) (v.v32 (va.toNat + j / v.width) (j % v.width))) t.el
      let rows := if act = allLanes v.width then t.rows ||| BitVec.twoPow 64 r else t.rows
      .ok { s := s.putTile v.ck z.toNat ⟨t.valid || rows == allLanes 64, rows, el⟩ }))

/-- The conversion of a tile element (R255). -/
def zConv (f : Fmt) (x : Nat) (rnd : Rnd) (sat : Bool) : Nat × BitVec 6 :=
  if f = .f32 ∨ f = .i32 then (x, 0)
  else if f.isInt then intToInt f (Fmt.int .i32 x) sat
  else elemRound f (ff32.value x) rnd sat 0

/-- ZRD (R255). -/
def execZrd (c : Ctl) (o : ZrdOp) (s : State) : Host.Outcome State Fault Refusal :=
  issue (.zrd c o) s (fun s v act =>
    let r := (v.ssrc false false o.row).toNat
    if 63 < r then .error { cause := .illegal }
    else withTile s v o.z.toNat (fun s =>
      let t := s.tile v.ck o.z.toNat
      if !t.valid then .ok { s := s, trap := some { cause := .zinvalid } }
      else
        let cs := ((List.range 64).filter (fun j => act.getLsbD (j % v.width))).map (fun j => (j, zConv o.fmt (t.at r j) o.rnd o.sat))
        let ws := (List.range (64 / max 1 v.width)).map (fun q =>
          (RegW.v (o.d.toNat + q) ((cs.filter (fun x => x.1 / v.width == q)).map (fun x => (x.1 % v.width, BitVec.ofNat 32 x.2.1)))))
        .ok { s := s, ws := ws, fl := cs.foldl (fun fl x => fl ||| x.2.2) 0 }))

/-- VFLAGS (R213): waits for every `mma` of its gang and every earlier result of the group, then takes and clears the flag word. -/
def execVflags (c : Ctl) (d : BitVec 6) (s : State) : Host.Outcome State Fault Refusal :=
  issue (.vflags c d) s (fun s v _ =>
    let key := s.cur
    let a := s.ag key
    if (s.co v.ck).mmas.any (fun m => m.members.contains key) then .ok (s.waitTile key (s.accepted v) none)
    else if s.cycle < a.landed s.cycle then .ok (s.waitTile key (s.accepted v) (some (a.landed s.cycle)))
    else .ok { s := s.setAg key { a with flags := 0 }, ws := [.s d.toNat (a.flags.setWidth 32)] })

end Sys2Proof.Machine
end

