-- ==== Sys2Proof/Machine/Tew.lean ====
section
/-! DEFINITION. Element-wise tensor sweeps (R265–R270) and the fused epilogue (R256–R261, R512). -/

namespace Sys2Proof.Machine

/-! ## Elements of a sweep -/

/-- The exact value of a source element times its multiplier; NV when it is signalling (R267). -/
def State.tValue (s : State) (key lane : Nat) (t : Tens) (idx : List Nat) : Except TStop (Ex × BitVec 6) × State :=
  match s.tElem key lane t idx with
  | (.error e, s) => (.error e, s)
  | (.ok (x, sb), s) =>
    let v := elemValue t.f x sb
    let fl := flIf v.isSig flNV
    (.ok (if (t.f = .e4m3 ∨ t.f = .e5m2) then (v.mul t.mult).1 else v, fl), s)

/-- A source element rounded to FP32 (R267): its pattern and flags. -/
def State.tF32 (s : State) (key lane : Nat) (t : Tens) (idx : List Nat) : Except TStop (Nat × BitVec 6) × State :=
  match s.tValue key lane t idx with
  | (.error e, s) => (.error e, s)
  | (.ok (x, fl), s) =>
    let (b, fr) := roundTo ff32 x .rn false 0
    (.ok (b, fl ||| fr), s)

/-- The generator draw of the axis-0 index `j` in a group of width `w`, and the generators after it (R99). -/
def drawFor (rng : Tab (BitVec 128)) (w j : Nat) : Nat × Tab (BitVec 128) :=
  let l := j % max 1 w
  let (r, g) := rngDraw (tget rng l)
  (r, tput rng l g)

/-- What a sweep carries from element to element: the state, its generators, its flags. -/
structure Sweep where
  s   : State
  rng : Tab (BitVec 128)
  fl  : BitVec 6

/-- A write in a sweep: an abort is a store abort of the actor and the element is dropped (R218), when `soft`. -/
def State.sweepPut (s : State) (key : Nat) (soft : Bool) (r : Option TStop × State) : Option TStop × State :=
  match r with
  | (some (.abort .write e ea), s') => if soft then (none, s'.storeAbort key ea.toNat e.cause) else (some (.abort .write e ea), s')
  | (x, s') => let _ := s; (x, s')

/-- One unit of a sweep: the element at linear index `k`, or the P4 block that begins there. `comp` gives the exact result of an
element with its flags; `conv` its pattern in a destination that is not P4. -/
def sweepUnit (key lane w : Nat) (soft : Bool) (t : Tens) (rnd : Rnd)
    (comp : State → List Nat → Except TStop (Ex × BitVec 6) × State) (conv : Ex → Nat → Nat × BitVec 6) (z : Sweep) (k : Nat) : Except (TStop × Sweep) Sweep :=
  if t.f = .p4 then
    let r := (List.range 32).foldl (fun (acc : Except TStop (List Ex × BitVec 6) × State) i =>
      match acc with
      | (.error e, s) => (.error e, s)
      | (.ok (l, fl), s) =>
        match comp s (t.idx (k + i)) with
        | (.error e, s) => (.error e, s)
        | (.ok (x, f), s) => (.ok (l ++ [x], fl ||| f), s)) (.ok ([], 0), z.s)
    match r with
    | (.error e, s) => .error (e, { z with s := s })
    | (.ok (xs, fl), s) =>
      let (ef, f0) := p4BlockE .f xs
      let c := xs.zipIdx.foldl (fun (acc : List Nat × BitVec 6 × Tab (BitVec 128)) x =>
        let (d, g) := if rnd = .sr then drawFor acc.2.2 w ((t.idx (k + x.2)).headD 0) else (0, acc.2.2)
        let (code, f) := p4Elem .f ef x.1 rnd d
        (acc.1 ++ [code], acc.2.1 ||| f, g)) ([], f0, z.rng)
      match s.sweepPut key soft (s.tPutBlock key lane t k c.1 (p4Scale .f ef)) with
      | (some e, s) => .error (e, { z with s := s })
      | (none, s) => .ok ⟨s, c.2.2, z.fl ||| fl ||| c.2.1⟩
  else
    match comp z.s (t.idx k) with
    | (.error e, s) => .error (e, { z with s := s })
    | (.ok (x, f), s) =>
      let (d, g) := if rnd = .sr then drawFor z.rng w ((t.idx k).headD 0) else (0, z.rng)
      let (b, fr) := conv x d
      match s.sweepPut key soft (s.tPut key lane t (t.idx k) b) with
      | (some e, s) => .error (e, { z with s := s })
      | (none, s) => .ok ⟨s, g, z.fl ||| f ||| fr⟩

/-- A sweep over linear indices from `k` in steps of `u`: where it stops, if it does (R269). -/
def sweepFrom (unit : Sweep → Nat → Except (TStop × Sweep) Sweep) (u : Nat) : Nat → Nat → Sweep → Sweep × Option (Nat × TStop)
  | 0, _, z => (z, none)
  | fuel + 1, k, z =>
    match unit z k with
    | .error (e, z) => (z, some (k, e))
    | .ok z => sweepFrom unit u fuel (k + u) z

/-- Elements of a unit of a destination. -/
def Tens.unit (t : Tens) : Nat := if t.f = .p4 then 32 else 1

/-- The linear index an entry's counters name; in a P4 destination, where `ttidx` can set them within a block, that of the block's first element,
as a page fault leaves them (R269; log 98). -/
def TEntry.start (e : TEntry) : Nat :=
  let t := e.t
  let k := linOf (t.ext.take t.rank) ((List.range t.rank).map (fun j => (tget e.idx j).toNat))
  k / t.unit * t.unit

/-- Counters that name a linear index. -/
def Tens.counters (t : Tens) (k : Nat) : Tab (BitVec 24) := (t.idx k).zipIdx.map (fun p => (p.2, BitVec.ofNat 24 p.1))

/-- Set the counters of an entry. -/
def State.putIdx (s : State) (team n : Nat) (idx : Tab (BitVec 24)) : State :=
  let t := s.tm team
  s.setTm team { t with tt := tput t.tt n { t.entry n with idx := idx } }

/-! ## tew (R265–R270) -/

/-- Formats of every form but `.copy` and `.cvt` (R266). -/
def Fmt.tewOk : Fmt → Bool
  | .f32 | .f16 | .bf16 | .e4m3 | .e5m2 | .p4 => true
  | _ => false

/-- Whether a source's shape suits a destination's, axis `skip` apart (R266). -/
def shapeOk (d t : Tens) (skip : Option Nat) : Bool :=
  t.rank == d.rank && (List.range d.rank).all (fun j => skip == some j || t.ex j == d.ex j || t.bc j)

/-- The checks of a `tew` on its destination and sources, in order: ill-formed entries, shapes and formats, a weight-store
destination (R108, R265, R266). -/
def tewCheck (d : TEntry) (src : List TEntry) (fmtsOk shapesOk : Bool) : Option Trap :=
  if d.ill || src.any TEntry.ill then some { cause := .ttIllformed }
  else if !shapesOk || !fmtsOk then some { cause := .illegal }
  else if d.t.aper = .ws then some { cause := .addr, addr := BitVec.ofNat 64 d.t.base }
  else none

/-- What a stopped sweep leaves of its flags: a trap raises none (R102), but a page fault, after which the replay goes on at the counters, keeps
those of the elements written (R269; log 88). -/
def TStop.flags (e : TStop) (fl : BitVec 6) : BitVec 6 :=
  match e with
  | .stop _ (.fault _ _) _ => fl
  | _ => 0

/-- Run a `tew` (R269, R270): earlier accesses first, the sweep from the counters, and the counters at its end or where it stops. -/
def runTew (i : Instr) (s : State) (o : TewC) (src : State → Agent → List TEntry) (ok : Tens → List Tens → Bool × Bool)
    (comp : Agent → List Tens → Nat → Nat → State → List Nat → Except TStop (Ex × BitVec 6) × State) (conv : Tens → List Tens → Ex → Nat → Nat × BitVec 6) :
    Host.Outcome State Fault Refusal :=
  issue i s (fun s v act =>
    let key := s.cur
    let d := s.entry v o.td
    let es := src s v
    let ts := es.map TEntry.t
    let (fo, so) := ok d.t ts
    match tewCheck d es fo so with
    | some t => .error t
    | none => afterAtoms s (
      let s := s.drainAll key
      let lane := (lanesOf act).headD 0
      let k := d.start
      let u := d.t.unit
      let n := d.t.count
      let (z, stop) := sweepFrom (sweepUnit key lane v.width true d.t o.rnd (comp v ts key lane) (conv d.t ts)) u ((n - k + u - 1) / u) k ⟨s, (s.ag key).rng, 0⟩
      let s := z.s
      let s := s.setAg key { s.ag key with rng := z.rng }
      match stop with
      | none => .ok { s := (s.putIdx v.team o.td.toNat []).advance ((n - k + 15) / 16), fl := z.fl }
      | some (k, e) =>
        let s := s.putIdx v.team o.td.toNat (d.t.counters k)
        let a := s.ag key
        .ok { s := s.setAg key { a with flags := a.flags ||| e.flags z.fl }, trap := some (e.trap 0xFF) }))

/-- The conversion of a result into a destination other than P4: RoundTo with SAT, which takes an infinity to the largest value under `.sat` (R267;
log 99). -/
def tewConv (o : TewC) (d : Tens) (_ : List Tens) (x : Ex) (draw : Nat) : Nat × BitVec 6 :=
  elemRound d.f (if d.f = .e4m3 ∨ d.f = .e5m2 then x.div d.mult else x) o.rnd o.sat draw

/-- The FP32 patterns of the sources at an index, with their flags. -/
def State.tArgs (s : State) (key lane : Nat) (idx : List Nat) : List Tens → Except TStop (List Nat × BitVec 6) × State
  | [] => (.ok ([], 0), s)
  | t :: ts =>
    match s.tF32 key lane t idx with
    | (.error e, s) => (.error e, s)
    | (.ok (x, fl), s) =>
      match s.tArgs key lane idx ts with
      | (.ok (xs, fr), s) => (.ok (x :: xs, fl ||| fr), s)
      | r => r

/-- The exact result of an element of a form over FP32 patterns, with its flags (R267). -/
def mapElem (f : State → Agent → List Nat → Ex × BitVec 6) (v : Agent) (ts : List Tens) (key lane : Nat) (s : State) (idx : List Nat) :
    Except TStop (Ex × BitVec 6) × State :=
  match s.tArgs key lane idx ts with
  | (.error e, s) => (.error e, s)
  | (.ok (xs, fl), s) =>
    let (y, fr) := f s v xs
    (.ok (y, fl ||| fr), s)

/-- Formats and shapes every form but `.copy` and `.cvt` takes (R266). -/
def mapOk (d : Tens) (ts : List Tens) : Bool × Bool :=
  (Fmt.tewOk d.f && ts.all (fun t => Fmt.tewOk t.f), ts.all (fun t => shapeOk d t none))

/-- An element-wise form over FP32 patterns: `f` gives the exact result and its flags. -/
def tewMap (i : Instr) (s : State) (o : TewC) (srcs : List (BitVec 6)) (f : State → Agent → List Nat → Ex × BitVec 6) : Host.Outcome State Fault Refusal :=
  runTew i s o (fun s v => srcs.map (s.entry v)) mapOk (mapElem f) (tewConv o)

/-- The `i`-th pattern as a value. -/
def argV (xs : List Nat) (i : Nat) : Ex := ff32.value ((xs[i]?).getD 0)

/-- TEW_ADD (R265). -/
def execTewAdd (c : Ctl) (o : TewC) (tb : BitVec 6) (s : State) : Host.Outcome State Fault Refusal :=
  tewMap (.tewAdd c o tb) s o [o.ta, tb] (fun _ _ xs => (argV xs 0).add o.rnd (argV xs 1))
/-- TEW_SUB (R265). -/
def execTewSub (c : Ctl) (o : TewC) (tb : BitVec 6) (s : State) : Host.Outcome State Fault Refusal :=
  tewMap (.tewSub c o tb) s o [o.ta, tb] (fun _ _ xs => (argV xs 0).add o.rnd (argV xs 1).neg)
/-- TEW_MUL (R265). -/
def execTewMul (c : Ctl) (o : TewC) (tb : BitVec 6) (s : State) : Host.Outcome State Fault Refusal :=
  tewMap (.tewMul c o tb) s o [o.ta, tb] (fun _ _ xs => (argV xs 0).mul (argV xs 1))
/-- TEW_FMA (R265). -/
def execTewFma (c : Ctl) (o : TewC) (tb tc : BitVec 6) (s : State) : Host.Outcome State Fault Refusal :=
  tewMap (.tewFma c o tb tc) s o [o.ta, tb, tc] (fun _ _ xs => Ex.fma o.rnd (argV xs 0) (argV xs 1) (argV xs 2))

/-- Minimum or maximum as an exact result (R197, R265). -/
def tewMM (isMax : Bool) (xs : List Nat) : Ex × BitVec 6 :=
  let (b, fl) := fMinMax ff32 isMax ((xs[0]?).getD 0) ((xs[1]?).getD 0) 0
  (ff32.value b, fl)

/-- TEW_MIN (R265). -/
def execTewMin (c : Ctl) (o : TewC) (tb : BitVec 6) (s : State) : Host.Outcome State Fault Refusal :=
  tewMap (.tewMin c o tb) s o [o.ta, tb] (fun _ _ xs => tewMM false xs)
/-- TEW_MAX (R265). -/
def execTewMax (c : Ctl) (o : TewC) (tb : BitVec 6) (s : State) : Host.Outcome State Fault Refusal :=
  tewMap (.tewMax c o tb) s o [o.ta, tb] (fun _ _ xs => tewMM true xs)
/-- TEW_SCALE (R265). -/
def execTewScale (c : Ctl) (o : TewC) (sb : BitVec 6) (s : State) : Host.Outcome State Fault Refusal :=
  tewMap (.tewScale c o sb) s o [o.ta] (fun _ v xs => (argV xs 0).mul (ff32.value (v.s32 sb.toNat).toNat))

/-- TEW_EXP2 (R265). -/
def execTewExp2 (c : Ctl) (o : TewC) (s : State) : Host.Outcome State Fault Refusal :=
  tewMap (.tewExp2 c o) s o [o.ta] (fun _ _ xs =>
    let (b, fl) := sfu 3 ((xs[0]?).getD 0)
    (ff32.value b, fl))

/-- `.relu` of R256 on a pattern. -/
def relu (x : Nat) : Nat × BitVec 6 :=
  match ff32.value x with
  | .nan sig => (ff32.nanBits, flIf sig flNV)
  | v => if (Ex.fin false 0 0).lt v then (x, 0) else (0, 0)

/-- TEW_RELU (R265). -/
def execTewRelu (c : Ctl) (o : TewC) (s : State) : Host.Outcome State Fault Refusal :=
  tewMap (.tewRelu c o) s o [o.ta] (fun _ _ xs =>
    let (b, fl) := relu ((xs[0]?).getD 0)
    (ff32.value b, fl))

/-- TEW_SELECT (R265): ±0 count as zero, NaN as nonzero. -/
def execTewSelect (c : Ctl) (o : TewC) (tb tc : BitVec 6) (s : State) : Host.Outcome State Fault Refusal :=
  tewMap (.tewSelect c o tb tc) s o [o.ta, tb, tc] (fun _ _ xs => (if (argV xs 2).isZero then argV xs 1 else argV xs 0, 0))

/-- Formats and shapes of `.cvt`: P4 is no source (R204), and RND = 4 takes no floating-point source to an integer (R96, R100). -/
def cvtOk (o : TewC) (d : Tens) (ts : List Tens) : Bool × Bool :=
  (ts.all (fun t => t.f != .p4) && (o.rnd != .sr || !d.f.isInt || ts.all (fun t => t.f.isInt)), ts.all (fun t => shapeOk d t none))

/-- Whether `.sat` acts on a value of format `src` that goes into format `dst`: an infinity goes over as it is into a format that holds it, where
R100 is exact and R258 and R267 write RoundTo with SAT (log 99). -/
def satOf (sat : Bool) (dst src : Fmt) (x : Ex) : Bool := sat && !(x.isInf && fmtHolds dst src)

/-- The result of `.cvt` in a destination other than P4, from the exact value (R100, R267). -/
def cvtConv (o : TewC) (d : Tens) (ts : List Tens) (x : Ex) (draw : Nat) : Nat × BitVec 6 :=
  if d.f.isInt && (ts.headD d).f.isInt then
    intToInt d.f (match x with | .fin n m _ => signed n m | _ => 0) o.sat
  else tewConv { o with sat := satOf o.sat d.f (ts.headD d).f x } d ts x draw

/-- TEW_CVT (R265, R267): from the exact value. -/
def execTewCvt (c : Ctl) (o : TewC) (s : State) : Host.Outcome State Fault Refusal :=
  runTew (.tewCvt c o) s o (fun s v => [s.entry v o.ta]) (cvtOk o) (fun _ ts key lane s idx => s.tValue key lane (ts.headD (tensOf 0)) idx) (cvtConv o)

/-- One unit of `.copy`: raw bits, or the codes and the scale byte of a P4 block. -/
def copyUnit (key lane : Nat) (d e : Tens) (z : Sweep) (k : Nat) : Except (TStop × Sweep) Sweep :=
  let r := (List.range d.unit).foldl (fun (acc : Except TStop (List Nat × Nat) × State) i =>
    match acc with
    | (.error e, s) => (.error e, s)
    | (.ok (l, sb), s) =>
      match s.tElem key lane e (d.idx (k + i)) with
      | (.error e, s) => (.error e, s)
      | (.ok (x, b), s) => (.ok (l ++ [x], if i = 0 then b else sb), s)) (.ok ([], 0), z.s)
  match r with
  | (.error e, s) => .error (e, { z with s := s })
  | (.ok (xs, sb), s) =>
    match s.sweepPut key true (if d.f = .p4 then s.tPutBlock key lane d k xs sb else s.tPut key lane d (d.idx k) (xs.headD 0)) with
    | (some e, s) => .error (e, { z with s := s })
    | (none, s) => .ok { z with s := s }

/-- TEW_COPY (R265): equal formats, raw bits; P4 codes and the scale byte of each block. -/
def execTewCopy (c : Ctl) (o : TewC) (s : State) : Host.Outcome State Fault Refusal :=
  issue (.tewCopy c o) s (fun s v act =>
    let key := s.cur
    let d := s.entry v o.td
    let e := s.entry v o.ta
    match tewCheck d [e] (d.t.f == e.t.f) (shapeOk d.t e.t none) with
    | some t => .error t
    | none => afterAtoms s (
      let s := s.drainAll key
      let k := d.start
      let u := d.t.unit
      let n := d.t.count
      let (z, stop) := sweepFrom (copyUnit key ((lanesOf act).headD 0) d.t e.t) u ((n - k + u - 1) / u) k ⟨s, [], 0⟩
      match stop with
      | none => .ok { s := (z.s.putIdx v.team o.td.toNat []).advance ((n - k + 15) / 16) }
      | some (k, e) => .ok { s := z.s.putIdx v.team o.td.toNat (d.t.counters k), trap := some (e.trap 0xFF) }))

/-- One step of a reduction on FP32 patterns (R268). -/
def redStep (r : TRed) (a b : Nat) : Nat × BitVec 6 :=
  match r with
  | .add => fAdd ff32 .rn a b 0
  | .max => fMinMax ff32 true a b 0
  | .min => fMinMax ff32 false a b 0

/-- The reduction of a source along an axis from index 0 up, at the destination's other indices (R268). -/
def redElem (r : TRed) (axis : Nat) (ts : List Tens) (key lane : Nat) (s : State) (idx : List Nat) : Except TStop (Ex × BitVec 6) × State :=
  let t := ts.headD (tensOf 0)
  let q := (List.range (t.ex axis)).foldl (fun (acc : Except TStop (Option Nat × BitVec 6) × State) j =>
    match acc with
    | (.error e, s) => (.error e, s)
    | (.ok (a, fl), s) =>
      match s.tF32 key lane t (idx.set axis j) with
      | (.error e, s) => (.error e, s)
      | (.ok (x, fx), s) =>
        match a with
        | none => (.ok (some x, fl ||| fx), s)
        | some a =>
          let (y, fy) := redStep r a x
          (.ok (some y, fl ||| fx ||| fy), s)) (.ok (none, 0), s)
  match q with
  | (.error e, s) => (.error e, s)
  | (.ok (a, fl), s) => (.ok (ff32.value (a.getD 0), fl), s)

/-- Formats and shapes of a reduction: the destination's axis has extent 1 (R266, R268). -/
def redOk (axis : Nat) (d : Tens) (ts : List Tens) : Bool × Bool :=
  (Fmt.tewOk d.f && ts.all (fun t => Fmt.tewOk t.f), d.ex axis == 1 && decide (axis < d.rank) && ts.all (fun t => shapeOk d t (some axis)))

/-- A reduction along an axis (R268). -/
def runReduce (i : Instr) (s : State) (r : TRed) (o : TewC) (axis : Nat) : Host.Outcome State Fault Refusal :=
  runTew i s o (fun s v => [s.entry v o.ta]) (redOk axis) (fun _ => redElem r axis) (tewConv o)

/-- TEW_RROW (R268). -/
def execTewRrow (c : Ctl) (r : TRed) (o : TewC) (s : State) : Host.Outcome State Fault Refusal := runReduce (.tewRrow c r o) s r o 0
/-- TEW_RCOL (R268). -/
def execTewRcol (c : Ctl) (r : TRed) (o : TewC) (s : State) : Host.Outcome State Fault Refusal := runReduce (.tewRcol c r o) s r o 1

/-! ## The fused epilogue (R256–R258) -/

/-- The activations of R256 on an FP32 pattern. -/
def actFn (act : Nat) (y : Nat) : Nat × BitVec 6 :=
  let v := ff32.value y
  let sig (y : Nat) : Nat × BitVec 6 :=
    let (h, f0) := fMul ff32 .rn 0x3F000000 y 0
    let (t, f1) := sfu 7 h
    let (r, f2) := fFma ff32 .rn 0x3F000000 t 0x3F000000
    (r, (f0 &&& flNV) ||| f1 ||| f2)
  match act with
  | 0 => (y, 0)
  | 1 => relu y
  | 2 => if v.isNan then (ff32.nanBits, flIf v.isSig flNV) else if v.isZero || (Ex.fin false 0 0).lt v then (y, 0) else fMul ff32 .rn y 0x3D800000 0
  | 3 => sfu 7 y
  | 4 => let (r, fl) := sig (ftz y); (ftz r, fl)
  | _ =>
    let (r, fl) := sig (ftz y)
    let (p, fp) := fMul ff32 .rn (ftz y) (ftz r) 0
    (ftz p, fl ||| fp)

def Act.num : Act → Nat | .none => 0 | .relu => 1 | .lrelu => 2 | .tanh => 3 | .sigm => 4 | .silu => 5

/-- Whether an entry an `epi` names is ill formed (R257). -/
def epiIll (d : TEntry) (b : Option TEntry) : Bool := d.ill || (match b with | some e => e.ill | none => false)

/-- The checks of R257 on the destination and bias entries, and that a global destination has a courier context on the core (R260): ILLEGAL, and ADDR
of a weight-store destination; RND = 4 takes no integer destination (R100). -/
def epiCheck (rnd : Rnd) (d : TEntry) (b : Option TEntry) (courier : Option Nat) : Option Trap :=
  let t := d.t
  let dstOk := t.rank == 2 && t.bcast == 0 && t.ex 0 ≤ 64 && t.ex 1 ≤ 64
  let bOk := match b with
    | none => true
    | some e => e.t.rank == 1 && (e.t.f == .f32 || e.t.f == .f16 || e.t.f == .bf16) && (decide (t.ex 0 ≤ e.t.ex 0) || e.t.bc 0) &&
        (t.aper != .spad || e.t.aper == .spad)
  if !dstOk || !bOk || (rnd == .sr && t.f.isInt) then some { cause := .illegal }
  else if t.aper = .ws then some { cause := .addr, addr := BitVec.ofNat 64 t.base }
  else if t.aper = .global ∧ courier = none then some { cause := .illegal }
  else none

/-- The value of an epilogue element before its last rounding (R258): z·s + b rounded once, then the activation. -/
def State.epiValue (s : State) (key lane : Nat) (snap : Tab W32) (t : Tens) (bias : Option Tens) (scale : W32) (act : Nat) (idx : List Nat) :
    Except TStop (Ex × BitVec 6) × State :=
  let j := idx.headD 0
  let i := (idx[1]?).getD 0
  let raw := (tget snap (64 * i + j)).toNat
  let (zb, fz) := if t.f.isInt then roundTo ff32 (exInt (Fmt.int .i32 raw)) .rn false 0 else (raw, 0)
  let b := match bias with
    | none => ((.ok (0, 0), s) : Except TStop (Nat × BitVec 6) × State)
    | some bt =>
      match s.tValue key lane bt [j] with
      | (.error e, s) => (.error e, s)
      | (.ok (x, fl), s) =>
        let (y, fr) := roundTo ff32 x .rn false 0
        (.ok (y, fl ||| fr), s)
  match b with
  | (.error e, s) => (.error e, s)
  | (.ok (bb, fb), s) =>
    let (y, fy) := fFma ff32 .rn zb scale.toNat bb
    let (x, fx) := actFn act y
    (.ok (ff32.value x, fz ||| fb ||| fy ||| fx), s)

/-- The unit of an epilogue's sweep. -/
def epiUnit (key lane w : Nat) (soft : Bool) (t : Tens) (bias : Option Tens) (snap : Tab W32) (scale : W32) (act : Nat) (rnd : Rnd) (sat : Bool) :
    Sweep → Nat → Except (TStop × Sweep) Sweep :=
  sweepUnit key lane w soft t rnd (fun s idx => s.epiValue key lane snap t bias scale act idx)
    (fun x d => elemRound t.f (if t.f = .e4m3 ∨ t.f = .e5m2 then x.div t.mult else x) rnd (satOf sat t.f .f32 x) d)

/-- Generators after every draw a command takes from its copy (R99). -/
def stepAll (rng : Tab (BitVec 128)) (w e0 e1 : Nat) : Tab (BitVec 128) :=
  (List.range (min w e0)).foldl (fun t l => tput t l (rngStep (e1 * ((e0 - l + w - 1) / w)) (tget t l))) rng

/-- The courier context of a team on a core, by its agent key (R36). -/
def State.courierOn (s : State) (team ck : Nat) : Option Nat :=
  (s.agents.find? (fun p => p.2.kind == .courier && p.2.team == team && p.2.ck == ck)).map (·.1)

/-! ## Receipts (R37, R38) -/

def CCtx.rcpt (c : CCtx) (q : Nat) : Rcpt := (tfind c.rcpts q).getD ⟨0, 0, 0, 0⟩

/-- A command names a receipt (R38). -/
def CCtx.name (c : CCtx) (q : Nat) : CCtx :=
  let r := c.rcpt q
  { c with rcpts := tput c.rcpts q (if r.count = 0 then ⟨1, 1, 0, 0⟩ else { r with count := r.count + 1 }) }

/-- The rank of an outcome in R38's order, highest last. -/
def outRank : Nat → Nat | 2 => 1 | 5 => 2 | 4 => 3 | 3 => 4 | _ => 0

/-- A command completes with an outcome and flags (R38). -/
def CCtx.complete (c : CCtx) (q out : Nat) (fl : BitVec 8) : CCtx :=
  let r := c.rcpt q
  let held := if outRank r.held < outRank out then out else r.held
  let r' : Rcpt := { count := r.count - 1, status := if r.count = 1 then held else r.status, flags := r.flags ||| fl, held := held }
  { c with rcpts := tput c.rcpts q r' }

def CCtx.queue (c : CCtx) (q : Nat) : List Cmd := tget c.queues q

/-- Place a command at the end of a queue. -/
def CCtx.push (c : CCtx) (q : Nat) (x : Cmd) : CCtx := { c with queues := tput c.queues q (c.queue q ++ [x]) }

/-- Epilogue commands of a courier context, each with a snapshot in its core's staging (R260). -/
def CCtx.snapshots (c : CCtx) : Nat := ((c.queue 5).filter (fun x => x.kind == .epi)).length

/-- Snapshots in a core's epilogue staging (R260). -/
def State.staging (s : State) (ck : Nat) : Nat :=
  (s.agents.filter (fun p => p.2.kind == .courier && p.2.ck == ck)).foldl (fun n p => n + (s.cc p.1).snapshots) 0

/-- Whether a global `epi` may issue (R260): the eq of its courier context, the core's staging and the receipt have room. -/
def State.epiRoom (s : State) (ck courier q : Nat) : Bool :=
  decide (((s.cc courier).queue 5).length < 32) && decide (s.staging ck < 8) && decide (((s.cc courier).rcpt q).count < 255)

/-- A global `epi` becomes a command of the eq with a copy of the group's generators, which step past its draws (R99, R260). The command's
reads see every earlier write of the group: a release at `.die` (R337, R353). -/
def State.placeEpi (s : State) (v : Agent) (o : EpiOp) (courier : Nat) (d : TEntry) (b : Option TEntry) (snap : Tab W32) : State :=
  let key := s.cur
  let s := s.release key .die
  let x : Cmd := { kind := .epi, dst := d, third := b.getD ⟨false, 0, []⟩, hasThird := b.isSome, rcpt := o.rcpt.toNat,
                   scale := v.s32 o.sc.toNat, act := Act.num o.act, sat := o.sat, rnd := o.rnd, snap := snap, rng := v.rng, width := v.width,
                   placed := s.cycle }
  let s := s.setCc courier (((s.cc courier).name o.rcpt.toNat).push 5 x)
  let a := s.ag key
  let s := if o.rnd = .sr then s.setAg key { a with rng := stepAll a.rng v.width (d.t.ex 0) (d.t.ex 1) } else s
  { s with todo := s.todo ++ [.commandStart courier 5] }

/-- The sweep of an `epi` with a scratchpad destination, the group held until it ends (R259, R512). -/
def State.sweepEpi (s : State) (v : Agent) (act : LaneMask) (o : EpiOp) (d : TEntry) (b : Option TEntry) (snap : Tab W32) : Done :=
  let key := s.cur
  let s := s.drainAll key
  let t := d.t
  let n := t.count
  let unit := epiUnit key ((lanesOf act).headD 0) v.width true t (b.map TEntry.t) snap (v.s32 o.sc.toNat) (Act.num o.act) o.rnd o.sat
  let (z, stop) := sweepFrom unit t.unit (n / t.unit) 0 ⟨s, (s.ag key).rng, 0⟩
  let a := z.s.ag key
  let s := z.s.setAg key { a with rng := z.rng }
  let rate := if Act.num o.act < 3 then 16 else 4
  match stop with
  | none => { s := s.advance (10 + (n + rate - 1) / rate), fl := z.fl }
  | some (_, e) => { s := s.setAg key { s.ag key with flags := (s.ag key).flags ||| e.flags z.fl }, trap := some (e.trap 0xFF) }

/-- What an `epi` does once it is its turn among its tile's operations (R252, R258): ZINVALID, the conditions of R257 and R260, then the sweep at
once for a scratchpad destination, or an eq command for a global one, when there is room for it. -/
def State.runEpi (s : State) (v : Agent) (act : LaneMask) (o : EpiOp) (d : TEntry) (b : Option TEntry) : Except Trap Done :=
  let tile := s.tile v.ck o.z.toNat
  if !tile.valid then .ok { s := s, trap := some { cause := .zinvalid } }
  else match epiCheck o.rnd d b (s.courierOn v.team v.ck) with
    | some t => .ok { s := s, trap := some t }
    | none => afterAtoms s (
      if d.t.aper = .global then
        let k := (s.courierOn v.team v.ck).getD 0
        if s.epiRoom v.ck k o.rcpt.toNat then .ok { s := s.placeEpi v o k d b tile.el } else .ok (s.stall s.cur)
      else .ok (s.sweepEpi v act o d b tile.el))

/-- EPI (R155, R257–R260): ill-formed entries, then, of a global destination that has a courier context, the wait for room in which it does not
issue, then its turn at the tile, and the other conditions (log 33). -/
def execEpi (c : Ctl) (o : EpiOp) (s : State) : Host.Outcome State Fault Refusal :=
  issue (.epi c o) s (fun s v act =>
    let d := s.entry v o.td
    let b := if o.tb = 0 then none else some (s.entry v o.tb)
    let room := match s.courierOn v.team v.ck with | some k => s.epiRoom v.ck k o.rcpt.toNat | none => true
    if epiIll d b then .error { cause := .ttIllformed }
    else if v.held.isNone ∧ d.t.aper = .global ∧ !room then .ok (s.stall s.cur)
    else withTile s v o.z.toNat (fun s => s.runEpi v act o d b))

end Sys2Proof.Machine
end

