-- ==== Sys2Proof/Machine/Courier.lean ====
section
/-! DEFINITION. The courier's instructions: placing commands (R274, R281, R287, R290, R297, R302), receipts and markers (R278–R280),
distribution lists (R287, R288), collective groups (R300, R301). -/

namespace Sys2Proof.Machine

/-- Depth of a queue (R36): 0–3 cq, 4 lq, 5 eq, 6 xq. -/
def qDepth (q : Nat) : Nat := if q < 4 then 16 else if q = 4 then 8 else if q = 5 then 32 else 4

/-- The postbox address of a form with PBX = 1, checked as for a postbox instruction (R274). -/
def pbxOf (s : State) (v : Agent) : Option (BitVec 6) → Except Trap (Option W64)
  | none => .ok none
  | some r =>
    match pbxArg (s.teamOf v) (v.s64 r.toNat) with
    | .ok _ => .ok (some (v.s64 r.toNat))
    | .error t => .error t

/-- Place a command (R274): after the context's earlier atomics, a release at `.die`, the images and operands, the receipt, the queue. An overflowing
receipt or a full queue holds the context, and the word goes on in a later cycle with the images it copied and the receipt it named. -/
def place (s : State) (q : Nat) (x : Cmd) (upd : CCtx → CCtx) : Done :=
  let key := s.cur
  if s.owes key then s.holdRemote key else
  let s := s.release key .die
  let cc := s.cc key
  let (x, named) : Cmd × Bool := match cc.staged with | some p => p.2 | none => (x, false)
  if !named && decide (255 ≤ (cc.rcpt x.rcpt).count) then (s.setCc key { cc with staged := some (q, x, false) }).stall key
  else
    let cc := if named then cc else cc.name x.rcpt
    if qDepth q ≤ (cc.queue q).length then (s.setCc key { cc with staged := some (q, x, true) }).stall key
    else { s := { s.setCc key (upd { cc.push q { x with placed := s.cycle } with staged := none }) with todo := s.todo ++ [.commandStart key q] } }

/-- COPY (R281). -/
def execCopy (c : Ctl) (o : CopyOp) (s : State) : Host.Outcome State Fault Refusal :=
  issue (.copy c o) s (fun s v _ =>
    match pbxOf s v o.pbx with
    | .error t => .error t
    | .ok p =>
      .ok (place s o.queue.toNat { kind := .copy, dst := s.entry v o.td, src := s.entry v o.ta, trans := o.trans, pad := o.pad, blk := o.blk,
                                   pbx := p, rcpt := o.rcpt.toNat } id))

/-- COPY_DL (R287): a list at or above DLISTCOUNT is illegal; of such a list and a bad postbox address, which the manual does not order, the list
comes first (log 97). -/
def execCopyDl (c : Ctl) (o : CopyOp) (list : BitVec 4) (s : State) : Host.Outcome State Fault Refusal :=
  issue (.copyDl c o list) s (fun s v _ =>
    if (s.launchOf v).hdr.ndl ≤ list.toNat then .error { cause := .illegal }
    else match pbxOf s v o.pbx with
      | .error t => .error t
      | .ok p =>
        .ok (place s o.queue.toNat { kind := .copyDl, dst := s.entry v o.td, src := s.entry v o.ta, trans := o.trans, pad := o.pad, blk := o.blk,
                                     pbx := p, rcpt := o.rcpt.toNat, list := list.toNat } id))

def CCtx.chain (c : CCtx) (q : Nat) : Chain := (tfind c.chains q).getD ⟨false, 0, false⟩

/-- COPY_SEAL (R290, R291): START when the chain is not open. -/
def execCopySeal (c : Ctl) (o : SealOp) (s : State) : Host.Outcome State Fault Refusal :=
  issue (.copySeal c o) s (fun s v _ =>
    let q := o.queue.toNat
    let ch := (s.cc s.cur).chain q
    let x : Cmd := { kind := .copySeal, dst := s.entry v o.td, src := s.entry v o.ta, rcpt := o.rcpt.toNat,
                     seed := if ch.isOpen then none else some (v.s32 o.sb.toNat), expect := o.last.map (fun r => v.s32 r.toNat) }
    .ok (place s q x (fun cc => { cc with chains := tput cc.chains q { ch with isOpen := o.last.isNone } })))

/-- LAYOUT (R297). -/
def execLayout (c : Ctl) (o : LayoutOp) (s : State) : Host.Outcome State Fault Refusal :=
  issue (.layout c o) s (fun s v _ =>
    match pbxOf s v o.pbx with
    | .error t => .error t
    | .ok p =>
      .ok (place s 4 { kind := .layout, dst := s.entry v o.td, src := s.entry v o.ta, dmw := v.s64 o.sb.toNat, pbx := p, rcpt := o.rcpt.toNat, seq := s.cycle } id))

/-- COLL (R302, R303): the command takes its number in the group. -/
def execColl (c : Ctl) (o : CollOp) (s : State) : Host.Outcome State Fault Refusal :=
  issue (.coll c o) s (fun s v _ =>
    let g := (v.s32 o.sb.toNat).toNat
    if 15 < g then .error { cause := .illegal }
    else
      let n := tget (s.cc s.cur).colls g
      let x : Cmd := { kind := .coll, dst := s.entry v o.td, src := s.entry v o.ta, rcpt := o.rcpt.toNat, ckind := o.kind, cop := o.op, group := g, seq := n }
      .ok (place s 6 x (fun cc => { cc with colls := tput cc.colls g (n + 1) })))

/-- Whether every receipt of a mask has COUNT zero. -/
def CCtx.idle (c : CCtx) (mask : BitVec 8) : Bool := (List.range 8).all (fun q => !mask.getLsbD q || (c.rcpt q).count == 0)

/-- QWAIT (R278). -/
def execQwait (c : Ctl) (mask : BitVec 8) (s : State) : Host.Outcome State Fault Refusal :=
  issue (.qwait c mask) s (fun s _ _ =>
    if (s.cc s.cur).idle mask then .ok { s := s.acquireAt s.cur .dom } else .ok { s := s, wait := .receipts mask })

/-- A courier context that waits in `qwait` goes on once its receipts are zero (R278). -/
def State.wakeQ (s : State) (key : Nat) : State :=
  match (s.ag key).wait with
  | .receipts m =>
    if (s.cc key).idle m then
      let a := s.ag key
      (s.setAg key { a with wait := .none, ready := max a.ready (s.cycle + 1) }).acquireAt key .dom
    else s
  | _ => s

/-- QFENCE (R279): one marker in each named queue, all at once. -/
def execQfence (c : Ctl) (mask : BitVec 7) (s : State) : Host.Outcome State Fault Refusal :=
  issue (.qfence c mask) s (fun s _ _ =>
    let key := s.cur
    let cc := s.cc key
    let qs := (List.range 7).filter (fun q => mask.getLsbD q)
    if qs.any (fun q => qDepth q ≤ (cc.queue q).length) then .ok (s.stall key)
    else
      let cc := qs.foldl (fun cc q => cc.push q { kind := .marker, mark := s.nextMark }) cc
      .ok { s := { s.setCc key cc with nextMark := s.nextMark + 1, todo := s.todo ++ qs.map (fun q => .commandStart key q) } })

/-- The 64-bit record of a receipt (R37). -/
def Rcpt.word (r : Rcpt) : W64 := BitVec.ofNat 64 (r.status + 256 * r.count + 65536 * r.flags.toNat)

/-- QSTAT (R280). -/
def execQstat (c : Ctl) (d : BitVec 6) (q : BitVec 3) (s : State) : Host.Outcome State Fault Refusal :=
  issue (.qstat c d q) s (fun s _ _ => .ok { s := s, ws := wS true d ((s.cc s.cur).rcpt q.toNat).word })

/-- Agent keys of the courier contexts of a block group, its saved teams' among them. -/
def State.bgCouriers (s : State) (t : Team) : List Nat :=
  (s.agents.filter (fun p => p.2.kind == .courier && (let u := s.tm p.2.team; u.live && u.lid == t.lid && u.bg == t.bg))).map (·.1)

/-- `copy.dl` commands of a block group that name a list and have not completed (R288). -/
def State.dlBusy (s : State) (t : Team) (list : Nat) : Nat :=
  ((s.bgCouriers t).flatMap (fun k => (s.cc k).queues.flatMap (fun q => q.2.filter (fun x => x.kind == .copyDl && x.list == list)))).length

/-- DLCHK (R288). -/
def execDlchk (c : Ctl) (d : BitVec 6) (list : BitVec 4) (s : State) : Host.Outcome State Fault Refusal :=
  issue (.dlchk c d list) s (fun s v _ =>
    let h := (s.launchOf v).hdr
    let l := list.toNat
    let teams := if l < h.ndl then (tget h.dlists l).toNat else 0
    .ok { s := s, ws := [.s d.toNat (BitVec.ofNat 32 (65536 * teams + min 0xFFFF (s.dlBusy (s.teamOf v) l)))] })

/-- Entry of a context's group in the collective group table, in the I/O die's private space (R436). -/
def State.collEntry (s : State) (ctx g : Nat) : W64 :=
  BitVec.ofNat 64 (leNat (memBytes (s.no ioNode).priv (collAddr ctx g) 8))

/-- Live members of a collective group: the configured packages that the domain reaches (R300). -/
def State.liveMask (s : State) (ctx g : Nat) : W64 :=
  let m := s.collEntry ctx g
  (List.range 64).foldl (fun (a : W64) p => if m.getLsbD p && s.domain.contains p && !s.lostPkgs.contains p && (p == Config.pkg || s.reachable p) then a ||| BitVec.twoPow 64 p else a) 0

/-- CGMEM (R301). -/
def execCgmem (c : Ctl) (d sb : BitVec 6) (s : State) : Host.Outcome State Fault Refusal :=
  issue (.cgmem c d sb) s (fun s v _ =>
    let g := (v.s32 sb.toNat).toNat
    if 15 < g then .error { cause := .illegal } else .ok { s := s, ws := wS true d (s.liveMask (s.ctxOf v) g) })

end Sys2Proof.Machine
end

