-- ==== Sys2Proof/Machine/Lane.lean ====
section
/-! DEFINITION. Lane operations: chain neighbours (R60, R61, R208), shuffles and broadcasts (R209, R210), reductions and scans
(R211, R212). -/

namespace Sys2Proof.Machine

/-- The values a register held from cycle `prev` on and before cycle `hi`, newest first: `v` is the last value written, the list has the writes
still remembered, newest first, each with the cycle it lands in and the value it wrote over. A write that lands no earlier than a later one never
shows (R61, R127). -/
def heldSince (prev : Nat) (v : W32) (hi : Nat) : List (Nat × W32) → List W32
  | [] => if prev < hi then [v] else []
  | (t, old) :: rest => (if t < hi ∧ prev < hi then [v] else []) ++ heldSince prev old (min hi t) rest

/-- A lane's value of a vector register of another group, as a reader sees it in cycle `now` that issued its last word in cycle `prev`: any value
the register held in between, by a free choice (R61; log 75). -/
def Agent.laneSeen (b : Agent) (r l now prev fresh : Nat) : W32 :=
  let ws := b.lands.reverse.filterMap (fun d => if d.idx = r then (tfind d.oldV l).map (fun old => (d.land + d.step * (l / 16), old)) else none)
  let vs := heldSince prev (b.v32 r l) (now + 1) ws
  if b.pres.getLsbD l then (vs[(Config.freeByte fresh).toNat % vs.length]?).getD (b.v32 r l) else 0

/-- The value at a chain position of a team as a reader sees it: its own registers, or those of another group (R60, R61). -/
def State.chainAt (s : State) (key : Nat) (v : Agent) (gs : List Nat) (r p : Nat) : W32 :=
  let g := (gs[p / v.width]?).getD key
  if g = key then v.lane r (p % v.width) else (s.ag g).laneSeen r (p % v.width) s.cycle v.since (s.fresh + p % v.width)

/-- The chain position a lane's neighbour read takes, if it does not run off an end (R60). -/
def nbrPos (right wrap : Bool) (total p : Nat) : Option Nat :=
  if right then (if p + 1 < total then some (p + 1) else if wrap then some 0 else none)
  else (if 0 < p then some (p - 1) else if wrap then some (total - 1) else none)

/-- VNBR (R208): a read from the partner core of a pair lands 12 cycles after the class latency. -/
def execVnbr (c : Ctl) (right wrap : Bool) (o : FUn) (s : State) : Host.Outcome State Fault Refusal :=
  issue (.vnbr c right wrap o) s (fun s v act =>
    let key := s.cur
    let gs := s.teamGroups v.team
    let rank := gs.idxOf key
    let total := gs.length * v.width
    let pos (l : Nat) : Option Nat := nbrPos right wrap total (rank * v.width + l)
    let partner := (lanesOf act).any (fun l => match pos l with
      | some p => ((s.ag ((gs[p / v.width]?).getD key)).core != v.core)
      | none => false)
    let a := s.ag key
    let s := if partner then s.setAg key { a with inflight := a.inflight ++ [{ cls := .v, idx := o.d.toNat, land := s.cycle + v.passes - 1 + 20 }] } else s
    let (ws, fl) := perLane false o.d act (fun l => (match pos l with
      | some p => (s.chainAt key v gs o.a.toNat p).toNat
      | none => 0, 0))
    .ok { s := { s with fresh := s.fresh + 64 }, ws := ws, fl := fl })

/-- The source lane of a shuffle (R209). -/
def shuffleLane (m : ShMode) (w l b : Nat) : Nat :=
  match m with
  | .idx => b % w
  | .xor => Nat.xor l (b % w)
  | .up => if b ≤ l then l - b else l
  | .down => if l + b < w then l + b else l

/-- VSHFL (R209). -/
def execVshfl (c : Ctl) (m : ShMode) (o : FBin) (s : State) : Host.Outcome State Fault Refusal :=
  issueRegs (.vshfl c m o) s (fun v act => perLane false o.d act (fun l =>
    ((v.lane o.a.toNat (shuffleLane m v.width l (v.vsrc false false l o.b).toNat)).toNat, 0)))

/-- VBCAST (R210): a vector b is taken from the lowest active lane. -/
def execVbcast (c : Ctl) (o : FBin) (s : State) : Host.Outcome State Fault Refusal :=
  issueRegs (.vbcast c o) s (fun v act =>
    let b := (v.vsrc false false ((lanesOf act).headD 0) o.b).toNat
    perLane false o.d act (fun _ => ((v.lane o.a.toNat (b % v.width)).toNat, 0)))

/-- One combination of a reduction or scan (R211). -/
def redOp (op : RedOp) (a b : Nat) : Nat × BitVec 6 :=
  match op with
  | .add => (iAdd 32 a b, 0)
  | .minS => (iMin true 32 a b, 0)
  | .maxS => (iMax true 32 a b, 0)
  | .minU => (iMin false 32 a b, 0)
  | .maxU => (iMax false 32 a b, 0)
  | .and => (Nat.land a b, 0)
  | .or => (Nat.lor a b, 0)
  | .xor => (Nat.xor a b, 0)
  | .fadd => fAdd ff32 .rn a b 0
  | .fmin => fMinMax ff32 false a b 0
  | .fmax => fMinMax ff32 true a b 0

/-- One level of the reduction tree: absent nodes are passed over (R211). -/
def redLevel (op : RedOp) : List (Option Nat) → List (Option Nat) × BitVec 6
  | p :: q :: rest =>
    let (r, fl) := redLevel op rest
    match p, q with
    | none, x => (x :: r, fl)
    | x, none => (x :: r, fl)
    | some a, some b => (some (redOp op a b).1 :: r, fl ||| (redOp op a b).2)
  | l => (l, 0)

/-- The tree of R211, `fuel` levels of it. -/
def redTree (op : RedOp) : Nat → List (Option Nat) → Nat × BitVec 6
  | 0, l => ((l.headD none).getD 0, 0)
  | fuel + 1, l =>
    let (l', fl) := redLevel op l
    let (x, fl') := redTree op fuel l'
    (x, fl ||| fl')

/-- VRED (R211). -/
def execVred (c : Ctl) (op : RedOp) (o : FUn) (s : State) : Host.Outcome State Fault Refusal :=
  issueRegs (.vred c op o) s (fun v act =>
    let nodes := (List.range v.width).map (fun l => if act.getLsbD l then some (v.v32 o.a.toNat l).toNat else none)
    let (x, fl) := redTree op (Nat.log2 v.width) nodes
    ((perLane false o.d act (fun _ => (x, 0))).1, fl))

/-- Identity of an operation (R212). -/
def redId : RedOp → Nat
  | .add | .or | .xor | .maxU | .fadd => 0
  | .and | .minU => 0xFFFFFFFF
  | .minS => 0x7FFFFFFF
  | .maxS => 0x80000000
  | .fmin => 0x7F800000
  | .fmax => 0xFF800000

/-- The scan over active lanes in ascending order: `acc` combines the lanes before (R212). -/
def scanLanes (op : RedOp) (excl : Bool) (acc : Option Nat) : List (Nat × Nat) → List (Nat × Nat) × BitVec 6
  | [] => ([], 0)
  | (l, x) :: rest =>
    let (y, fl) := match acc with
      | none => (x, 0)
      | some a => redOp op a x
    let (r, fr) := scanLanes op excl (some y) rest
    let out := if excl then acc.getD (redId op) else y
    ((l, out) :: r, (if excl && rest.isEmpty then 0 else fl) ||| fr)

/-- VSCAN (R212): an exclusive scan does not combine the last active lane. -/
def execVscan (c : Ctl) (op : RedOp) (excl : Bool) (o : FUn) (s : State) : Host.Outcome State Fault Refusal :=
  issueRegs (.vscan c op excl o) s (fun v act =>
    let (xs, fl) := scanLanes op excl none ((lanesOf act).map (fun l => (l, (v.v32 o.a.toNat l).toNat)))
    ((perLane false o.d act (fun l => ((tfind xs l).getD 0, 0))).1, fl))

end Sys2Proof.Machine
end

