-- ==== Sys2Proof/Machine/Engines.lean ====
section
/-! DEFINITION. The engines that perform queued commands (R108, R275, R276): starting and checking them (R282, R296, R304, R514),
the copy engine (R283–R287), seals (R289, R291), the layout engine (R292–R299), the epilogue unit (R261, R512), collectives
(R303–R306, R436, R437), and completion (R38, R275, R285). -/

namespace Sys2Proof.Machine

/-! ## Heads of queues, error records -/

/-- The command at the head of a queue. -/
def State.head (s : State) (key q : Nat) : Option Cmd := ((s.cc key).queue q).head?

/-- Replace the head of a queue. -/
def State.setHead (s : State) (key q : Nat) (x : Cmd) : State :=
  let c := s.cc key
  s.setCc key { c with queues := tput c.queues q (x :: (c.queue q).drop 1) }

/-- The error record of a command (R276, R319). -/
def State.cmdRecord (s : State) (key q : Nat) (x : Cmd) (c : Cause) (addr detail : Nat) : State :=
  let a := s.ag key
  s.errorRecord (s.ctxOf a) { addr := addr, cause := c, source := q, agent := 8 * a.slot + x.rcpt, die := a.die, core := a.core,
                              detail := detail, lid := (s.launchOf a).lid }

/-- The head and every command behind it complete ERROR, in queue order (R108 steps 4 and 5). -/
def State.failQueue (s : State) (key q : Nat) : State :=
  let c := s.cc key
  let l := (c.queue q).map (fun (x : Cmd) => if x.kind = .marker then x else { x with result := some 3 })
  { s.setCc key { c with queues := tput c.queues q l } with todo := s.todo ++ [.commandComplete key q] }

/-- A command ends with an outcome. -/
def State.endCmd (s : State) (key q : Nat) (x : Cmd) (out : Nat) : State :=
  { s.setHead key q { x with result := some out } with todo := s.todo ++ [.commandComplete key q] }

/-- What a command that cannot go on meets (R261, R276): a page fault stalls its queue; a write to a discarded page fails the command
and those behind it, an epilogue command alone; anything else fails the command. -/
def State.cmdStop (s : State) (key q : Nat) (x : Cmd) (e : TStop) : State :=
  let tr := e.trap 0
  match e with
  | .stop _ (.fault _ _) _ => (s.setHead key q { x with stalled := true }).engineFault key (s.record key { tr with lane := 0xFF })
  | .stop _ .discard ea =>
    let s := s.cmdRecord key q x .discardWrite ea.toNat 0
    if q = 5 then s.endCmd key q x 3 else (s.setHead key q x).failQueue key q
  | .abort _ ab ea => (s.cmdRecord key q x ab.cause ea.toNat 0).endCmd key q x 3
  | .stop _ _ ea => (s.cmdRecord key q x tr.cause ea.toNat 0).endCmd key q x 3

/-! ## Conditions of commands (R282, R287, R296, R304, R514) -/

/-- The byte an entry that cannot be used is charged with: its image's first condition, or 0 when its valid bit is clear. -/
def TEntry.illByte (e : TEntry) : Option Nat := if !e.valid then some 0 else e.t.bad

/-- The source axis a destination axis of a copy takes (R282). -/
def swapAxis (trans : Bool) (j : Nat) : Nat := if trans then (if j = 0 then 1 else if j = 1 then 0 else j) else j

/-- Whether an axis of a copy's destination breaks its extent condition (R282). -/
def copyExtBad (x : Cmd) (j : Nat) : Bool :=
  let k := swapAxis x.trans j
  let d := x.dst.t
  let t := x.src.t
  if x.pad then decide (d.ex j < t.ex k) else d.ex j != t.ex k && !t.bc k

/-- The first condition of R282 or R287 on a copy's destination image alone (R514); of one that names two fields the lower. -/
def copyDstBad (x : Cmd) : Option Nat :=
  let d := x.dst.t
  if d.aper = .ws then some 0
  else if d.bcast ≠ 0 then some 9
  else if x.trans && decide (d.rank < 2) then some 8
  else if d.f = .p4 ∧ x.trans then some 8
  else if x.blk && d.aper != .spad then some 0
  else if x.blk && d.rank != 2 then some 8
  else if x.blk && d.base % 512 != 0 then some 0
  else if x.blk && d.st 1 != (d.ex 0 : Int) then some 16
  else if x.blk && d.st 0 != 1 then some 40
  else if x.blk && d.ex 1 % 8 != 0 then some 19
  else if x.blk && (if d.f = .p4 then d.ex 0 % 128 != 0 else d.ex 0 * d.size % 64 != 0) then some 16
  else if x.kind = .copyDl ∧ d.aper ≠ .spad then some 0
  else none

/-- The first condition of R282 that compares a copy's destination with its source, charged to the destination image (R514). -/
def copyPairBad (x : Cmd) : Option Nat :=
  let d := x.dst.t
  let t := x.src.t
  if d.fmt ≠ t.fmt ∨ d.rank ≠ t.rank then some 8
  else match (List.range d.rank).find? (copyExtBad x) with
  | some j => some (16 + 3 * j)
  | none => if d.f = .p4 ∧ x.pad ∧ d.ex 0 ≠ t.ex 0 then some 16 else none

/-- Fields of a dimension map word (R292). -/
structure DMap where
  na    : Nat
  perm  : List Nat
  merge : Nat
  slots : List (Nat × Nat)
  padEn : Bool
  fill  : Nat
deriving DecidableEq, Repr

def dmapOf (w : W64) : DMap :=
  let f (lo n : Nat) : Nat := w.toNat / 2 ^ lo % 2 ^ n
  { na := f 0 3 + 1, perm := (List.range 8).map (fun j => f (3 * j + 3) 3), merge := f 27 8,
    slots := [(f 35 3, f 38 4), (f 42 3, f 45 4)], padEn := w.getLsbD 49, fill := f 50 3 }

/-- The first condition of R296 a dimension map word breaks by itself, as the byte of its lowest field. -/
def dmwBad (w : W64) : Option Nat :=
  let m := dmapOf w
  let unused (p : Nat × Nat) : Bool := p.2 == 0 && p.1 != 0
  if w.toNat / 2 ^ 53 ≠ 0 then some 6
  else if unused (m.slots.headD (0, 0)) then some 4
  else if (m.slots.drop 1).any unused then some 5
  else if !((m.perm.take m.na).all (fun p => decide (p < m.na)) && (m.perm.take m.na).Nodup && (m.perm.drop m.na).all (· == 0)) then some 0
  else if m.merge / 2 ^ (m.na - 1) ≠ 0 then some 3
  else if 6 ≤ m.fill ∨ (m.fill ≠ 0 ∧ !m.padEn) then some 6
  else none

/-- Extents of the intermediate axes (R293); `none` when a split names no axis or does not divide it. -/
def splitExts : List (Nat × Nat) → List Nat → Option (List Nat)
  | [], e => some e
  | (ax, lg) :: rest, e =>
    if lg = 0 then splitExts rest e
    else match e[ax]? with
      | none => none
      | some x => if x % 2 ^ lg ≠ 0 then none else splitExts rest (e.take ax ++ [2 ^ lg, x / 2 ^ lg] ++ e.drop (ax + 1))

/-- Runs of output axes joined by MERGE bits (R294): for each destination axis, the number of output axes it takes. -/
def mergeRuns (merge : Nat) (na : Nat) : List Nat :=
  ((List.range na).foldl (fun (acc : List Nat) j =>
    if j = 0 then [1] else if merge.testBit (j - 1) then (match acc with | r :: rs => (r + 1) :: rs | [] => [1]) else 1 :: acc) []).reverse

/-- Cut a list into pieces of given lengths. -/
def cutRuns : List Nat → List Nat → List (List Nat)
  | [], _ => []
  | r :: rs, l => l.take r :: cutRuns rs (l.drop r)

/-- Extents of the output axes by destination axis (R294). -/
def DMap.outs (m : DMap) (src : Tens) : Option (List (List Nat)) :=
  (splitExts m.slots (src.ext.take src.rank)).map (fun e =>
    cutRuns (mergeRuns m.merge m.na) ((m.perm.take m.na).map (fun p => (e[p]?).getD 1)))

def prodOf (l : List Nat) : Nat := l.foldl (· * ·) 1

/-- The first condition a `layout` breaks, as the DETAIL of R514. -/
def layoutBad (x : Cmd) : Option Nat :=
  let d := x.dst.t
  let t := x.src.t
  let m := dmapOf x.dmw
  match x.dst.illByte with
  | some b => some b
  | none =>
  if d.f = .p4 then some 8
  else if d.aper = .ws then some 0
  else if d.bcast ≠ 0 then some 9
  else match x.src.illByte with
  | some b => some (0x100 + b)
  | none =>
  if t.f = .p4 then some (0x100 + 8)
  else match dmwBad x.dmw with
  | some b => some (0x300 + b)
  | none =>
  match splitExts m.slots (t.ext.take t.rank) with
  | none => some 0x400
  | some e =>
    if e.length ≠ m.na then some 0x400
    else
      let mx := ((m.outs t).getD []).map prodOf
      if d.rank ≠ mx.length then some 8
      else match mx.zipIdx.find? (fun p => d.ex p.2 != p.1 && !(m.padEn && decide (p.1 ≤ d.ex p.2))) with
        | some p => some (16 + 3 * p.2)
        | none =>
          if (d.f.isInt && m.fill == 5) || (d.f == .u8 && m.fill == 2) then some 0x400
          else if d.fmt ≠ t.fmt then some 8
          else if mx.any (fun p => decide (2 ^ 24 ≤ p)) then some 0x400 else none

/-- Formats of a collective (R304). -/
def Fmt.collOk : Fmt → Bool
  | .f32 | .bf16 | .f16 | .i32 => true
  | _ => false

/-- The first condition a `coll` breaks (R304, R514); `m` is the number of configured members. -/
def collBad (x : Cmd) (m : Nat) : Option Nat :=
  let d := x.dst.t
  let t := x.src.t
  match x.dst.illByte with
  | some b => some b
  | none =>
  if !Fmt.collOk d.f then some 8
  else if d.aper = .ws then some 0
  else match x.src.illByte with
  | some b => some (0x100 + b)
  | none =>
    if !Fmt.collOk t.f then some (0x100 + 8)
    else if d.fmt ≠ t.fmt then some 8
    else if x.cop = .mean ∧ d.f = .i32 then some 0x400
    else if (x.ckind = .ag ∨ x.ckind = .bcast) ∧ x.cop ≠ .sum then some 0x400
    else if x.ckind = .rs ∧ (m = 0 ∨ t.count % m ≠ 0) then some 0x400
    else
      let want := match x.ckind with | .ar | .bcast => t.count | .rs => t.count / max 1 m | .ag => m * t.count
      if d.count ≠ want then some 16 else none

/-- Bits set of a mask of packages, ascending. -/
def pkgsOf (m : W64) : List Nat := (List.range 64).filter (fun p => m.getLsbD p)

/-- The first condition a command breaks when its engine starts it. -/
def State.cmdBad (s : State) (key : Nat) (x : Cmd) : Option Nat :=
  match x.kind with
  | .copy | .copyDl | .copySeal =>
    match x.dst.illByte with
    | some b => some b
    | none => (copyDstBad x).or (((x.src.illByte).map (0x100 + ·)).or (copyPairBad x))
  | .layout => layoutBad x
  | .coll => collBad x (pkgsOf (s.collEntry (s.ctxOf (s.ag key)) x.group)).length
  | _ => none

/-! ## Accesses of a command (R275, R276) -/

/-- Read bytes for a command: the value, and whether the page is discarded. -/
def State.cRead (s : State) (key : Nat) (ea : W64) (n : Nat) : Except TStop (Nat × Bool) × State :=
  match s.laneChecks (s.ag key) [(0, ea)] n .read with
  | (.error (st, _, ea), s) => (.error (.stop .read st ea), s)
  | (.ok sp, s) =>
    let p := match sp with | p :: _ => p.2.2 | [] => Spot.beyond
    match s.loadSpot key ea p n .none with
    | (.ok x, s) => (.ok (x, p == .discarded), s)
    | (.error e, s) => (.error (.abort .read e ea), s)

/-- Teams a `copy.dl` reaches: those of its block group that its list names (R287). -/
def State.dlTeams (s : State) (key list : Nat) : List Nat :=
  let t := s.teamOf (s.ag key)
  let mask := tget (s.launchOf (s.ag key)).hdr.dlists list
  (s.teams.filter (fun p => p.2.live && p.2.lid == t.lid && p.2.bg == t.bg && mask.getLsbD p.2.teamId)).map (·.1)

/-- Write bytes at a scratchpad offset of a team's allocation; beyond it they are dropped (R41, R287). -/
def State.dlWrite (s : State) (key : Nat) (ea : W64) (n x : Nat) (team : Nat) : State :=
  let t := s.tm team
  match t.spadPlace (aperOff ea) with
  | none => s.spoor t.ctx ea
  | some p => (s.writePlace (s.ag key).die (s.ag key).core p .pv n x t.ctx .none).2

/-- Whether an element overlaps an armed postbox of a team (R33). -/
def State.dlHit (s : State) (ea : W64) (n team : Nat) : Bool :=
  match (s.tm team).spadPlace (aperOff ea) with
  | none => false
  | some p => (s.tm team).pbxHit p n

/-- Write an element of `n` bytes in each team of a list, `x` of a team, in none where it overlaps an armed postbox of one (R33). -/
def State.dlWriteAll (s : State) (key : Nat) (teams : List Nat) (ea : W64) (n : Nat) (x : Nat → Nat) : Option TStop × State :=
  if teams.any (s.dlHit ea n) then (some (.stop .write .pbx ea), s)
  else (none, teams.foldl (fun s' t => s'.dlWrite key ea n (x t) t) s)

/-- Write bytes of a command: at the address, or at the same offset in each team of a list. -/
def State.cWrite (s : State) (key : Nat) (teams : Option (List Nat)) (ea : W64) (n x : Nat) : Option TStop × State :=
  match teams with
  | none => s.tWrite key 0 ea n x
  | some ts => s.dlWriteAll key ts ea n (fun _ => x)

/-- Whether `n` bytes at an address overlap an element of a tensor other than the one at `own` (R9, R283, R298). -/
def Tens.hits (t : Tens) (own : Option W64) (ea : W64) (n : Nat) : Bool :=
  let far (f : Int → Int) : Int := (List.range t.rank).foldl (fun (z : Int) j => if t.bc j then z else z + f (((t.ex j : Int) - 1) * t.st j)) 0
  let at_ (e : Int) : Int := if t.f = .p4 then t.base + e / 2 else t.base + t.size * e
  let meets (a : Int) : Bool := decide (a < ea.toNat + n) && decide ((ea.toNat : Int) < a + t.size)
  decide (at_ (far (min 0)) < ea.toNat + n) && decide ((ea.toNat : Int) < at_ (far (max 0)) + t.size) &&
    (List.range t.count).any (fun k => let a := (t.addr (t.idx k)).1; meets a.toNat && some a != own)

/-- `n` bytes that a command writes over an element of its source: free ones (R9). -/
def State.orFree (s : State) (hit : Bool) (n x : Nat) : Nat × State :=
  if hit then (leNat ((List.range n).map (fun i => Config.freeByte (s.fresh + i))), { s with fresh := s.fresh + n }) else (x, s)

/-- Bytes a team's allocation holds at a scratchpad address. -/
def State.dlRead (s : State) (team : Nat) (ea : W64) : Nat :=
  match (s.tm team).spadPlace (aperOff ea) with
  | some (.spad c o) => (memGet (s.co c).scratch o).toNat
  | _ => 0

/-- Put a P4 code into its nibble. -/
def putNibble (old nib x : Nat) : Nat := if nib = 0 then old / 16 * 16 + x % 16 else old % 16 + 16 * (x % 16)

/-- Write a P4 code of a command that shares its byte with a code of another pair, as only odd strides make it (log 101). -/
def State.cNibble (s : State) (key : Nat) (teams : Option (List Nat)) (ea : W64) (nib x : Nat) : Option TStop × State :=
  match teams with
  | none =>
    match s.tRead key 0 ea 1 with
    | (.error e, s) => (some e, s)
    | (.ok old, s) => s.tWrite key 0 ea 1 (putNibble old nib x)
  | some ts => s.dlWriteAll key ts ea 1 (fun t => putNibble (s.dlRead t ea) nib x)

/-- Write the two codes of a pair: their byte, where both lie in it (R284). -/
def State.cPair (s : State) (key : Nat) (teams : Option (List Nat)) (a b : W64 × Nat) (x : Nat) : Option TStop × State :=
  if a.2 = 0 then s.cWrite key teams a.1 1 x
  else match s.cNibble key teams a.1 a.2 (x % 16) with
    | (some e, s) => (some e, s)
    | (none, s) => s.cNibble key teams b.1 b.2 (x / 16)

/-! ## The copy engine (R283–R287) -/

/-- Where a copy writes the element at a destination index: its address and nibble (R283, R284). -/
def copyAddr (x : Cmd) (d : List Nat) : W64 × Nat :=
  let t := x.dst.t
  if x.blk then
    let i := (d[1]?).getD 0
    let j := d.headD 0
    if t.f = .p4 then (BitVec.ofNat 64 (t.base + brickOff (t.ex 1) i (j / 2)), j % 2)
    else (BitVec.ofNat 64 (t.base + brickOff (t.ex 1) i (j * t.size)), 0)
  else t.addr d

/-- The source index of a destination index. -/
def copySrc (x : Cmd) (d : List Nat) : List Nat :=
  if x.trans then (match d with | a :: b :: rest => b :: a :: rest | l => l) else d

/-- Whether the element a copy writes at a destination index has a source element, or PAD's zero bytes (R283). -/
def copyInside (x : Cmd) (d : List Nat) : Bool := (copySrc x d).zipIdx.all (fun p => decide (p.1 < x.src.t.ex p.2) || x.src.t.bc p.2)

/-- The source bits of the element at a destination index, a P4 code from its nibble, and whether its page is discarded (R283, R284). -/
def State.copyGet (s : State) (key : Nat) (x : Cmd) (d : List Nat) : Except TStop (Nat × Bool) × State :=
  if copyInside x d then
    let (sea, snib) := x.src.t.addr (copySrc x d)
    match s.cRead key sea x.dst.t.size with
    | (.ok (v, z), s) => (.ok (if x.dst.t.f = .p4 then v / 16 ^ snib % 16 else v, z), s)
    | r => r
  else (.ok (0, false), s)

/-- The two codes of a P4 pair, the low one in the low nibble (R284). -/
def State.copyGet2 (s : State) (key : Nat) (x : Cmd) (d e : List Nat) : Except TStop (Nat × Bool) × State :=
  match s.copyGet key x d with
  | (.ok (a, z), s) =>
    match s.copyGet key x e with
    | (.ok (b, y), s) => (.ok (a + 16 * b, z || y), s)
    | r => r
  | r => r

/-- A command's element of `n` bytes as it enters the destination's encoder: as the source's decoder gave it, with the bits that the core's fault
input changes on the way (R289, R446; log 9), or free where it overlaps another element of the source (R9). -/
def State.onWay (s : State) (key : Nat) (x : Cmd) (ea own : W64) (n v : Nat) : Nat × State :=
  let ck := (s.ag key).ck
  let c := s.co ck
  let (v, s) := match c.flips.find? (fun f => f.1 == x.prog) with
    | some f => (Nat.xor v f.2 % 2 ^ (8 * n), s.setCo ck { c with flips := c.flips.erase f })
    | none => (v, s)
  s.orFree (x.src.t.hits (some own) ea n) n v

/-- Sealed bytes of a command after `n` more (R290). -/
def Cmd.sealed (x : Cmd) (n v : Nat) : Cmd := if x.kind = CmdKind.copySeal then { x with bytes := x.bytes ++ leBytes n v } else x

/-- Elements a copy moves at once: one, or the two codes of a P4 byte (R284). -/
def Cmd.stride (x : Cmd) : Nat := if x.dst.t.f = .p4 then 2 else 1

/-- The scale byte of a P4 copy's block, at the block's first element (R284). -/
def State.copyScale (s : State) (key : Nat) (x : Cmd) (teams : Option (List Nat)) (di : List Nat) : Except TStop Cmd × State :=
  let d := x.dst.t
  let t := x.src.t
  if d.f ≠ .p4 ∨ di.headD 0 % 32 ≠ 0 then (.ok x, s)
  else
    match (if copyInside x di then s.cRead key (t.scaleAddr (t.block (copySrc x di))) 1 else ((.ok (0, false), s) : Except TStop (Nat × Bool) × State)) with
    | (.error e, s) => (.error e, s)
    | (.ok (sb, z), s) =>
      let at_ := d.scaleAddr (d.block di)
      match s.cWrite key (if aperOf at_ = .spad then teams else none) at_ 1 sb with
      | (some e, s) => (.error e, s)
      | (none, s) => (.ok { x with flags := x.flags ||| (if z then 0x80 else 0),
                                   sbytes := if x.kind = CmdKind.copySeal then x.sbytes ++ [BitVec.ofNat 8 sb] else x.sbytes }, s)

/-- Take one element of a copy, or one byte of P4 codes (R283, R284): the state and the command after it, or where it stops. An element that overlaps
a source element at another index takes a free value (R9, R283; log 102). -/
def State.copyElem (s : State) (key : Nat) (x : Cmd) (teams : Option (List Nat)) : Except TStop Cmd × State :=
  let d := x.dst.t
  let di := d.idx x.prog
  let dj := d.idx (x.prog + 1)
  let a := copyAddr x di
  let p4 : Bool := d.f == .p4
  match (if p4 then s.copyGet2 key x di dj else s.copyGet key x di) with
  | (.error e, s) => (.error e, s)
  | (.ok (v, z), s) =>
    let (v, s) := s.onWay key x a.1 (x.src.t.addr (copySrc x di)).1 d.size v
    match (if p4 then s.cPair key teams a (copyAddr x dj) v else s.cWrite key teams a.1 d.size v) with
    | (some e, s) => (.error e, s)
    | (none, s) =>
      match s.copyScale key (({ x with flags := x.flags ||| (if z then 0x80 else 0) } : Cmd).sealed d.size v) teams di with
      | (.error e, s) => (.error e, s)
      | (.ok x, s) => (.ok { x with prog := x.prog + x.stride }, s)

/-- Elements of a copy while they lie in the destination line `line`. -/
def State.copyLine (s : State) (key q line : Nat) (teams : Option (List Nat)) : Nat → Cmd → State
  | 0, x => s.setHead key q x
  | fuel + 1, x =>
    if x.dst.t.count ≤ x.prog then s.endCmd key q x 2
    else if (copyAddr x (x.dst.t.idx x.prog)).1.toNat / 128 ≠ line then s.setHead key q x
    else match s.copyElem key x teams with
      | (.error e, s) => s.cmdStop key q x e
      | (.ok x, s) => State.copyLine s key q line teams fuel x

/-- Whether a command is its engine's to run now. -/
def Cmd.runs (x : Cmd) : Bool := x.started && !x.stalled && x.result.isNone

/-- The (courier context, queue) pairs of a core with a copy in progress, by rotation number (R286). -/
def State.copyPairs (s : State) (ck : Nat) : List (Nat × Nat × Nat) :=
  let ks := (s.agents.filter (fun p => p.2.kind == .courier && p.2.ck == ck)).map (fun p => (p.2.slot, p.1))
  let l := ks.flatMap (fun k => (List.range 4).filterMap (fun q => match s.head k.2 q with
    | some x => if x.runs then some (4 * k.1 + q, k.2, q) else none
    | none => none))
  l.insertionSort (fun a b => a.1 ≤ b.1)

/-- COPY_ENGINE_LINE (R286): one 128-byte destination line of the next pair in rotation. -/
def State.copyStep (s : State) (die core : Nat) : State :=
  let ck := coreKey die core
  let l := s.copyPairs ck
  match (l.find? (fun p => decide ((s.co ck).rotation ≤ p.1))).or l.head? with
  | none => s
  | some (n, key, q) =>
    match s.head key q with
    | none => s
    | some x =>
      let s := s.setCo ck { s.co ck with rotation := (n + 1) % 128 }
      let teams := if x.kind = .copyDl then some (s.dlTeams key x.list) else none
      s.copyLine key q ((copyAddr x (x.dst.t.idx x.prog)).1.toNat / 128) teams 257 x

/-! ## Seals (R289, R291) -/

/-- One byte of the CRC-32C (R289). -/
def crcByte (c : W32) (b : Byte) : W32 :=
  (List.range 8).foldl (fun (c : W32) _ => (c >>> 1) ^^^ (if c.getLsbD 0 then 0x82F63B78 else 0)) (c ^^^ b.setWidth 32)

/-- Seal(v, bytes). -/
def crcSeal (v : W32) (bs : List Byte) : W32 := (bs.foldl crcByte (v ^^^ 0xFFFFFFFF)) ^^^ 0xFFFFFFFF

/-- The engine side of a chain at a command's end (R291): the outcome, the chain, and RUN where a record names it. -/
def sealEnd (ch : Chain) (x : Cmd) (out : Nat) : Nat × Chain × Option W32 :=
  let run := crcSeal (x.seed.getD ch.run) (x.bytes ++ x.sbytes)
  let poison := (if x.seed.isSome then false else ch.poison) || out == 3
  let ch' : Chain := { ch with run := run, poison := poison }
  match x.expect with
  | none => (out, ch', none)
  | some e => if out = 3 then (3, ch', none) else if poison ∨ run ≠ e then (4, ch', some run) else (2, ch', none)

/-! ## The layout engine (R292–R299) -/

/-- The fill of R295 as a pattern of a format. -/
def fillBits (f : Fmt) (fill : Nat) : Nat :=
  if f.isInt then
    (match fill with | 1 => 1 | 2 => lowBits f.bits (-1) | 3 | 4 => lowBits f.bits f.range.1 | _ => 0)
  else match f.ff? with
    | none => 0
    | some g => match fill with
      | 1 => (roundTo g (.fin false 1 0) .rn false 0).1
      | 2 => (roundTo g (.fin true 1 0) .rn false 0).1
      | 3 => (roundTo g (.inf true) .rn true 0).1
      | 4 => (roundTo g (.inf true) .rn (f == .e4m3) 0).1
      | 5 => g.nanBits
      | _ => 0

/-- Take a merged index apart by mixed radix (R294). -/
def radix : List Nat → Nat → List Nat
  | [], _ => []
  | e :: es, x => x % max 1 e :: radix es (x / max 1 e)

/-- Fold the splits back, the later slot first (R293, R298). -/
def foldSlots : List (Nat × Nat) → List Nat → List Nat
  | [], i => i
  | (ax, lg) :: rest, i =>
    let j := foldSlots rest i
    if lg = 0 then j else j.take ax ++ [(j[ax]?).getD 0 + 2 ^ lg * (j[ax + 1]?).getD 0] ++ j.drop (ax + 2)

/-- The source index of a destination index of a layout; `none` where the fill goes (R294, R298). -/
def layoutSrc (m : DMap) (outs : List (List Nat)) (x : List Nat) : Option (List Nat) :=
  if (x.zip outs).all (fun p => decide (p.1 < prodOf p.2)) then
    let o := (x.zip outs).flatMap (fun p => radix p.2 p.1)
    let i := (o.zip m.perm).foldl (fun (i : List Nat) p => i.set p.2 p.1) (List.replicate m.na 0)
    some (foldSlots m.slots i)
  else none

/-- A layout's sweep from its saved progress (R298); an element that overlaps one of the source takes a free value (R9; log 102). -/
def State.layoutRun (s : State) (key : Nat) (outs : List (List Nat)) : Nat → Cmd → State
  | 0, x => s.setHead key 4 x
  | fuel + 1, x =>
    let d := x.dst.t
    let t := x.src.t
    if d.count ≤ x.prog then s.endCmd key 4 x 2
    else
      let di := d.idx x.prog
      let r := match layoutSrc (dmapOf x.dmw) outs di with
        | some si => s.cRead key (t.addr si).1 d.size
        | none => (.ok (fillBits d.f (dmapOf x.dmw).fill, false), s)
      match r with
      | (.error e, s) => s.cmdStop key 4 x e
      | (.ok (v, z), s) =>
        let (v, s) := s.orFree (t.hits none (d.addr di).1 d.size) d.size v
        match s.tWrite key 0 (d.addr di).1 d.size v with
        | (some e, s) => s.cmdStop key 4 x e
        | (none, s) => State.layoutRun s key outs fuel { x with prog := x.prog + 1, flags := x.flags ||| (if z then 0x80 else 0) }

/-- The lq heads of a cluster that can run, oldest first, then by core and context slot (R299). -/
def State.layoutHeads (s : State) (die cluster : Nat) : List (Nat × Nat) :=
  let ks := (s.agents.filter (fun p => p.2.kind == .courier && p.2.die == die && p.2.core / 4 == cluster)).map (fun p => (64 * p.2.core + p.2.slot, p.1))
  let l := ks.filterMap (fun k => match s.head k.2 4 with
    | some x => if x.runs then some (x.seq, k) else none
    | none => none)
  (l.insertionSort (fun a b => a.1 < b.1 || (a.1 == b.1 && a.2.1 ≤ b.2.1))).map (fun p => p.2)

/-- LAYOUT_ENGINE_COMMAND (R299). -/
def State.layoutStep (s : State) (die cluster : Nat) : State :=
  match (s.layoutHeads die cluster).head? with
  | none => s
  | some (_, key) =>
    match s.head key 4 with
    | none => s
    | some x => s.layoutRun key (((dmapOf x.dmw).outs x.src.t).getD []) (x.dst.t.count - x.prog + 1) x

/-! ## The epilogue unit (R261, R512) -/

/-- The eq heads of a core that can run. -/
def State.epiHeads (s : State) (ck : Nat) : List Nat :=
  (s.agents.filter (fun p => p.2.kind == .courier && p.2.ck == ck && (match s.head p.1 5 with | some x => x.runs && x.kind == .epi | none => false))).map (·.1)

/-- Whether a bias that the elements `k` to `n` of an epilogue command took lies on a discarded page (R37, R396). -/
def State.biasZero (s : State) (key : Nat) (b t : Tens) (k n : Nat) : Bool :=
  (List.range (n - k)).any (fun i => match (s.cRead key (b.addr [(t.idx (k + i)).headD 0]).1 b.size).1 with
    | .ok (_, z) => z
    | .error _ => false)

/-- EPILOGUE_START (R260, R261, R512): the sweep of a global epilogue from its saved progress. -/
def State.epiStep (s : State) (die core : Nat) : State :=
  match (s.epiHeads (coreKey die core)).head? with
  | none => s
  | some key =>
    match s.head key 5 with
    | none => s
    | some x =>
      let t := x.dst.t
      let u := t.unit
      let unit := epiUnit key 0 x.width false t (if x.hasThird then some x.third.t else none) x.snap x.scale x.act x.rnd x.sat
      let (z, stop) := sweepFrom unit u ((t.count - x.prog + u - 1) / u) x.prog ⟨s, x.rng, 0⟩
      let zero := x.hasThird && z.s.biasZero key x.third.t t x.prog ((stop.map (·.1)).getD t.count)
      let x := { x with rng := z.rng, flags := x.flags ||| z.fl.setWidth 8 ||| (if zero then 0x80 else 0) }
      match stop with
      | none => z.s.endCmd key 5 { x with prog := t.count } 2
      | some (k, e) => z.s.cmdStop key 5 { x with prog := k } e

/-! ## Collectives (R303–R306) -/

/-- An element of another member's source: its package supplies it, so the value is free (log 40). -/
def State.freeElem (s : State) (n : Nat) : Nat × State :=
  (leNat ((List.range n).map (fun i => Config.freeByte (s.fresh + i))), { s with fresh := s.fresh + n })

/-- The pattern of element `i` of a member's source. -/
def State.collArg (s : State) (key : Nat) (t : Tens) (p i : Nat) : Except TStop (Nat × Bool) × State :=
  if p = Config.pkg then s.cRead key (t.addr (t.idx i)).1 t.size
  else
    let (x, s) := s.freeElem t.size
    (.ok (x, false), s)

/-- The patterns of element `i` of every live member. -/
def State.collArgs (s : State) (key : Nat) (t : Tens) (i : Nat) : List Nat → Except TStop (List Nat × Bool) × State
  | [] => (.ok ([], false), s)
  | p :: ps =>
    match s.collArg key t p i with
    | (.error e, s) => (.error e, s)
    | (.ok (x, z), s) =>
      match s.collArgs key t i ps with
      | (.ok (xs, y), s) => (.ok (x :: xs, z || y), s)
      | r => r

/-- The combination of one element over the live members (R305); a signalling NaN among the sources raises NV, and the rounding of 1/L its NX
(R102). -/
def collComb (f : Fmt) (op : COp) (xs : List Nat) : Nat × BitVec 6 :=
  let leaves (l : List Nat) : List (Option Nat) := l.map some ++ List.replicate (64 - l.length) none
  if f.isInt then redTree (match op with | .max => .maxS | _ => .add) 6 (leaves xs)
  else
    let ys := xs.map (fun x => (roundTo ff32 (elemValue f x 0) .rn false 0).1)
    let nv : BitVec 6 := flIf (xs.any (fun x => (elemValue f x 0).isSig)) flNV
    let (r, fl) := redTree (match op with | .max => .fmax | _ => .fadd) 6 (leaves ys)
    let (r, fl) := match op with
      | .mean =>
        let (c, fc) := roundTo ff32 ((Ex.fin false 1 0).div (Ex.fin false xs.length 0)) .rn false 0
        let (y, fy) := fMul ff32 .rn r c 0
        (y, fl ||| fc ||| fy)
      | _ => (r, fl)
    let (y, fy) := elemRound f (ff32.value r) .rn false 0
    (y, fl ||| fy ||| nv)

/-- The value destination element `e` takes (R304); the inner `none` where it is not written. -/
def State.collValue (s : State) (key : Nat) (x : Cmd) (all live : List Nat) (e : Nat) : Except TStop (Option Nat × BitVec 8) × State :=
  let t := x.src.t
  let zr (z : Bool) : BitVec 8 := if z then 0x80 else 0
  let comb (i : Nat) : Except TStop (Option Nat × BitVec 8) × State :=
    match s.collArgs key t i live with
    | (.error st, s) => (.error st, s)
    | (.ok (xs, z), s) =>
      let (y, fl) := collComb t.f x.cop xs
      (.ok (some y, fl.setWidth 8 ||| zr z), s)
  let one (p i : Nat) : Except TStop (Option Nat × BitVec 8) × State :=
    match s.collArg key t p i with
    | (.error st, s) => (.error st, s)
    | (.ok (y, z), s) => (.ok (some y, zr z), s)
  match x.ckind with
  | .ar => comb e
  | .rs => comb (all.idxOf Config.pkg * (t.count / max 1 all.length) + e)
  | .bcast => one (live.headD Config.pkg) e
  | .ag =>
    let p := (all[e / max 1 t.count]?).getD Config.pkg
    if live.contains p then one p (e % max 1 t.count) else (.ok (none, 0), s)

/-- SHRUNK of a command that runs over a live set (R306). -/
def shrunk (all live : List Nat) : BitVec 8 := if live.length < all.length then 0x40 else 0

/-- The writes of a collective from its saved progress. -/
def State.collRun (s : State) (key : Nat) (all live : List Nat) : Nat → Cmd → State
  | 0, x => s.setHead key 6 x
  | fuel + 1, x =>
    let d := x.dst.t
    if d.count ≤ x.prog then
      s.endCmd key 6 x 2
    else match s.collValue key x all live x.prog with
      | (.error e, s) => s.cmdStop key 6 x e
      | (.ok (y, fl), s) =>
        match (match y with | none => ((none, s) : Option TStop × State) | some y => s.tWrite key 0 (d.addr (d.idx x.prog)).1 d.size y) with
        | (some e, s) => s.cmdStop key 6 x e
        | (none, s) => State.collRun s key all live fuel { x with prog := x.prog + 1, flags := x.flags ||| fl }

/-- Run the collective at the head of xq once its matching commands are all placed (R303). -/
def State.collGo (s : State) (key : Nat) : State :=
  match s.head key 6 with
  | none => s
  | some x =>
    if x.kind ≠ .coll ∨ !x.runs then s
    else
      let ctx := s.ctxOf (s.ag key)
      let all := pkgsOf (s.collEntry ctx x.group)
      let live := pkgsOf (s.liveMask ctx x.group)
      s.collRun key all live (x.dst.t.count - x.prog + 1) { x with flags := x.flags ||| shrunk all live }

/-- A collective whose only live member is this package has its matching commands at once; another waits for its peers (R303). -/
def State.collTry (s : State) (key : Nat) : State :=
  match s.head key 6 with
  | none => s
  | some x => if x.kind = .coll ∧ pkgsOf (s.liveMask (s.ctxOf (s.ag key)) x.group) = [Config.pkg] then s.collGo key else s

/-- The peers' matching commands arrive: they agree and the collective runs, the disagreement of R303 completes it ERROR, or a member has lost the
courier context that placed its command, and it completes ERROR (R455); which, the peers decide (log 40). -/
def State.collMatch (s : State) (key : Nat) : State :=
  match s.head key 6 with
  | none => s
  | some x =>
    if x.kind ≠ .coll ∨ !x.runs ∨ x.prog ≠ 0 then s
    else
      let (b, s) := s.freeByte
      if b.getLsbD 0 then (s.cmdRecord key 6 x .collMismatch 0 0).endCmd key 6 x 3
      else if b.getLsbD 1 then s.endCmd key 6 x 3
      else (s.setHead key 6 { x with matched := true }).collGo key

/-- COLL_RESTART (R306): the group's collectives in progress read the live members' sources again from the start, one that has met its peers'
commands at once; one that restarts, or has run, over fewer than its members keeps SHRUNK. -/
def State.collRestart (s : State) (ctx g : Nat) : State :=
  let ks := (s.couriers.filter (fun p => s.ctxOf (s.ag p.1) == ctx && (match s.head p.1 6 with
    | some x => x.kind == .coll && x.started && x.group == g && x.result.isNone
    | none => false))).map (·.1)
  ks.foldl (fun s k => match s.head k 6 with
    | some x =>
      let s := s.setHead k 6 { x with prog := 0, flags := (x.flags &&& 0x40) ||| shrunk (pkgsOf (s.collEntry ctx g)) (pkgsOf (s.liveMask ctx g)), stalled := false }
      if x.matched then s.collGo k else s.collTry k
    | none => s) s

/-- A change of the live set restarts the collectives of every group that has the package as a member (R306, R437). -/
def State.liveChanged (s : State) (pkg : Nat) : State :=
  { s with todo := s.todo ++ (List.range 64).flatMap (fun c => ((List.range 16).filter (fun g => (s.collEntry c g).getLsbD pkg)).map (fun g => .collRestart c g)) }

/-- MEMBER_LIVENESS_LOSS (R437). -/
def State.memberLost (s : State) (pkg : Nat) : State :=
  if pkg = Config.pkg ∨ !s.domain.contains pkg ∨ s.lostPkgs.contains pkg then s
  else ({ s with lostPkgs := s.lostPkgs ++ [pkg] } : State).liveChanged pkg

/-- COLL_TABLE_WRITE (R436): only while no `coll` of the group is placed. -/
def State.collTable (s : State) (ctx g : Nat) (m : W64) : State :=
  let placed := s.couriers.any (fun p => s.ctxOf (s.ag p.1) == ctx && (p.2.queue 6).any (fun x => x.kind == .coll && x.group == g))
  if 64 ≤ ctx ∨ 16 ≤ g ∨ placed then s
  else
    let n := s.no ioNode
    (s.setNo ioNode { n with priv := memPutBytes n.priv (collAddr ctx g) (leBytes 8 m.toNat) }).collReset ctx g

/-! ## Starting and completing commands -/

/-- Markers leave when every queue that holds one of the same `qfence` has it at its head (R279). -/
def State.popMarkers (s : State) (key mark : Nat) : State :=
  let c := s.cc key
  let has (q : Nat) : Bool := (c.queue q).any (fun x => x.kind == .marker && x.mark == mark)
  let top (q : Nat) : Bool := match (c.queue q).head? with | some x => x.kind == .marker && x.mark == mark | none => false
  let qs := (List.range 7).filter has
  if qs.all top then
    let c := qs.foldl (fun (c : CCtx) q => { c with queues := tput c.queues q ((c.queue q).drop 1) }) c
    { s.setCc key c with todo := s.todo ++ qs.map (fun q => .commandStart key q) ++ [.teamEnd (s.ag key).team] }
  else s

/-- COMMAND_START (R108): the head of a queue that has not started is checked, and handed to its engine. -/
def State.cmdStart (s : State) (key q : Nat) : State :=
  match s.head key q with
  | none => s
  | some x =>
    if x.kind = .marker then s.popMarkers key x.mark
    else if x.started then s
    else if x.result.isSome then { s with todo := s.todo ++ [.commandComplete key q] }
    else
      let a := s.ag key
      let x := { x with started := true }
      match s.cmdBad key x with
      | some det => ((s.setHead key q x).cmdRecord key q x .illformedCmd 0 det).failQueue key q
      | none =>
        let s := s.setHead key q x
        match x.kind with
        | .copyDl => if (s.dlTeams key x.list).isEmpty then s.endCmd key q x 2 else s
        | .layout => { s with todo := s.todo ++ [.layoutRun a.die (a.core / 4)] }
        | .epi => { s with todo := s.todo ++ [.epiStart a.die a.core] }
        | .coll => if (s.liveMask (s.ctxOf a) x.group).getLsbD Config.pkg then s.collTry key else s.endCmd key q x 3
        | _ => s

/-- The cycles a command spends on its way to its engine: the unloaded access time of a home, which the manual does not give for it (log 100). -/
def cmdDelay : Nat := 420

/-- Whether a command has not started and its engine may start it. -/
def Cmd.due (x : Cmd) (now : Nat) : Bool := x.kind != .marker && !x.started && x.result.isNone && decide (x.placed + cmdDelay ≤ now)

/-- The head of a queue goes on if it can: a marker or a finished command at once, a new one once it has reached its engine (R108). -/
def State.cmdNext (s : State) (key q : Nat) : State :=
  match s.head key q with
  | none => s
  | some x => if x.kind = .marker ∨ x.started ∨ x.result.isSome ∨ x.due s.cycle then s.cmdStart key q else s

/-- Every head of a queue that has reached its engine starts. -/
def State.startDue (s : State) : State :=
  s.couriers.foldl (fun s c => (List.range 7).foldl (fun s q => match s.head c.1 q with
    | some x => if x.due s.cycle then s.cmdStart c.1 q else s
    | none => s) s) s

/-- Destination bytes a command covers (R285): zero when its image gives no size. -/
def coverBytes (e : TEntry) : Nat :=
  let t := e.t
  if (fmtOf t.fmt).isNone then 0
  else if t.f = .p4 then t.count / 2 + t.count / 32 else t.count * t.size

/-- The countdown of a command's postbox, in each team it reaches (R285, R287). -/
def State.cmdCount (s : State) (key : Nat) (x : Cmd) : State :=
  match x.pbx with
  | none => s
  | some ea =>
    let teams := if x.kind = .copyDl then s.dlTeams key x.list else [(s.ag key).team]
    teams.foldl (fun s t => s.pbxCount t (aperOff ea) (coverBytes x.dst)) s

/-- COMMAND_COMPLETE (R38, R275, R285, R291): a release at `.dom` (R337, R430), after which the finished head's chain, postbox and receipt are
updated, it leaves, and the queue goes on. -/
def State.cmdComplete (s : State) (key q : Nat) : State :=
  match s.head key q with
  | none => s
  | some x =>
    match x.result with
    | none => s
    | some out =>
      let a := s.ag key
      let s := (s.release key .dom).performHome key
      let c := s.cc key
      let (out, c, s) :=
        if x.kind = .copySeal then
          let (out, ch, run) := sealEnd (c.chain q) x out
          let c' := { c with chains := tput c.chains q ch }
          match run with
          | none => (out, c', s)
          | some r => (out, c', s.cmdRecord key q x .sealMismatch 0 (r.toNat + 2 ^ 32 * (x.expect.getD 0).toNat))
        else (out, c, s)
      let c := c.complete x.rcpt out x.flags
      let c := { c with queues := tput c.queues q ((c.queue q).drop 1) }
      let s := (s.setCc key c).cmdCount key x
      let s := s.wakeQ key
      { s with todo := s.todo ++ [.commandStart key q, .teamEnd a.team] }

/-- COMMAND_FAULT_RESUME (R276): once no record of the agent's engine faults is pending, the stalled head goes on at its progress. -/
def State.cmdResume (s : State) (key q : Nat) : State :=
  let a := s.ag key
  match s.head key q with
  | none => s
  | some x =>
    if !x.stalled || (s.di a.die).ring.any (fun r => r.2.engine && r.2.agent == key) then s
    else
      let s := s.setHead key q { x with stalled := false }
      match x.kind with
      | .layout => { s with todo := s.todo ++ [.layoutRun a.die (a.core / 4)] }
      | .epi => { s with todo := s.todo ++ [.epiStart a.die a.core] }
      | .coll => s.collGo key
      | _ => s

/-! ## The steps -/

/-- COMMAND_START (R108). -/
def execCommandStart (agent queue : Nat) (s : State) : Host.Outcome State Fault Refusal := .next (s.cmdStart agent queue)
/-- COPY_ENGINE_LINE (R286). -/
def execCopyEngineLine (die core : Nat) (s : State) : Host.Outcome State Fault Refusal := .next (s.copyStep die core)
/-- LAYOUT_ENGINE_COMMAND (R299). -/
def execLayoutEngineCommand (die cluster : Nat) (s : State) : Host.Outcome State Fault Refusal := .next (s.layoutStep die cluster)
/-- EPILOGUE_START (R512). -/
def execEpilogueStart (die core : Nat) (s : State) : Host.Outcome State Fault Refusal := .next (s.epiStep die core)
/-- COMMAND_FAULT_RESUME (R276). -/
def execCommandFaultResume (agent queue : Nat) (s : State) : Host.Outcome State Fault Refusal := .next (s.cmdResume agent queue)
/-- COMMAND_COMPLETE (R275): a collective's head that has not finished meets its peers' matching commands. -/
def execCommandComplete (agent queue : Nat) (s : State) : Host.Outcome State Fault Refusal :=
  .next ((if queue = 6 then s.collMatch agent else s).cmdComplete agent queue)
/-- COLL_RESTART (R306). -/
def execCollRestart (ctx group : Nat) (s : State) : Host.Outcome State Fault Refusal := .next (s.collRestart ctx group)
/-- MEMBER_LIVENESS_LOSS (R437). -/
def execMemberLivenessLoss (pkg : Nat) (s : State) : Host.Outcome State Fault Refusal := .next (s.memberLost pkg)
/-- COLL_TABLE_WRITE (R436). -/
def execCollTableWrite (ctx group : Nat) (mask : W64) (s : State) : Host.Outcome State Fault Refusal := .next (s.collTable ctx group mask)

end Sys2Proof.Machine
end

