-- ==== Sys2Proof/Machine/System.lean ====
section
/-! DEFINITION. System instructions and the register writes behind them (R46–R50, R308, R317, R320–R330, R378): `trap` and its return,
`eret`, system registers, `launch`, the capacity record, the time base, events, saves, and `wsld`. -/

namespace Sys2Proof.Machine

/-! ## The capacity record (R50, R384–R386, R398) -/

/-- Set bits of a mask. -/
def popCount (m : BitVec n) : Nat := ((List.range n).filter (fun i => m.getLsbD i)).length

/-- Whether a die is in service. -/
def Die.inService (d : Die) : Bool := d.st == .inService

/-- 64 KiB frames a near stack serves: in proportion to its working channels, none when it is lost or its die fenced (R384, R386). -/
def State.stackFrames (s : State) (i : Nat) : Nat :=
  if s.stackUp.getLsbD i && !(s.no (22 + i)).fenced then 976563 * popCount (s.no (22 + i)).chans / 32 else 0

/-- Near-tier pages in service. -/
def State.nearPages (s : State) : Nat := min 7812500 ((List.range 8).foldl (fun n i => n + s.stackFrames i) 0)

/-- Far-tier pages in service. -/
def State.farPages (s : State) : Nat :=
  [30, 31].foldl (fun n i => if (s.no i).fenced then n else n + Config.farBytes / 65536 * popCount (s.no i).chans / 48) 0

/-- The code of a die's state (R50); a joining die keeps its earlier one until it is in service (R458). -/
def dieCode : DieSt → Nat
  | .inService => 0
  | .spare => 1
  | .fenced => 2
  | .absent => 3
  | .joining _ f => if f then 2 else 1

/-- The eight words of a capacity record as the machine stands: 0xFF the package, 0–21 a die (R50). -/
def State.capNow (s : State) (sel : Nat) : List Nat :=
  if sel = 0xFF then
    let bits (f : Die → Bool) : Nat := ((List.range 22).filter (fun i => f (s.di i))).foldl (fun n i => n + 2 ^ i) 0
    [s.capGen, bits Die.inService, bits (fun d => dieCode d.st == 1), s.nearPages / 16, s.farPages / 16,
     ((List.range 16).filter (fun i => (tget s.ports i).up)).foldl (fun n i => n + 2 ^ i) 0,
     (List.range 22).foldl (fun n i => if (s.di i).inService then n + popCount (s.di i).cores else n) 0, s.domain.length]
  else
    let d := s.di sel
    let c := dieCode d.st
    if c = 3 then [s.capGen, 3, 0, 0, 0, 0, 0, 0]
    else [s.capGen, c, d.cores.toNat, d.placed.toNat, d.variant.toNat, 96, if c = 0 then popCount d.cores else 0, 0]

/-- The capacity record that software reads: all words of one generation (R50, R324). -/
def State.capWords (s : State) (sel : Nat) : List Nat := tget s.capRec sel

/-- The capacity generation moves on, and the records with it (R398); admission may decide again. -/
def State.bumpCap (s : State) : State :=
  let s : State := { s with capGen := (s.capGen + 1) % 2 ^ 32 }
  { s with capRec := (0xFF :: List.range 22).map (fun i => (i, s.capNow i)), todo := s.todo ++ [.admission] }

/-! ## Writes of system registers (R46–R48, R378) -/

/-- Slices a hash variant uses (R47). -/
def variantCount (v : BitVec 2) : Nat := match v.toNat with | 0 => 16 | 1 => 15 | 2 => 14 | _ => 12

/-- Write back and drop every line of a die's L2 (R378 step 4). -/
def State.flushL2 (s : State) (die : Nat) : State :=
  (((s.di die).l2.map (·.line)).foldl (fun s l => (s.evict die l).settle l settleFuel) s)

/-- SLICE_RETIRE (R47, R378): misses stall until a variant of the new population is written; under 12 slices the die is fenced. -/
def State.retireSlices (s : State) (die : Nat) (mask : BitVec 16) : State :=
  let d := s.di die
  let left := d.slices &&& ~~~ mask
  if left = d.slices then s
  else
    let s := s.setDi die { d with slices := left, stall := true }
    if popCount left < 12 then { s with todo := s.todo ++ [.nodeFence die] } else s

/-- HASH_VARIANT_WRITE (R47, R378 step 4): ignored unless the variant has as many slices as work. -/
def State.setVariant (s : State) (die : Nat) (v : BitVec 2) : State :=
  if variantCount v ≠ popCount (s.di die).slices then s
  else
    let s := s.flushL2 die
    (s.setDi die { s.di die with variant := v, placed := (s.di die).slices, stall := false }).bumpCap

/-- MXCHK_INTERVAL_WRITE (R48, R111): a value off the list is ignored; an accepted one clears the cores' counters. -/
def State.setMxchk (s : State) (die : Nat) (n : BitVec 13) : State :=
  if [0, 64, 128, 256, 512, 1024, 2048, 4096].contains n.toNat then
    let s := s.setDi die { s.di die with mxchk := n }
    { s with cores := s.cores.map (fun c => if ckDie c.1 = die then (c.1, { c.2 with mmaCount := 0 }) else c) }
  else s

/-- SYS_SPOOR_CLEAR (R41, R46). -/
def State.clearSpoor (s : State) (ctx : Nat) : State := s.setCx ctx { s.cx ctx with spoor := false, spoorAddr := 0 }

/-- sys.wsref: period 64 µs, step 4 µs, window 2 µs (R49). -/
def wsrefValue : W64 := 0x00400402

/-- sys.cause (R312): cause and index of the oldest record without a disposition, 0 when there is none. -/
def State.causeReg (s : State) (die : Nat) : W64 :=
  match (s.di die).ring.find? (fun p => memGet (s.no die).priv (ringAddr p.1 + 62) == 0) with
  | some p => BitVec.ofNat 64 (p.2.cause + 256 * p.1)
  | none => 0

/-- Die-scoped selectors (R46). -/
def SysReg.ofDie : SysReg → Bool
  | .hashsel | .mxchk | .shadow | .ckscb | .trapvec | .wsref | .ctxsel | .cause => true
  | _ => false

/-- The value of a system register for an agent (R46, R321). -/
def State.sysRead (s : State) (a : Agent) (r : SysReg) : W64 :=
  let d := s.di a.die
  let c := s.cx (s.ctxOf a)
  match r with
  | .ptbase => c.ptbase
  | .hashsel => BitVec.ofNat 64 (4 * d.slices.toNat + d.variant.toNat)
  | .mxchk => d.mxchk.setWidth 64
  | .shadow => if d.shadow then 1 else 0
  | .ckscb => if d.ckscb then 1 else 0
  | .trapvec => d.trapvec
  | .spoor => if c.spoor then 1 else 0
  | .wsref => wsrefValue
  | .tmo => BitVec.ofNat 64 (s.no a.die).tmo
  | .ctxsel => d.ctxsel.setWidth 64
  | .cause => s.causeReg a.die
  | .csave => c.csave

/-- Write a system register (R46–R48, R321): reserved bits are not kept; the root of a context's tables makes the context exist (log 41). -/
def State.sysWrite (s : State) (a : Agent) (r : SysReg) (x : W64) : State :=
  let die := a.die
  let d := s.di die
  let ctx := s.ctxOf a
  let c := s.cx ctx
  match r with
  | .ptbase => s.setCx ctx { c with ptbase := x &&& ~~~ 0xFFF#64, live := true }
  | .hashsel => (s.retireSlices die (x.extractLsb' 2 16)).setVariant die (x.extractLsb' 0 2)
  | .mxchk => s.setMxchk die (x.extractLsb' 0 13)
  | .shadow => s.setDi die { d with shadow := x.getLsbD 0 }
  | .ckscb => s.setDi die { d with ckscb := x.getLsbD 0 }
  | .trapvec => s.setDi die { d with trapvec := x &&& ~~~ 0xFF#64 }
  | .spoor => if x.getLsbD 0 then s.clearSpoor ctx else s
  | .tmo => if 64 ≤ x.toNat ∧ x.toNat ≤ 65536 then s.setNo die { s.no die with tmo := x.toNat } else s
  | .ctxsel => s.setDi die { d with ctxsel := x.extractLsb' 0 6 }
  | .csave => s.setCx ctx { c with csave := x &&& ~~~ 0xFFFF#64 }
  | .wsref | .cause => s

/-- MFS (R321): a die-scoped selector is illegal on the I/O die. -/
def execMfs (c : Ctl) (sel : SysReg) (d : BitVec 6) (s : State) : Host.Outcome State Fault Refusal :=
  issue (.mfs c sel d) s (fun s v _ =>
    if 22 ≤ v.die && SysReg.ofDie sel then .error { cause := .illegal } else .ok { s := s, ws := wS sel.wide d (s.sysRead v sel) })

/-- MTS (R321). -/
def execMts (c : Ctl) (sel : SysReg) (sb : BitVec 6) (s : State) : Host.Outcome State Fault Refusal :=
  issue (.mts c sel sb) s (fun s v _ =>
    if 22 ≤ v.die && SysReg.ofDie sel then .error { cause := .illegal } else .ok { s := s.sysWrite v sel (v.sw sel.wide sb.toNat) })

/-- SYS_SPOOR_CLEAR (R46). -/
def execSysSpoorClear (ctx : Nat) (s : State) : Host.Outcome State Fault Refusal := .next (s.clearSpoor ctx)
/-- SLICE_RETIRE (R47). -/
def execSliceRetire (die : Nat) (mask : BitVec 16) (s : State) : Host.Outcome State Fault Refusal := .next (s.retireSlices die mask)
/-- HASH_VARIANT_WRITE (R378). -/
def execHashVariantWrite (die : Nat) (variant : BitVec 2) (s : State) : Host.Outcome State Fault Refusal := .next (s.setVariant die variant)
/-- MXCHK_INTERVAL_WRITE (R48). -/
def execMxchkIntervalWrite (die : Nat) (n : BitVec 13) (s : State) : Host.Outcome State Fault Refusal := .next (s.setMxchk die n)

/-! ## trap and eret (R315, R317, R320) -/

/-- Three words of eight bytes of a trap record (R317): PC, ACTIVE and SAVED. -/
def State.loadRecord (s : State) (key : Nat) (lane : Nat) (base : W64) : Except Trap (W64 × W64 × W64) × State :=
  let at_ (o : Nat) : W64 := base + BitVec.ofNat 64 o
  match s.laneChecks (s.ag key) [(lane, at_ 0), (lane, at_ 24), (lane, at_ 48)] 8 .read with
  | (.error st, s) => (.error (stopTrap .read st), s)
  | (.ok sp, s) =>
    match s.loadLanes key 8 .none sp with
    | (.error (e, l, ea), s) => (.error (loadTrap e l ea), s)
    | (.ok xs, s) =>
      let x (i : Nat) : W64 := BitVec.ofNat 64 ((xs[i]?).getD (0, 0)).2
      (.ok (x 0, x 1, x 2), s)

/-- What the record of a kernel's trap gives back (R317): PC, ACTIVE and SAVED as they stand, or free values where software has left another
divergence depth than it found, an outcome under R9 (log 80). -/
def State.kernelBack (s : State) (a : Agent) (x : W64 × W64 × W64) : (W64 × W64 × W64) × State :=
  if a.depth = a.trapDepth then (x, s)
  else ((freeW64 s.fresh 0, freeW64 s.fresh 1, freeW64 s.fresh 2), { s with fresh := s.fresh + 24 })

/-- TRAP (R317, R320): code 255 returns from the kernel's handler; the record of any other code names the following word. -/
def execTrap (c : Ctl) (code : BitVec 8) (s : State) : Host.Outcome State Fault Refusal :=
  issue (.trap c code) s (fun s v act =>
    let key := s.cur
    if code = 255 then
      if !v.inHandler then .error { cause := .illegal }
      else afterAtoms s (match s.loadRecord key ((lanesOf act).headD 0) (v.s64 (v.ns - 2)) with
        | (.error t, s) => .ok { s := s, trap := some t }
        | (.ok x, s) =>
          let a := s.ag key
          let ((pc, active, saved), s) := s.kernelBack a x
          .ok { s := s.setAg key { (a.putS64 (a.ns - 2) saved) with inHandler := false, act := active &&& a.pres }, pc := some pc, taken := true })
    else .error { cause := .trap, detail32 := code.setWidth 32, pc := some (v.pc + 8) })

/-- ERET (R315): on a node without a trap ring it ends the firmware's run. -/
def execEret (c : Ctl) (s : State) : Host.Outcome State Fault Refusal :=
  issue (.eret c) s (fun s v _ =>
    .ok { s := if v.die < 22 then s.eretDie v.die else s.setAg s.cur { s.ag s.cur with wait := .halted, pc := v.pc + 8 }, gone := true })

/-! ## launch, capq, ptbrd, evsig -/

/-- Device launches of a context that admission has not decided (R322). -/
def State.deviceWaiting (s : State) (ctx : Nat) : Nat :=
  (s.admq.map (fun q => (q.2.filter (fun r => r.device && r.ctx == ctx)).length)).foldl (· + ·) 0

/-- Enter a launch request at the end of its class's queue, or at its front (R400, R404): the launch.id it is given. One of a timetable slot comes
before those of other sources that entered in the same cycle (R416). -/
def State.enqueue (s : State) (handle args : W64) (ctx prio : Nat) (device : Bool) (entry : Option Nat) (front : Bool) (slot : Nat := 0) : Nat × State :=
  let lid := s.nextLid
  let r : LReq := { lid := lid, handle := handle, args := args, ctx := ctx, prio := prio, device := device, entry := entry, front := front, slot := slot,
                    born := s.cycle }
  let q := tget s.admq prio
  let late := (q.reverse.takeWhile (fun x => entry.isSome && x.entry.isNone && x.born == s.cycle)).length
  let q' := if front then r :: q else q.take (q.length - late) ++ r :: q.drop (q.length - late)
  (lid, { s with nextLid := (lid + 1) % 2 ^ 32, admq := tput s.admq prio q', todo := s.todo ++ [.admission] })

/-- Whether a class's admission queue holds 256 requests (R400). -/
def State.admFull (s : State) (prio : Nat) : Bool := decide (256 ≤ (tget s.admq prio).length)

/-- LAUNCH (R322, R400): the agent stalls while its context has 64 device launches waiting or the queue is full. -/
def execLaunch (c : Ctl) (sa sb sc : BitVec 6) (s : State) : Host.Outcome State Fault Refusal :=
  issue (.launch c sa sb sc) s (fun s v _ =>
    let key := s.cur
    let args := v.s64 sb.toNat
    let cls := v.s32 sc.toNat
    if 4 ≤ cls.toNat ∨ args.toNat % 16 ≠ 0 then .error { cause := .illegal }
    else if aperOf args ≠ .global then .error { cause := .addr, addr := args }
    else afterAtoms s (
      let s := (s.release key .dom).performHome key
      let ctx := s.ctxOf v
      if 64 ≤ s.deviceWaiting ctx || s.admFull cls.toNat then .ok (s.stall key)
      else .ok { s := (s.enqueue (v.s64 sa.toNat) args ctx cls.toNat true none false).2 }))

/-- CAPQ (R324). -/
def execCapq (c : Ctl) (d : BitVec 6) (sel : BitVec 8) (s : State) : Host.Outcome State Fault Refusal :=
  issue (.capq c d sel) s (fun s _ _ =>
    .ok { s := s, ws := (s.capWords sel.toNat).zipIdx.map (fun p => RegW.s (d.toNat + p.2) (BitVec.ofNat 32 p.1)) })

/-- PTBRD (R325). -/
def execPtbrd (c : Ctl) (d : BitVec 6) (s : State) : Host.Outcome State Fault Refusal :=
  issue (.ptbrd c d) s (fun s v _ => .ok { s := s, ws := wS true d (BitVec.ofNat 64 (s.ptbAt v.die)) })

/-- EVSIG (R326): the agent stalls while the context's event queue holds 256. -/
def execEvsig (c : Ctl) (code : BitVec 8) (s : State) : Host.Outcome State Fault Refusal :=
  issue (.evsig c code) s (fun s v _ => afterAtoms s (
    let key := s.cur
    let s := (s.release key .sys).performHome key
    let ctx := s.ctxOf v
    let x := s.cx ctx
    if 256 ≤ x.evq.length then .ok (s.stall key)
    else
      let e : Event := { ctx := ctx, code := code.toNat, die := v.die, lid := (s.launchOf v).lid, ptb := s.ptbAt v.die }
      .ok { s := { s.setCx ctx { x with evq := x.evq ++ [e] } with todo := s.todo ++ [.eventSend ctx] } }))

/-! ## ctxsave, ctxrest, safepoint -/

/-- Teams of a context that hold resources and are not saved. -/
def State.residentTeams (s : State) (ctx : Nat) : List Nat :=
  (s.teams.filter (fun p => p.2.live && p.2.ctx == ctx && p.2.pre != .saved)).map (·.1)

/-- CTXSAVE (R327): admission stops, every team is asked to stop, and the word retires when each is saved or gone. -/
def execCtxsave (c : Ctl) (sa : BitVec 6) (s : State) : Host.Outcome State Fault Refusal :=
  issue (.ctxsave c sa) s (fun s v _ =>
    let ctx := (v.s32 sa.toNat).toNat
    if 63 < ctx then .error { cause := .illegal }
    else
      let x := s.cx ctx
      let ts := s.residentTeams ctx
      if x.saved ∨ ts.isEmpty then .ok { s := s.setCx ctx { x with admStop := true, saved := true, saving := false } }
      else
        let s := s.setCx ctx { x with admStop := true, saving := true }
        let asks := (ts.filter (fun t => (s.tm t).pre == .none)).map Todo.preempt
        .ok (({ s with todo := s.todo ++ asks } : State).stall s.cur))

/-- CTXREST (R328): a restore that arrives during a save waits for it; on a context that is not saved it has no effect. -/
def execCtxrest (c : Ctl) (sa : BitVec 6) (s : State) : Host.Outcome State Fault Refusal :=
  issue (.ctxrest c sa) s (fun s v _ =>
    let ctx := (v.s32 sa.toNat).toNat
    let x := s.cx ctx
    if 63 < ctx then .error { cause := .illegal }
    else if x.saving then .ok (s.stall s.cur)
    else if x.saved then .ok { s := { s.setCx ctx { x with admStop := false, saved := false } with todo := s.todo ++ [.admission] } }
    else .ok { s := s })

/-- SAFEPOINT (R329). -/
def execSafepoint (c : Ctl) (s : State) : Host.Outcome State Fault Refusal := issue (.safepoint c) s (fun s _ _ => .ok { s := s })

/-! ## wsld (R330) -/

/-- Copy lines of 128 bytes into the weight store, from byte `o` of the copy on; where it stops, the byte it stops at. -/
def State.wsCopy (s : State) (key lane : Nat) (src : W64) (dst : Nat) : Nat → Nat → Option (Nat × Trap) × State
  | 0, _ => (none, s)
  | n + 1, o =>
    let ea (i : Nat) : W64 := src + BitVec.ofNat 64 (o + 16 * i)
    match s.laneChecks (s.ag key) ((List.range 8).map (fun i => (lane, ea i))) 16 .read with
    | (.error st, s) => (some (o, stopTrap .read st), s)
    | (.ok sp, s) =>
      match s.loadLanes key 16 .none sp with
      | (.error (e, l, a), s) => (some (o, loadTrap e l a), s)
      | (.ok xs, s) =>
        let die := (s.ag key).die
        let s := s.wsWait die ((dst + o) / wsBank)
        let d := s.di die
        let s := s.setDi die { d with ws := memPutBytes d.ws (dst + o) (xs.flatMap (fun x => leBytes 16 x.2)),
                                      wsBad := d.wsBad.filter (fun g => !(decide (dst + o ≤ 32 * g) && decide (32 * g < dst + o + 128))) }
        State.wsCopy (if o / 128 % 2 = 1 then s.advance 1 else s) key lane src dst n (o + 128)

/-- WSLD (R330): a page fault is replayed from the first line not written. -/
def execWsld (c : Ctl) (sa sb sc : BitVec 6) (s : State) : Host.Outcome State Fault Refusal :=
  issue (.wsld c sa sb sc) s (fun s v act =>
    let key := s.cur
    let src := v.s64 sa.toNat
    let off := (v.s32 sb.toNat).toNat
    let n := (v.s32 sc.toNat).toNat
    if !(s.launchOf v).hdr.wload then .error { cause := .illegal }
    else if src.toNat % 128 ≠ 0 ∨ off % 128 ≠ 0 ∨ n % 128 ≠ 0 then .error { cause := .align, addr := src }
    else if aperOf src ≠ .global ∨ Config.wsBytes < off + n then .error { cause := .addr, addr := src }
    else afterAtoms s (match s.wsCopy key ((lanesOf act).headD 0) src off ((n - v.wsProg) / 128) v.wsProg with
      | (none, s) => .ok { s := s.setAg key { s.ag key with wsProg := 0 } }
      | (some (o, t), s) => .ok { s := s.setAg key { s.ag key with wsProg := if t.cause = .pageFault then o else 0 }, trap := some t }))

end Sys2Proof.Machine
end

