-- ==== Sys2Proof/Machine/Fetch.lean ====
section
/-! DEFINITION. Fetching an instruction's words (R113, R118) and handing it to the decoder. -/

namespace Sys2Proof.Machine

/-- Eight bytes of code at a physical address as a die fetches them: its L2's copy, else the home's bytes. Of a word that software has changed
under a running launch R144 allows either version; this is the one the model takes (log 89). -/
def State.codeWord (s : State) (die pa : Nat) (cls : PClass) : W64 :=
  match (s.di die).line? (pa / 128) with
  | some x => if x.cls = cls ∧ (x.fill ∨ (x.mask &&& maskAt (pa % 128) 8) = maskAt (pa % 128) 8) then BitVec.ofNat 64 (lineNat x.data (pa % 128) 8) else s.homeWord pa
  | none => s.homeWord pa

/-- Fetch a word from a scratchpad, stack or weight-store aperture (R87, R113): the offset there, as for a load. A stack is its thread's; the
group's is that of its lowest lane (log 89). -/
def State.fetchOffset (s : State) (a : Agent) (pc : W64) : Except Trap W64 × State :=
  if addrBad s a pc .exec then (.error { cause := .addr, addr := pc }, s)
  else
    match s.spotOf a ((lanesOf a.pres).headD 0) pc .exec with
    | (.error st, s) => (.error (stopTrap .exec (st, 0xFF, pc)), s)
    | (.ok sp, s) =>
      match s.loadSpot a.key pc sp 8 .none with
      | (.error e, s) => (.error (loadTrap e 0xFF pc), s)
      | (.ok x, s) => (.ok (BitVec.ofNat 64 x), s)

/-- Fetch the word at an address for an agent (R113): firmware's addresses are private or physical (log 5). -/
def State.fetchWord (s : State) (a : Agent) (pc : W64) : Except Trap W64 × State :=
  if pc.toNat % 8 ≠ 0 then (.error { cause := .illegal }, s)
  else if a.kind = .firmware then
    let pa := pc.toNat % 2 ^ 56
    if pc.toNat < 2 ^ 20 then (.ok (BitVec.ofNat 64 (leNat (s.privBytes a.die pc.toNat 8))), s)
    else match s.homeAbort (pa / 128) (s.fwClass pc) with
      | some e => (.error (loadTrap e 0xFF pc), s)
      | none => (.ok (s.homeWord pa), s)
  else if aperOf pc ≠ .global then s.fetchOffset a pc
  else
    match s.translateAt a.die a.core (s.ctxOf a) (pc.toNat % 2 ^ 56) .exec with
    | (.ok _ _ true _ _ _ _, s) => (.ok 0, s)
    | (.ok pa cls false _ _ _ _, s) =>
      (match s.homeAbort (pa / 128) cls with
       | some e => .error (loadTrap e 0xFF pc)
       | none => .ok (s.codeWord a.die pa cls), s)
    | (.fault m, s) => (.error (stopTrap .exec (.fault m (pc.toNat % 2 ^ 56), 0xFF, pc)), s)
    | (.addr, s) => (.error { cause := .addr, addr := pc }, s)
    | (.perm, s) => (.error { cause := .perm, addr := pc }, s)
    | (.abort e, s) => (.error (loadTrap e 0xFF pc), s)

/-- Whether the half of an H word that does not decode is B (R122). -/
def badHalfB (w : W64) : Bool :=
  kindOf w == 1 && (match parseHalf (w.extractLsb' 31 31), parseHalf (w.extractLsb' 0 31) with
    | some a, some b => a.ok && !b.ok
    | some a, none => a.ok
    | none, _ => false)

/-- Fetch and decode the instruction at an address: the word, and the literal after it where it takes one (R113, R118, R119). -/
def State.fetch (s : State) (a : Agent) (pc : W64) : Except Trap Instr × State :=
  match s.fetchWord a pc with
  | (.error t, s) => (.error t, s)
  | (.ok w, s) =>
    let dec (x : Option W64) : Except Trap Instr :=
      match decodeWord w x with
      | .ok i => .ok i
      | .error _ => .error { cause := .illegal, halfB := badHalfB w }
    if wantsLit w then
      match s.fetchWord a (pc + 8) with
      | (.error t, s) => (.error t, s)
      | (.ok x, s) => (dec (some x), s)
    else (dec none, s)

end Sys2Proof.Machine
end

