-- ==== Sys2Proof/Machine/Preempt.lean ====
section
/-! DEFINITION. Pre-emption at safe points (R78–R82): the request, a group's stop with its frame (R80) and save routine, the saved
team (R53, R81), and the timeout. -/

namespace Sys2Proof.Machine

/-! ## Writing a context's memory (R81) -/

/-- Write bytes at a global virtual address of a context, page by page, at their homes; pages that do not take them are passed over. -/
def State.ctxPut (s : State) (die ctx va : Nat) (bs : List Byte) : Nat → State
  | 0 => s
  | fuel + 1 =>
    if bs.isEmpty then s
    else
      let n := 65536 - va % 65536
      ((s.ctxWrite die ctx va (bs.take n)).getD s).ctxPut die ctx (va + n) (bs.drop n) fuel

/-- A team's scratchpad allocation in its save block: the even core's bytes, then at once the odd core's (R81; log 25). -/
def State.teamScratch (s : State) (t : Team) : List Byte :=
  let half (ck base : Nat) : List Byte := memBytes (s.co ck).scratch base t.spad
  let even := coreKey t.die t.core
  half even t.base0 ++ (if t.paired then half (even + 1) t.base1 else [])

/-- The team record's bytes (R81): `st` is 1 resident, 2 saved, 0 free. -/
def teamRecord (t : Team) (st : Nat) : List Byte :=
  leBytes 4 t.lid ++ leBytes 4 t.bg ++ leBytes 1 t.teamId ++ leBytes 1 st ++ List.replicate 54 0

/-- Write a team's record. -/
def State.putRecord (s : State) (t : Team) (st : Nat) : State := s.ctxPut t.die t.ctx (s.blockVa t) (teamRecord t st) 1

/-! ## The request (R79 step 1) -/

/-- The courier contexts of a team. -/
def State.teamCouriers (s : State) (team : Nat) : List Nat :=
  (s.agents.filter (fun p => p.2.kind == .courier && p.2.team == team)).map (·.1)

/-- The core keys a team occupies. -/
def Team.cores (t : Team) : List Nat :=
  let even := coreKey t.die t.core
  if t.paired then [even, even + 1] else [even]

/-- PREEMPT_REQUEST: a request that meets one in progress merges with it (R82); the team's pigeonholes are released. -/
def State.preempt (s : State) (team : Nat) : State :=
  let t := s.tm team
  if !t.live ∨ t.pre ≠ .none then s
  else
    let s := s.setTm team { t with pre := .asked s.cycle }
    let s := t.cores.foldl (fun s ck => s.drainHoles team ck) s
    { s with todo := s.todo ++ [.teamSaved team] }

/-! ## Stopping an agent (R79, R80) -/

/-- Bits of a width (R80). -/
def widthCode (w : Nat) : Nat := if w = 16 then 0 else if w = 32 then 1 else 2

/-- The top divergence entry of an agent; a spilled one is read from the spill lane's stack (R177). -/
def State.topDiv (s : State) (key : Nat) : DivEntry :=
  let a := s.ag key
  if a.depth = 0 then ⟨0, 0⟩
  else if a.depth ≤ 16 then a.stack.headD ⟨0, 0⟩
  else match s.spillSpot key a.depth .read with
    | (.error _, _) => ⟨0, 0⟩
    | (.ok sp, s) => match s.loadSpot key (spillEa (s.teamOf a).stack a.depth) sp 16 .none with
      | (.ok x, _) => ⟨BitVec.ofNat 64 x, BitVec.ofNat 64 (x / 2 ^ 64)⟩
      | (.error _, _) => ⟨0, 0⟩

/-- The 64 bytes of a frame (R80). -/
def frameBytes (a : Agent) (top : DivEntry) (spidx rank parity : Nat) : List Byte :=
  leBytes 8 a.pc.toNat ++ leBytes 8 a.act.toNat ++ leBytes 8 top.pc.toNat ++ leBytes 8 top.mask.toNat ++ leBytes 2 a.depth ++ leBytes 2 spidx ++
    leBytes 1 rank ++ leBytes 1 a.slot ++ leBytes 1 (widthCode a.width + (if a.matrix then 4 else 0) + 8 * parity) ++ leBytes 1 0 ++
    leBytes 4 a.gang.toNat ++ leBytes 4 a.flags.toNat ++ leBytes 8 a.pres.toNat ++ leBytes 8 (a.s64 (a.ns - 2)).toNat

/-- Bytes of a divergence record: the entries at depths 1 to 16 (R81). -/
def divBytes (a : Agent) : List Byte := (a.stack.reverse.take 16).flatMap (fun e => leBytes 8 e.pc.toNat ++ leBytes 8 e.mask.toNat)

/-- The index of an agent's frame: 64 or 65 for a courier context, and for a group its chain rank (R80). A group that ended after another one
stopped lowers the rank of those behind it: no index is given twice, and those of a chain rise (log 90). -/
def State.frameIdx (s : State) (key : Nat) : Nat :=
  let a := s.ag key
  let t := s.teamOf a
  if a.kind ≠ .group then 64 + (a.core - t.core)
  else
    let chain := s.teamGroups a.team
    let at_ := s.rank key
    let below := (t.frames.filter (fun p => p.2.kind == .group && decide (chain.idxOf p.2.key < at_))).map (fun p => p.1 + (at_ - chain.idxOf p.2.key))
    let first := below.foldl max at_
    let free (i : Nat) : Bool := !(t.frames.any (fun p => p.1 == i))
    ((((List.range 64).drop first).find? free).or ((List.range 64).find? free)).getD at_

/-- Stop an agent at the safe point of an index (R79 steps 2 and 3): registers landed, frame and divergence record written, and its save
routine entered; `none` when the index has no table entry (R78). -/
def State.stopAt (s : State) (key idx : Nat) : Option State :=
  let a := s.ag key
  match tfind (s.launchOf a).hdr.safes idx with
  | none => none
  | some (save, _) =>
    let t := s.teamOf a
    let rank := s.frameIdx key
    let s := (s.advance (a.landed s.cycle - s.cycle)).drainAll key
    let a := s.ag key
    let a := { a with pend := [], inflight := [], lands := [], pc := if a.wait = .none then a.pc else a.wpc, waited := a.wait, stopAt := some idx, latch := none }
    let va := s.blockVa t
    let s := s.ctxPut a.die t.ctx (va + 0x40 + 64 * rank) (frameBytes a (s.topDiv key) idx rank (a.core - t.core)) 2
    let s := s.ctxPut a.die t.ctx (va + 0x1100 + 256 * rank) (divBytes a) 2
    let s := s.setTm a.team { s.tm a.team with frames := tput (s.tm a.team).frames rank a }
    let user := va + 0x110000 + rank * s.userBytes a.die t.ctx
    some (s.setAg key { a.putS64 (a.ns - 2) (BitVec.ofNat 64 user) with inSave := true, wait := .none, pc := save, ready := s.cycle + 1 })

/-- Whether a waiting agent may stop at a flagged word: it waits in that `bar.sync`, `gbar` or `pbwait` (R79, R236), or at the latch with a
flagged `mma`, from which it withdraws (R247). -/
def stopWait (a : Agent) : Bool :=
  match a.wait with
  | .barrier _ _ | .gbar _ | .postbox _ _ => true
  | .latch => match a.latch with | some w => w.safe | none => false
  | _ => false

/-- Whether a request reaches an agent: its team is asked to stop and it is in no handler, save or restore routine (R79, R83, R316). -/
def State.asked (s : State) (a : Agent) : Bool :=
  a.live && a.kind != Kind.firmware && !a.inHandler && !a.inSave && !a.inRestore &&
    (match (s.teamOf a).pre with | .asked _ => true | _ => false)

/-- The safe-point index at which an agent is to stop now, if its next word or the word it waits in is flagged; a placing that has copied its
images goes on to its end first (R274). -/
def State.safeIdx (s : State) (key : Nat) : Option Nat :=
  let a := s.ag key
  if !s.asked a ∨ (s.cc key).staged.isSome then none
  else if a.wait = .none ∨ stopWait a then
    match (s.fetch a (if a.wait = .none then a.pc else a.wpc)).1 with
    | .ok i => (shape a.width i).c.safe.map (·.toNat)
    | .error _ => none
  else none

/-- SAFE_POINT_STOP: the stop, or ILLEGAL at a flagged word without a table entry (R78, R79). -/
def State.safeStop (s : State) (key : Nat) : Host.Outcome State Fault Refusal :=
  match s.safeIdx key with
  | none => .next s
  | some idx =>
    match s.stopAt key idx with
    | some s' => .next s'
    | none =>
      let a := s.ag key
      (s.setAg key { a with wait := .none, pc := if a.wait = .none then a.pc else a.wpc }).takeTrap key { cause := .illegal }

/-! ## The saved team (R53, R79 step 4, R81) -/

/-- Whether every group and courier context of a team has saved or ended (R79 step 4). -/
def State.allSaved (s : State) (team : Nat) : Bool :=
  (s.agents.all (fun p => !(p.2.live && p.2.kind != Kind.firmware && p.2.team == team) || p.2.wait == .saved)) &&
    (s.tm team).cores.all (fun ck => !((s.co ck).xbar.any (fun p => p.2.team == team)) &&
      !((s.co ck).holes.any (fun p => p.2.live && p.2.team == team && !p.2.ths.isEmpty)))

/-- Whether a matrix engine still has an `mma` of a team (R246, R251). -/
def State.mmaBusy (s : State) (team : Nat) : Bool := (s.tm team).cores.any (fun ck => (s.co ck).mmas.any (fun m => m.team == team))

/-- The core number under which a saved team's scratchpad and courier contexts are held: its own, above every core's. -/
def savedCore (team core : Nat) : Nat := 65536 * (team + 1) + core % 65536

/-- An agent moves to another key with its queues, and what names it follows (R53, R83). -/
def State.moveAgent (s : State) (old new : Nat) (a : Agent) : State :=
  let f (k : Nat) : Nat := if k = old then new else k
  let c := s.cc old
  let s : State := { s with
    agents := tdel s.agents old
    couriers := tdel s.couriers old
    reqs := s.reqs.map (fun q => { q with agent := f q.agent })
    dies := s.dies.map (fun d => (d.1, { d.2 with ring := d.2.ring.map (fun r => (r.1, { r.2 with agent := f r.2.agent })) }))
    todo := s.todo.map (fun x => match x with
      | .commandStart k q => .commandStart (f k) q
      | .commandComplete k q => .commandComplete (f k) q
      | .commandResume k q => .commandResume (f k) q
      | x => x) }
  (s.setAg new a).setCc new c

/-- A courier context moves to a core with its queues, the snapshots of its `epi` commands and what names it (R53, R83); its commands in progress
go on there. -/
def State.moveCourier (s : State) (old : Nat) (a : Agent) : State :=
  let s := s.moveAgent old a.key a
  { s with todo := s.todo ++ (List.range 7).map (Todo.commandStart a.key) ++ [.layoutRun a.die (a.core / 4), .epiStart a.die a.core] }

/-- The rank bits of a barrier as a saved team holds them: by frame (R235). -/
def saveRanks (t : Team) (r : LaneMask) : LaneMask :=
  t.frames.foldl (fun (m : LaneMask) p => if p.2.kind = .group ∧ r.getLsbD (32 * (p.2.core - t.core) + p.2.slot) then m ||| BitVec.twoPow 64 p.1 else m) 0

/-- The arrivals at a `gbar` of a saved team's groups, by frame (R236). -/
def saveGarr (t : Team) (g : List Nat) : List Nat :=
  g.map (fun k => match t.frames.find? (fun p => p.2.kind == .group && p.2.key == k) with
    | some p => gcode t.bg t.teamId p.1
    | none => k)

/-- `n` free bytes (log 3). -/
def State.freeBytes (s : State) (n : Nat) : List Byte × State :=
  ((List.range n).map (fun i => Config.freeByte (s.fresh + i)), { s with fresh := s.fresh + n })

/-- Bytes of an accumulator tile in a save block: row-major words (R81). -/
def Tile.bytes (t : Tile) : List Byte := (List.range 4096).flatMap (fun i => leBytes 4 (tget t.el i).toNat)

/-- The hardware's part of a saved team's block (R81): the state at 0x6000, whose layout is the D940's own and is not given (log 25), the
sixteen tiles of the store the team holds, the even core's where it holds both (log 25), the scratchpad allocation, and the record. -/
def State.putBlock (s : State) (t : Team) (tiles : Tab Tile) : State :=
  let va := s.blockVa t
  let (own, s) := s.freeBytes 40960
  let s := s.ctxPut t.die t.ctx (va + 0x6000) own 2
  let lo := if tiles.any (fun p => decide (p.1 < 16)) then 0 else 16
  let s := if tiles.isEmpty then s else
    (List.range 16).foldl (fun s z => s.ctxPut t.die t.ctx (va + 0x10000 + 16384 * z) (Tile.bytes ((tfind tiles (lo + z)).getD ⟨false, 0, []⟩)) 2) s
  (s.ctxPut t.die t.ctx (va + 0x50000) (s.teamScratch t) 14).putRecord t 2

/-- The tiles of the stores a team holds, those of the odd core of a pair from 16 up (R34). -/
def State.teamTiles (s : State) (team : Nat) : Tab Tile :=
  let t := s.tm team
  t.cores.flatMap (fun ck => if (s.co ck).zteam = some team then
    (List.range 16).map (fun z => (16 * (ck - coreKey t.die t.core) + z, s.tile ck z)) else [])

/-- The hardware-saved state of R53 moves into the team and its save block, and the team's resources are free. Its courier contexts, with the
commands they have placed, and the image of its scratchpad go to the core number of saved teams (R277); what commands that run on there write
changes that image alone, not the block's bytes, of which the manual says nothing (log 97). -/
def State.saveTeam (s : State) (team : Nat) : State :=
  let t := s.tm team
  let cs := s.teamCouriers team
  let tiles := s.teamTiles team
  let s := s.putBlock t tiles
  let half (p base : Nat) : List Byte := memBytes (s.co (coreKey t.die t.core + p)).scratch base t.spad
  let core := savedCore team t.core
  let frames := cs.foldl (fun (f : Tab Agent) k => let a := s.ag k; if a.live then f else tput f (64 + (a.core - t.core)) a) t.frames
  let t' : Team := { t with pre := .saved, frames := frames, zsaved := tiles, core := core, base0 := 0, base1 := 0,
                            bars := t.bars.map (fun b => (b.1, { b.2 with ranks := saveRanks t b.2.ranks })), slots0 := [], slots1 := [] }
  let l := s.la t.lid
  let s := s.setLa t.lid { l with garr := saveGarr t l.garr }
  let s := s.setTm team t'
  let s := s.setCo (coreKey t.die core) { (default : Core) with scratch := memPutBytes [] 0 (half 0 t.base0) }
  let s := if t.paired then s.setCo (coreKey t.die core + 1) { (default : Core) with scratch := memPutBytes [] 0 (half 1 t.base1) } else s
  let s := { s with agents := s.agents.filter (fun p => !(p.2.kind == Kind.group && p.2.team == team)) }
  let s := cs.foldl (fun s k => let a := s.ag k; s.moveCourier k { a with core := core + (a.core - t.core) }) s
  t.cores.foldl (fun s ck => if (s.co ck).zteam = some team then s.setCo ck { s.co ck with zteam := none } else s) s

/-- A block group of which no team runs, some being saved, enters its launch's re-run list (R413). -/
def State.listSaved (s : State) (lid bg : Nat) : State :=
  let l := s.la lid
  let mine := s.teams.filter (fun p => p.2.live && p.2.lid == lid && p.2.bg == bg)
  if mine.isEmpty ∨ mine.any (fun p => p.2.pre != .saved) ∨ l.rerun.contains bg then s else s.setLa lid { l with rerun := l.rerun ++ [bg] }

/-- TEAM_SAVE_COMPLETE (R79 step 4): the die's release of `.pkg`, the save, and, when no team of the block group runs, its entry in the
re-run list (R413). -/
def State.teamSave (s : State) (team : Nat) : State :=
  let t := s.tm team
  let asked : Bool := match t.pre with | .asked _ => true | _ => false
  if !t.live || !asked || !s.allSaved team || s.mmaBusy team || s.teamOwes team then s
  else if (s.agents.all (fun p => !(p.2.live && p.2.kind != Kind.firmware && p.2.team == team))) && (s.teamCouriers team).all (fun k => (s.cc k).queues.all (fun q => q.2.isEmpty)) then
    { s.setTm team { t with pre := .none } with todo := s.todo ++ [.teamEnd team] }
  else
    let s := ((s.releaseDie t.die).saveTeam team).listSaved t.lid t.bg
    { s with todo := s.todo ++ [.admission, .placement] }

/-- The cycle by which a team asked to stop must have stopped (R82). -/
def State.deadline (s : State) (team : Nat) : Option Nat :=
  match (s.tm team).pre with
  | .asked c => some (c + 2 * (s.la (s.tm team).lid).hdr.maxsafe)
  | _ => none

/-- PREEMPT_TIMEOUT (R82): the record for the launch, and its context is killed. -/
def State.preemptLate (s : State) (team : Nat) : State :=
  let t := s.tm team
  match s.deadline team with
  | none => s
  | some c =>
    if s.cycle ≤ c || s.allSaved team then s
    else
      let s := s.errorRecord t.ctx { cause := .preemptTimeout, source := 9, lid := t.lid }
      let s := s.setLa t.lid { s.la t.lid with cause := Cause.preemptTimeout.code }
      let s := s.setTm team { t with pre := .none }
      { s with todo := s.todo ++ [.contextKill t.ctx] }

/-! ## The steps -/

/-- PREEMPT_REQUEST (R79). -/
def execPreemptRequest (team : Nat) (s : State) : Host.Outcome State Fault Refusal := .next (s.preempt team)
/-- SAFE_POINT_STOP (R79). -/
def execSafePointStop (agent : Nat) (s : State) : Host.Outcome State Fault Refusal := s.safeStop agent
/-- TEAM_SAVE_COMPLETE (R79). -/
def execTeamSaveComplete (team : Nat) (s : State) : Host.Outcome State Fault Refusal := .next (s.teamSave team)
/-- PREEMPT_TIMEOUT (R82). -/
def execPreemptTimeout (team : Nat) (s : State) : Host.Outcome State Fault Refusal := .next (s.preemptLate team)

end Sys2Proof.Machine
end

