-- ==== Sys2Proof/Machine/Placement.lean ====
section
/-! DEFINITION. Placing block groups on cores (R58, R73, R408–R413), team creation (R11, R17, R36, R138), resuming saved teams (R83),
the ends of teams, block groups and launches (R75, R323), and pre-emption by priority (R414). -/

namespace Sys2Proof.Machine

/-- Whether a redirection is in progress or complete (R460). -/
def Redir.on (r : Redir) : Bool := decide (1 ≤ r.step) && decide (r.step ≤ 6)

/-! ## Room on a core (R13, R408, R409) -/

/-- Teams that hold resources on a core. -/
def State.coreTeams (s : State) (ck : Nat) : List Team :=
  (s.teams.filter (fun p => p.2.live && p.2.pre != .saved && p.2.cores.contains ck)).map (·.2)

/-- Register-file bytes a group of a kernel takes (R13). -/
def Hdr.regBytes (h : Hdr) : Nat := h.width * h.nv * 4

/-- Slots a core's teams hold, with the register bytes of each. -/
def State.heldSlots (s : State) (ck : Nat) : List (Nat × Nat) :=
  (s.coreTeams ck).flatMap (fun t => (t.slotsOn ck).map (fun x => (x, (s.la t.lid).hdr.regBytes)))

/-- Slots for `n` more groups: each the lowest free one whose pipe has register room (R409). -/
def takeSlots (need : Nat) : Nat → List (Nat × Nat) → Option (List Nat)
  | 0, _ => some []
  | n + 1, held =>
    match (List.range 32).find? (fun x => !(held.any (fun p => p.1 == x)) &&
        decide ((held.filter (fun p => p.1 % 4 == x % 4)).foldl (fun b p => b + p.2) need ≤ 131072)) with
    | none => none
    | some x => (takeSlots need n (held ++ [(x, need)])).map (x :: ·)

/-- First fit for `size` bytes among allocations (base, bytes) of the scratchpad (R408). -/
def firstFit (used : List (Nat × Nat)) (size : Nat) : Option Nat :=
  ((0 :: used.map (fun p => p.1 + p.2)).insertionSort (· ≤ ·)).find? (fun b => decide (b + size ≤ Config.spadBytes) &&
    used.all (fun p => p.2 == 0 || size == 0 || decide (b + size ≤ p.1) || decide (p.1 + p.2 ≤ b)))

/-- Scratchpad allocations of a core. -/
def State.spadUsed (s : State) (ck : Nat) : List (Nat × Nat) :=
  (s.coreTeams ck).map (fun t => (if ck = coreKey t.die t.core then t.base0 else t.base1, t.spad))

/-- Chain ranks a core of a team takes: those below half on the even core of a pair (R408). -/
def Hdr.ranks (h : Hdr) (parity : Nat) : List Nat :=
  let half := (h.teamg + 1) / 2
  if h.paired then (if parity = 0 then List.range half else (List.range (h.teamg - half)).map (half + ·)) else List.range h.teamg

/-- Whether a kernel has a matrix-role group among ranks. -/
def Hdr.matrixIn (h : Hdr) (rs : List Nat) : Bool := rs.any (fun r => h.roles.getLsbD r)

/-- Slots, scratchpad base and accumulator store on one core for a team. -/
def State.coreRoom (s : State) (h : Hdr) (ck n : Nat) (mat : Bool) : Option (List Nat × Nat) :=
  let d := s.di (ck / 16)
  if !d.inService || (s.no (ck / 16)).fenced || !d.cores.getLsbD (ck % 16) || (mat && (s.co ck).zteam.isSome) then none
  else match takeSlots h.regBytes n (s.heldSlots ck), firstFit (s.spadUsed ck) h.spad with
    | some sl, some b => some (sl, b)
    | _, _ => none

/-- The lowest free save block of a context (R81, R408). -/
def State.freeBlock (s : State) (die ctx : Nat) : Option Nat :=
  let used := (s.cx ctx).blocks
  let n := s.ctxField die ctx (s.cx ctx).csave.toNat 4
  (List.range (used.length + 1)).find? (fun b => !used.contains b && decide (b < n))

/-- Whether a weight-load launch keeps a launch's teams off a die, or the reverse (R331, R408). -/
def State.wsClash (s : State) (lid die : Nat) : Bool :=
  s.teams.any (fun p => p.2.live && p.2.pre != .saved && p.2.die == die && p.2.lid != lid && ((s.la lid).hdr.wload || (s.la p.2.lid).hdr.wload))

/-! ## Creating a team (R11, R17, R36, R81, R99, R138) -/

/-- The tensor table of a new team: the header's records in order, an ARGBASE word in place of its base (R138, R140). A word that cannot be read
leaves the entry invalid (log 94). -/
def State.initTable (s : State) (l : Launch) (die : Nat) : Tab TEntry :=
  l.hdr.tens.foldl (fun t r =>
    let (n, arg, img) := r
    if arg then
      match s.ctxGet die l.ctx (l.args.toNat + imgBits img 0 12) 8 with
      | some bs => tput t n ⟨true, imgPut img 0 64 (leNat bs), []⟩
      | none => tput t n ⟨false, img, []⟩
    else tput t n ⟨true, img, []⟩) []

/-- Create one group of a team (R11, R17, R511). -/
def State.newGroup (s : State) (team ck slot rank start : Nat) : State :=
  let t := s.tm team
  let l := s.la t.lid
  let h := l.hdr
  let (rng, s) := s.seed team ck slot h.width
  let a : Agent := { live := true, kind := .group, die := ck / 16, core := ck % 16, slot := slot, team := team, pc := h.entry, width := h.width,
                     nv := h.nv, ns := h.ns, matrix := h.roles.getLsbD rank, act := allLanes h.width, pres := allLanes h.width,
                     tids := (List.range h.width).map (fun i => (i, h.width * rank + i)), rng := rng, prio := l.prio, ready := start, since := start, newborn := true }
  s.setAg (64 * ck + slot) (a.putS64 0 l.args)

/-- The lowest courier context number free on a core (R36). -/
def State.freeCourier (s : State) (ck : Nat) : Option Nat :=
  (List.range 32).find? (fun n => !(s.agents.any (fun p => p.1 == 64 * ck + 32 + n)))

/-- Start a courier context of a team on a core whose kernel declares one (R17, R36, R141, R271). Where all 32 numbers of the core are held the
team has none there (log 94). -/
def State.newCourier (s : State) (team ck start : Nat) : State :=
  let l := s.la (s.tm team).lid
  match l.hdr.courier, s.freeCourier ck with
  | some entry, some n =>
    let a : Agent := { live := true, kind := .courier, die := ck / 16, core := ck % 16, slot := n, team := team, pc := entry, newborn := true, width := 16,
                       ns := l.hdr.ns, act := 1, pres := 1, prio := l.prio, ready := start, since := start }
    (s.setAg (64 * ck + 32 + n) (a.putS64 0 l.args)).setCc (64 * ck + 32 + n) {}
  | _, _ => s

/-- Resources of a team on the cores of a place: for each parity the slots and the scratchpad base. -/
def State.teamRoom (s : State) (h : Hdr) (die core : Nat) : Option (List (List Nat × Nat)) :=
  let ps := if h.paired then [0, 1] else [0]
  let r := ps.map (fun p => s.coreRoom h (coreKey die core + p) (h.ranks p).length (h.matrixIn (h.ranks p)))
  if r.all Option.isSome then some (r.map (fun x => x.getD ([], 0))) else none

/-- Take the accumulator store of each core where a team has a matrix-role group; creation clears its valid bits (R34). -/
def State.takeStores (s : State) (h : Hdr) (team die core : Nat) (clear : Bool) : State :=
  (if h.paired then [0, 1] else [0]).foldl (fun s p =>
    let ck := coreKey die core + p
    if h.matrixIn (h.ranks p) then s.setCo ck { s.co ck with zteam := some team, tiles := if clear then [] else (s.co ck).tiles } else s) s

/-- Place one team on a core or an even core of a pair (R408, R409). -/
def State.placeTeam (s : State) (lid bg tid start die core : Nat) : Option State :=
  let l := s.la lid
  let h := l.hdr
  if s.wsClash lid die ∨ (h.paired ∧ core % 2 ≠ 0) then none
  else match s.teamRoom h die core, s.freeBlock die l.ctx with
    | some room, some b =>
      let team := s.nextTeam
      let sl (p : Nat) : List Nat := ((room[p]?).getD ([], 0)).1
      let base (p : Nat) : Nat := ((room[p]?).getD ([], 0)).2
      let t : Team := { live := true, lid := lid, ctx := l.ctx, bg := bg, teamId := tid, paired := h.paired, die := die, core := core, base0 := base 0,
                        base1 := base 1, spad := h.spad, stack := h.stack, block := b, slots0 := sl 0, slots1 := sl 1, tt := s.initTable l die,
                        started := start }
      let s : State := { s with nextTeam := team + 1 }
      let s := (s.setTm team t).setCx l.ctx { s.cx l.ctx with blocks := (s.cx l.ctx).blocks ++ [b] }
      let s := s.takeStores h team die core true
      let s := (if h.paired then [0, 1] else [0]).foldl (fun s p =>
        let ck := coreKey die core + p
        let s := ((h.ranks p).zip (sl p)).foldl (fun s x => s.newGroup team ck x.2 x.1 start) s
        s.newCourier team ck start) s
      some (s.putRecord t 1)
    | _, _ => none

/-! ## Resuming a saved team (R83) -/

/-- A group or courier context comes back from its frame: registers zero but for three pairs, its restore routine entered (R83). -/
def restoreAgent (a : Agent) (l : Launch) (user : Nat) (restore : W64) (die core slot start : Nat) (rng : Tab (BitVec 128)) : Agent :=
  let b : Agent := { live := a.live, kind := a.kind, die := die, core := core, slot := slot, team := a.team, width := a.width, nv := a.nv, ns := a.ns,
                     matrix := a.matrix, act := a.act, pres := a.pres, stack := a.stack, depth := a.depth, spillLane := a.spillLane, tids := a.tids,
                     flags := a.flags, gang := a.gang, rng := rng, pc := restore, inRestore := true, resumePc := a.pc, waited := a.waited,
                     storeAbort := a.storeAbort, prio := a.prio, ready := start, since := start }
  ((b.putS64 0 l.args).putS64 (a.ns - 4) a.pc).putS64 (a.ns - 2) (BitVec.ofNat 64 user)

/-- A gang register with each listed slot replaced by its member's new one (R83). -/
def remapGang (m : List (Nat × Nat)) (g : W32) : W32 :=
  let f (i : Nat) : Nat := let o := g.toNat / 2 ^ (5 * i) % 32; ((m.find? (fun p => p.1 == o)).map (·.2)).getD o
  if g = 0 then 0
  else
    let n := (gangSlots g).length
    BitVec.ofNat 32 ((List.range 4).foldl (fun x i => x + (if i < n then f i else 0) * 2 ^ (5 * i)) 0 + g.toNat / 2 ^ 20 * 2 ^ 20)

/-- Rank bits of a barrier by slot again (R235): `pos` gives each frame its core parity and new slot. -/
def loadRanks (pos : Tab (Nat × Nat)) (r : LaneMask) : LaneMask :=
  pos.foldl (fun (m : LaneMask) p => if p.1 < 64 ∧ r.getLsbD p.1 then m ||| BitVec.twoPow 64 (32 * p.2.1 + p.2.2) else m) 0

/-- Whether a team's save block still holds what the save wrote of an agent: its frame, but for the top divergence entry, and its divergence record
(R81, R83). -/
def State.frameKept (s : State) (t : Team) (die i : Nat) (a : Agent) : Bool :=
  let va := s.blockVa t
  let same (x y : List Byte) : Bool := x.take 16 == y.take 16 && x.drop 32 == y.drop 32
  (match s.ctxGet die t.ctx (va + 0x40 + 64 * i) 64 with
   | some bs => same bs (frameBytes a ⟨0, 0⟩ (a.stopAt.getD 0) i (a.core % 65536 - t.core % 65536))
   | none => true) &&
  (match s.ctxGet die t.ctx (va + 0x1100 + 256 * i) (divBytes a).length with
   | some bs => bs == divBytes a
   | none => true)

/-- An agent whose frame software has changed: free values, which R9 leaves open, where the frame is loaded (R81; log 103). -/
def Agent.unkept (a : Agent) (f : Nat) : Agent :=
  { a with pc := freeW64 f 0, act := freeW64 f 1 &&& a.pres, flags := (freeW64 f 2).setWidth 6,
           stack := a.stack.zipIdx.map (fun e => ⟨freeW64 f (3 + 2 * e.2), freeW64 f (4 + 2 * e.2)⟩) }

/-- The frames of a team as its resume loads them. -/
def State.loadFrames (s : State) (t : Team) (die : Nat) : Tab Agent × State :=
  t.frames.foldl (fun (acc : Tab Agent × State) p =>
    if acc.2.frameKept t die p.1 p.2 then (acc.1 ++ [p], acc.2)
    else (acc.1 ++ [(p.1, p.2.unkept acc.2.fresh)], { acc.2 with fresh := acc.2.fresh + 512 })) ([], s)

/-- The core numbers a saved team was held under hold nothing more. -/
def State.dropSaved (s : State) (team : Nat) : State := { s with cores := s.cores.filter (fun p => p.1 / 65536 != team + 1) }

/-- Resume one saved team on a core or an even core of a pair (R83): its save block is the one it kept. -/
def State.resumeTeam (s : State) (team start die core : Nat) : Option State :=
  let t := s.tm team
  let (frames, s) := s.loadFrames t die
  let t := { t with frames := frames }
  let l := s.la t.lid
  let h := l.hdr
  if !t.live ∨ t.pre ≠ .saved ∨ s.wsClash t.lid die ∨ (h.paired ∧ core % 2 ≠ 0) then none
  else match s.teamRoom h die core with
    | none => none
    | some room =>
      let sl (p : Nat) : List Nat := (((room[p]?).getD ([], 0)).1).insertionSort (· ≤ ·)
      let base (p : Nat) : Nat := ((room[p]?).getD ([], 0)).2
      let s := ((if h.paired then [0, 1] else [0]).map (coreKey die core + ·)).foldl (fun s ck => s.acquire die (ck % 16) .pkg) s
      let parity (a : Agent) : Nat := a.core % 65536 - t.core % 65536
      let groups := t.frames.filter (fun p => p.2.kind == .group)
      let pos : Tab (Nat × Nat) := [0, 1].flatMap (fun p => ((groups.filter (fun f => parity f.2 == p)).zip (sl p)).map (fun x => (x.1.1, (p, x.2))))
      let slots (p : Nat) : List (Nat × Nat) := (groups.filter (fun f => parity f.2 == p)).map (fun f => (f.2.slot, ((tfind pos f.1).getD (0, 0)).2))
      let t' : Team := { t with pre := .none, die := die, core := core, base0 := base 0, base1 := base 1, slots0 := sl 0, slots1 := sl 1, started := start,
                                frames := [], zsaved := [], bars := t.bars.map (fun b => (b.1, { b.2 with ranks := loadRanks pos b.2.ranks })) }
      let s := (s.setTm team t').takeStores h team die core false
      let user (i : Nat) : Nat := s.blockVa t' + 0x110000 + i * s.userBytes die t.ctx
      let restore (a : Agent) : W64 := match a.stopAt with | some i => ((tfind h.safes i).getD (0, 0)).2 | none => 0
      let s := groups.foldl (fun s f =>
        let (p, slot) := (tfind pos f.1).getD (0, 0)
        let ck := coreKey die core + p
        let (rng, s) := s.seed team ck slot h.width
        s.setAg (64 * ck + slot) (restoreAgent { f.2 with gang := remapGang (slots p) f.2.gang } l (user f.1) (restore f.2) die (core + p) slot start rng)) s
      let s := (t.frames.filter (fun p => p.2.kind == .courier)).foldl (fun s f =>
        let p := parity f.2
        let ck := coreKey die core + p
        match s.freeCourier ck, (s.teamCouriers team).find? (fun k => (s.ag k).ck == coreKey t.die t.core + p) with
        | some n, some old => s.moveCourier old (restoreAgent f.2 l (user f.1) (restore f.2) die (core + p) n start [])
        | _, _ => s) s
      let s := (if h.paired then [0, 1] else [0]).foldl (fun s p =>
        let ck := coreKey die core + p
        let sp := memBytes (s.co (coreKey t.die t.core + p)).scratch 0 t.spad
        let c := s.co ck
        s.setCo ck { c with scratch := memPutBytes c.scratch (base p) sp, bad := stillBad c.bad (base p) t.spad,
                            tiles := if h.matrixIn (h.ranks p) then (t.zsaved.filter (fun z => z.1 / 16 == p)).map (fun z => (z.1 % 16, z.2)) else c.tiles }) s
      let s := s.setLa t.lid { s.la t.lid with garr := (s.la t.lid).garr.map (fun k =>
        match pos.find? (fun p => gcode t.bg t.teamId p.1 == k) with
        | some p => 64 * (coreKey die core + p.2.1) + p.2.2
        | none => k) }
      some ((s.dropSaved team).putRecord t' 1)

/-! ## Placing a block group (R73, R409, R411) -/

/-- In-service dies that are not fenced, ascending: what touches a fenced die has no effect (R416). -/
def State.serviceDies (s : State) : List Nat := (List.range 22).filter (fun i => (s.di i).inService && !(s.no i).fenced)

/-- WEIGHT_STORE_ZERO (R331): the die writes zeros, which encode every granule afresh (R448), and the context becomes the owner; how many cycles
it takes. -/
def State.wsZero (s : State) (die ctx : Nat) : State × Nat :=
  let d := s.di die
  if d.wsOwner = some ctx then (s, 0) else (s.setDi die { d with ws := [], wsOwner := some ctx, wsBad := [] }, 393216)

/-- Saved teams of a block group, in ascending team number. -/
def State.savedTeams (s : State) (lid bg : Nat) : List Nat :=
  ((s.teams.filter (fun p => p.2.live && p.2.lid == lid && p.2.bg == bg && p.2.pre == .saved)).insertionSort (fun p q => p.2.teamId ≤ q.2.teamId)).map (·.1)

/-- Place the block group's teams in order, each on the first core that has room (R409); nothing when one finds none. -/
def State.placeOn (s : State) (lid bg die : Nat) (cores : List Nat) (start : Nat) : Option State :=
  let saved := s.savedTeams lid bg
  if saved.isEmpty then
    (List.range (s.la lid).hdr.bgteams).foldl (fun acc tid => acc.bind (fun s => cores.findSome? (fun c => s.placeTeam lid bg tid start die c))) (some s)
  else saved.foldl (fun acc t => acc.bind (fun s => cores.findSome? (fun c => s.resumeTeam t start die c))) (some s)

/-- Place a block group on a die by a step that begins at cycle `at0`: it takes 16 cycles, and a weight-load launch first zeros a store
that another context owns (R331, R409). -/
def State.placeFrom (s : State) (lid bg die : Nat) (cores : List Nat) (at0 : Nat) : Option State :=
  let (s', z) := if (s.la lid).hdr.wload then s.wsZero die (s.la lid).ctx else (s, 0)
  s'.placeOn lid bg die cores (at0 + 17 + z)

/-- Place a block group on a die by a step that begins now. -/
def State.placeBg (s : State) (lid bg die : Nat) (cores : List Nat) : Option State := s.placeFrom lid bg die cores s.cycle

/-- The first cycle at which a distributor can begin a placement step or a steal (R409, R412). -/
def State.distAt (s : State) (d : Nat) : Nat := max s.cycle (tget s.distFree d)

/-- Cores of a distributor: a die's sixteen, a cluster's four. -/
def distCores (d : Nat) : Nat × List Nat :=
  if d < 32 then (d, List.range 16) else ((d - 32) / 4, (List.range 4).map (fun i => 4 * ((d - 32) % 4) + i))

/-- Cluster distributor of a die. -/
def clusterDist (die c : Nat) : Nat := 32 + 4 * die + c

/-- Whether a launch may have block groups placed now. -/
def State.placeable (s : State) (l : Launch) : Bool :=
  l.live && l.cause == 0 && l.parkedBy.isNone && !(s.cx l.ctx).admStop && !(s.cx l.ctx).killing

/-- The next block group a distributor would place of a launch, and whether it comes from the re-run list (R411, R413). -/
def nextBg (l : Launch) (d : Nat) : Option (Nat × Bool) :=
  let own := (l.ranges.filter (fun r => r.1 == d && decide (r.2.1 < r.2.2))).map (fun r => r.2.1)
  if d < 32 ∧ !l.rerun.isEmpty ∧ !l.hdr.resident then (l.rerun.min?).map (·, true)
  else (own.min?).map (·, false)

/-- Remove a block group from where it was drawn. -/
def takeBg (l : Launch) (d bg : Nat) (rerun : Bool) : Launch :=
  if rerun then { l with rerun := l.rerun.filter (· != bg) }
  else { l with ranges := (l.ranges.map (fun r => if r.1 = d ∧ r.2.1 = bg then (r.1, bg + 1, r.2.2) else r)).filter (fun r => decide (r.2.1 < r.2.2)) }

/-- Candidates of a class at a distributor: launches with re-run block groups first, then by admission order (R411). -/
def State.candidates (s : State) (d prio : Nat) : List (Nat × Nat × Bool) :=
  let ls := s.launches.filterMap (fun p => if s.placeable p.2 && p.2.prio == prio then (nextBg p.2 d).map (fun b => (p.1, p.2.order, b)) else none)
  let l := ls.insertionSort (fun a b => (a.2.2.2 && !b.2.2.2) || (a.2.2.2 == b.2.2.2 && decide (a.2.1 ≤ b.2.1)))
  l.map (fun x => (x.1, x.2.2))

/-! ### Room that a priority pre-emption frees (R414) -/

/-- The state with some block groups' teams gone. -/
def State.without (s : State) (vs : List (Nat × Nat)) : State :=
  let gone (t : Team) : Bool := vs.contains (t.lid, t.bg)
  { s with teams := s.teams.filter (fun p => !gone p.2), agents := s.agents.filter (fun p => p.2.kind == .firmware || !gone (s.tm p.2.team)),
           cores := s.cores.map (fun p => (p.1, { p.2 with zteam := match p.2.zteam with | some t => if gone (s.tm t) then none else some t | none => none })),
           ctxs := s.ctxs.map (fun p => (p.1, { p.2 with blocks := p.2.blocks.filter (fun b => !(s.teams.any (fun t => gone t.2 && t.2.ctx == p.1 && t.2.block == b))) })) }

/-- Block groups of a die that have been asked to stop, or are about to be. -/
def State.leaving (s : State) (die : Nat) : List (Nat × Nat) :=
  ((s.teams.filter (fun p => p.2.live && p.2.die == die &&
    (s.todo.contains (.preempt p.1) || (match p.2.pre with | .asked _ => true | _ => false)))).map (fun p => (p.2.lid, p.2.bg))).dedup

/-- Whether, with a block group of a launch placed, the room a priority pre-emption frees still takes the block group that waits for it (R414). -/
def State.keepsRoom (s : State) (lid bg : Nat) : Bool :=
  match s.prioWait with
  | none => true
  | some (l, b, d) => (l == lid && (b == bg || (s.la l).hdr.resident)) || ((s.without (s.leaving d)).placeBg l b d (List.range 16)).isSome

/-- The wait for room ends with the placement of the block group, or of its resident launch (R414). -/
def State.roomFound (s : State) (lid bg : Nat) : State :=
  match s.prioWait with
  | some (l, b, _) => if l = lid ∧ (b = bg ∨ (s.la l).hdr.resident) then { s with prioWait := none } else s
  | none => s

/-- What is placed of a launch, unless it takes the room another block group waits for. -/
def State.ifRoom (lid bg : Nat) (r : Option State) : Option State := r.bind (fun s => if s.keepsRoom lid bg then some (s.roomFound lid bg) else none)

/-! ### A distributor's step -/

/-- Place several block groups in one pass, each on the lowest-numbered die with room; nothing when one finds none (R74, R83, R413). -/
def State.placeAllOf (s : State) (lid : Nat) (bgs : List Nat) : Option State :=
  bgs.foldl (fun acc bg => acc.bind (fun s => s.serviceDies.findSome? (fun d => State.ifRoom lid bg (s.placeBg lid bg d (List.range 16))))) (some s)

/-- Whether a resident launch has block groups listed that may be placed: none of its teams is still being saved (R83, R413). -/
def State.residentDue (s : State) (l : Launch) : Bool :=
  s.placeable l && l.hdr.resident && !l.rerun.isEmpty &&
    !(s.teams.any (fun p => p.2.live && p.2.lid == l.lid && ((match p.2.pre with | .asked _ => true | _ => false) || (p.2.pre != .saved && l.rerun.contains p.2.bg))))

/-- Place a resident launch's listed block groups together (R413). -/
def State.placeResident (s : State) (lid : Nat) : Option State :=
  let l := s.la lid
  if !s.residentDue l then none
  else (s.placeAllOf lid (l.rerun.insertionSort (· ≤ ·))).map (fun s => s.setLa lid { s.la lid with rerun := [] })

/-- Launches in the order the chip distributor serves them: by class, then by admission. -/
def State.servedLaunches (s : State) : List Nat :=
  (s.launches.insertionSort (fun a b => decide (a.2.prio < b.2.prio) || (a.2.prio == b.2.prio && decide (a.2.order ≤ b.2.order)))).map (·.1)

/-- Resident launches of a class whose list is due: a list that fits nowhere blocks what follows in its class (R411). -/
def State.residents (s : State) (c : Nat) : List Nat := s.servedLaunches.filter (fun l => (s.la l).prio == c && s.residentDue (s.la l))

/-- A distributor's placement of a class: its first candidate, if it fits; the step begins once the distributor's last one has ended (R409, R411). -/
def State.placeClass (s : State) (d c : Nat) : Option State :=
  let (die, cores) := distCores d
  let at0 := s.distAt d
  if !(s.di die).inService || (s.no die).fenced then none
  else match (s.candidates d c).head? with
    | none => none
    | some (lid, bg, rerun) =>
      (State.ifRoom lid bg (s.placeFrom lid bg die cores at0)).map (fun s =>
        let s := s.setLa lid (takeBg (s.la lid) d bg rerun)
        { s with distFree := tput s.distFree d (at0 + 16) })

/-- PLACEMENT_STEP (R409, R411): the first candidate of each class, highest class first, until one fits. -/
def State.placeStep (s : State) (d : Nat) : Option State :=
  [0, 1, 2, 3].findSome? (fun c => if (s.residents c).isEmpty then s.placeClass d c else none)

/-! ## Ranges and steals (R410, R412) -/

/-- Split [first, first + n) among receivers in ascending order (R410). -/
def splitRange (first n : Nat) (rs : List Nat) : List (Nat × Nat × Nat) :=
  let k := rs.length
  let f (i : Nat) : Nat := i * (n / max 1 k) + min i (n % max 1 k)
  (rs.zipIdx.map (fun r => (r.1, first + f r.2, first + f (r.2 + 1)))).filter (fun r => decide (r.2.1 < r.2.2))

/-- The state with every team gone, to ask what fits on empty cores. -/
def State.emptied (s : State) : State :=
  { s with teams := [], agents := s.agents.filter (fun p => p.2.kind == .firmware), cores := [], prioWait := none,
           ctxs := s.ctxs.map (fun p => (p.1, { p.2 with blocks := [] })) }

/-- Whether a block group of a launch fits on an empty in-service die, or on an empty cluster of one. -/
def State.fitsDie (s : State) (lid : Nat) : Bool := s.serviceDies.any (fun d => (s.emptied.placeBg lid 0 d (List.range 16)).isSome)
def State.clusterSized (s : State) (lid : Nat) : Bool :=
  s.serviceDies.any (fun d => (List.range 4).any (fun c => (s.emptied.placeBg lid 0 d (distCores (clusterDist d c)).2).isSome))

/-- A die's range handed to its clusters with a core in service when the launch is cluster-sized (R410). -/
def State.dieSplit (s : State) (lid die first n : Nat) : List (Nat × Nat × Nat) :=
  if s.clusterSized lid then
    let cs := (List.range 4).filter (fun c => (distCores (clusterDist die c)).2.any (fun i => (s.di die).cores.getLsbD i))
    splitRange first n (cs.map (clusterDist die))
  else [(die, first, first + n)]

/-- The ranges of a launch of `n` block groups (R410). -/
def State.chipSplit (s : State) (lid n : Nat) : List (Nat × Nat × Nat) :=
  (splitRange 0 n s.serviceDies).flatMap (fun r => s.dieSplit lid r.1 r.2.1 (r.2.2 - r.2.1))

/-- The first in-service die with room for a block group, in ascending number. -/
def State.placeLowest (s : State) (lid bg : Nat) : Option State :=
  s.serviceDies.findSome? (fun d => State.ifRoom lid bg (s.placeBg lid bg d (List.range 16)))

/-- Place a resident launch's `n` block groups in one pass: each where the split of R410 puts it, or, where that finds no room, on the
lowest-numbered die that has room (R74, R407, R410; log 52). -/
def State.placeSplit (s : State) (lid n : Nat) : Option State :=
  (s.chipSplit lid n).foldl (fun acc r => (List.range (r.2.2 - r.2.1)).foldl (fun acc i => acc.bind (fun s =>
    let (die, cores) := distCores r.1
    (State.ifRoom lid (r.2.1 + i) (s.placeBg lid (r.2.1 + i) die cores)).or (s.placeLowest lid (r.2.1 + i)))) acc) (some s)

/-- The die of a distributor. -/
def distDie (d : Nat) : Nat := (distCores d).1

/-- Ranges of a launch a steal takes from: those of a sibling die with its clusters, or of a sibling cluster (R412). -/
def sibling (thief x d : Nat) : Bool := if thief < 32 then distDie d == x else d == x

/-- Unstarted block groups of a sibling. -/
def unstarted (l : Launch) (thief x : Nat) : Nat := (l.ranges.filter (fun r => sibling thief x r.1)).foldl (fun n r => n + (r.2.2 - r.2.1)) 0

/-- Take the `k` highest-indexed block groups out of ranges given highest first: what stays and what moves. -/
def cutTop : Nat → List (Nat × Nat × Nat) → List (Nat × Nat × Nat) × List (Nat × Nat)
  | _, [] => ([], [])
  | k, (d, f, e) :: rest =>
    let n := min k (e - f)
    let (keep, move) := cutTop (k - n) rest
    (if e - n = f then keep else (d, f, e - n) :: keep, if n = 0 then move else (e - n, e) :: move)

/-- STEAL (R412): half the unstarted block groups of the sibling with the most; it takes 64 cycles between dies and 16 between
clusters, before which neither the thief nor a cluster of it that gets a part places them. -/
def State.steal (s : State) (lid thief : Nat) : Option State :=
  let l := s.la lid
  let sibs := if thief < 32 then (s.serviceDies.filter (· != thief)) else ((List.range 4).map (clusterDist (distDie thief))).filter (· != thief)
  let best := sibs.foldl (fun (b : Nat × Nat) x => if b.2 < unstarted l thief x then (x, unstarted l thief x) else b) (0, 0)
  if !s.placeable l || l.hdr.resident || !(s.di (distDie thief)).inService || unstarted l thief thief != 0 || best.2 < 2 then none
  else
    let mine := (l.ranges.filter (fun r => sibling thief best.1 r.1)).insertionSort (fun a b => b.2.1 ≤ a.2.1)
    let (keep, move) := cutTop (best.2 / 2) mine
    let others := l.ranges.filter (fun r => !sibling thief best.1 r.1)
    let lo := (move.map (·.1)).min?.getD 0
    let hi := (move.map (·.2)).max?.getD 0
    let got := if thief < 32 then
        (if hi - lo = best.2 / 2 then s.dieSplit lid thief lo (hi - lo) else move.map (fun m => (thief, m.1, m.2)))
      else move.map (fun m => (thief, m.1, m.2))
    let done := s.distAt thief + (if thief < 32 then 64 else 16)
    some { s.setLa lid { l with ranges := others ++ keep ++ got } with
      distFree := (thief :: got.map (·.1)).foldl (fun f d => tput f d (max (tget f d) done)) s.distFree }

/-- Whether a distributor has room for a block group of a launch. -/
def State.hasRoom (s : State) (lid d : Nat) : Bool := ((s.placeBg lid 0 (distDie d) (distCores d).2).isSome)

/-! ## Ends (R75, R76, R323) -/

/-- Count a record or completion word that could not be written (R318, R323). -/
def State.lostRec (s : State) (ctx : Nat) : State :=
  let base := (s.cx ctx).errBase.toNat
  (s.ctxWrite 0 ctx (base + 12) (leBytes 4 (s.ctxField 0 ctx (base + 12) 4 + 1))).getD s

/-- Write a launch's completion word (R323). -/
def State.completion (s : State) (ctx : Nat) (done : W64) (cause lid : Nat) : State :=
  if done = 0 then s
  else match s.ctxWrite 0 ctx (done.toNat % 2 ^ 56) (leBytes 8 (1 + 256 * cause + 2 ^ 32 * (lid % 2 ^ 32))) with
    | some s => s
    | none => s.lostRec ctx

/-- The cause a code stands for among those a launch can end with. -/
def launchCause (code : Nat) : Cause :=
  if code = 0x2A then .headerInvalid else if code = 0x2B then .resources else if code = 0x29 then .dieLost
  else if code = 0x28 then .preemptTimeout else .killed

/-- An instance has ended or was refused (R404): its entry runs no more, or runs the launch it had displaced, whose block groups may be
placed again. -/
def State.ttEnded (s : State) (lid : Nat) : State :=
  { s with
    timetable := s.timetable.map (fun (p : Nat × TTab) =>
      if p.2.parked = some lid then (p.1, { p.2 with parked := none })
      else if p.2.running = some lid then (p.1, { p.2 with running := p.2.parked, parked := none }) else p)
    launches := s.launches.map (fun (p : Nat × Launch) => if p.2.parkedBy = some lid then (p.1, { p.2 with parkedBy := none }) else p) }

/-- A launch ends (R75, R323): its completion word, the error record of a failure, and its timetable entry runs no more (R404). -/
def State.launchEnd (s : State) (lid : Nat) : State :=
  let l := s.la lid
  if !l.live then s
  else
    let s := s.completion l.ctx l.done l.cause lid
    let s := if l.cause = 0 ∨ l.cause = Cause.preemptTimeout.code then s else s.errorRecord l.ctx { cause := launchCause l.cause, source := 9, lid := lid }
    let s := s.setLa lid { l with live := false, ranges := [], rerun := [] }
    let s := match s.prioWait with | some (x, _, _) => if x = lid then { s with prioWait := none } else s | none => s
    let s := s.ttEnded lid
    let held := (s.timetable.filter (fun p => p.2.hold.isSome)).map (·.1)
    { s with launches := tdel s.launches lid, todo := s.todo ++ held.map Todo.heldSubmit ++ [.admission, .placement] }

/-- Whether every thread of a team has ended (R75). -/
def State.groupsDone (s : State) (team : Nat) : Bool :=
  !(s.agents.any (fun p => p.2.live && p.2.kind == .group && p.2.team == team)) &&
    (s.tm team).cores.all (fun ck => !((s.co ck).xbar.any (fun p => p.2.team == team)) &&
      !((s.co ck).holes.any (fun p => p.2.live && p.2.team == team && !p.2.ths.isEmpty)))

/-- Free what a team holds: its agents, pigeonholes, accumulator stores, save block and record. -/
def State.freeTeam (s : State) (team : Nat) : State :=
  let t := s.tm team
  let s := if (s.di t.die).st = .fenced then s else s.putRecord t 0
  let ks := (s.agents.filter (fun p => p.2.kind != Kind.firmware && p.2.team == team)).map (·.1)
  let c := s.cx t.ctx
  let s := ((s.deadRecs ks).dropReqs (fun q => ks.contains q.agent)).setCx t.ctx { c with blocks := c.blocks.filter (· != t.block) }
  { s with
    agents := s.agents.filter (fun p => !ks.contains p.1)
    couriers := s.couriers.filter (fun p => !ks.contains p.1)
    teams := tdel s.teams team
    cores := (s.dropSaved team).cores.map (fun p => (p.1, { p.2 with
      zteam := if p.2.zteam = some team then none else p.2.zteam
      holes := p.2.holes.filter (fun h => h.2.team != team)
      xbar := p.2.xbar.filter (fun x => x.2.team != team) })) }

/-- Whether a launch has any team left. -/
def State.hasTeams (s : State) (lid : Nat) : Bool := s.teams.any (fun p => p.2.live && p.2.lid == lid)

/-- TEAM_END (R75): every group finished, every courier context ended, every command complete; the block group, and the launch, may end
with it. A launch that failed ends when its last team has (R76). -/
def State.teamEnd (s : State) (team : Nat) : State :=
  let t := s.tm team
  if !t.live || t.pre == .saved || (s.no t.die).fenced || !s.groupsDone team ||
      (s.teamCouriers team).any (fun k => (s.ag k).live || (s.cc k).queues.any (fun q => !q.2.isEmpty)) ||
      s.teamOwes team then s
  else
    let s := (s.releaseDie t.die).freeTeam team
    let l := s.la t.lid
    let s := if l.cause ≠ 0 then (if s.hasTeams t.lid then s else s.launchEnd t.lid)
      else if s.teams.any (fun p => p.2.live && p.2.lid == t.lid && p.2.bg == t.bg) then s.listSaved t.lid t.bg
      else
        let l := { l with ended := l.ended ++ [t.bg] }
        let s := s.setLa t.lid l
        if l.ended.length = l.bgx * l.bgy * l.bgz then s.launchEnd t.lid else s.gbarCheck t.lid
    { s with todo := s.todo ++ [.admission, .placement] }

/-- A launch ends in error (R76): its groups and courier contexts stop, their stores and placed commands are performed, and its teams
end; the launch ends with the last of them. -/
def State.failLaunch (s : State) (lid : Nat) (c : Cause) : State :=
  let l := s.la lid
  if !l.live ∨ l.cause ≠ 0 then s
  else
    let s := s.setLa lid { l with cause := c.code, ranges := [], rerun := [] }
    let ts := (s.teams.filter (fun p => p.2.live && p.2.lid == lid)).map (·.1)
    let ks := (s.agents.filter (fun p => p.2.live && p.2.kind != Kind.firmware && ts.contains p.2.team)).map (·.1)
    let s := s.dropReqs (fun q => ks.contains q.agent && (q.dst.isSome || q.kind == .line || q.fail != 0))
    let s := ks.foldl (fun s k => (s.drainAll k).setAg k { (s.drainAll k).ag k with live := false, wait := .none, pend := [], inflight := [], lands := [] }) s
    let s := { s with cores := s.cores.map (fun (p : Nat × Core) => (p.1, { p.2 with
      holes := p.2.holes.filter (fun h => !ts.contains h.2.team)
      xbar := p.2.xbar.filter (fun x => !ts.contains x.2.team) })) }
    let s := (ts.filter (fun t => (s.tm t).pre == .saved && (s.no (s.tm t).die).fenced)).foldl (fun s t => s.freeTeam t) s
    let s := ts.foldl (fun s t => if (s.tm t).live then s.setTm t { s.tm t with pre := .none } else s) s
    if s.hasTeams lid then { s with todo := s.todo ++ ts.map Todo.teamEnd } else s.launchEnd lid

/-! ## Pre-emption by priority (R414) -/

/-- Block groups on a die of a class greater than `c`, in the order they are given up: highest class first, most recently started first. -/
def State.victims (s : State) (die c : Nat) : List (Nat × Nat) :=
  let ts := (s.teams.filter (fun p => p.2.live && p.2.pre == .none && p.2.die == die && decide (c < (s.la p.2.lid).prio))).map (·.2)
  let l := ts.insertionSort (fun a b => decide ((s.la b.lid).prio < (s.la a.lid).prio) || ((s.la a.lid).prio == (s.la b.lid).prio && decide (b.started ≤ a.started)))
  (l.map (fun t => (t.lid, t.bg))).dedup

/-- The shortest run of victims whose removal makes room for a block group on a die. -/
def State.enough (s : State) (lid bg die : Nat) (vs : List (Nat × Nat)) : Option (List (Nat × Nat)) :=
  ((List.range (vs.length + 1)).map (fun n => vs.take n)).find? (fun v => !v.isEmpty && ((s.without v).placeBg lid bg die (List.range 16)).isSome)

/-- Ask every team of some block groups to stop; a resident launch goes whole (R74). -/
def State.askBgs (s : State) (vs : List (Nat × Nat)) : State :=
  let hit (t : Team) : Bool := vs.any (fun v => v.1 == t.lid && ((s.la t.lid).hdr.resident || v.2 == t.bg))
  { s with todo := s.todo ++ (s.teams.filter (fun p => p.2.live && p.2.pre == .none && hit p.2)).map (fun p => Todo.preempt p.1) }

/-- The block group of a launch that waits for room. -/
def State.waiting (s : State) (l : Launch) : Option Nat :=
  if !s.placeable l then none else (l.rerun.min?).or ((l.ranges.map (fun r => r.2.1)).min?)

/-- Whether a launch is the first of its class that waits for room: one with a list first, then by admission (R411, R414). -/
def State.firstWaiting (s : State) (lid : Nat) : Bool :=
  let l := s.la lid
  let ls := (s.launches.filter (fun p => p.2.prio == l.prio && (s.waiting p.2).isSome)).insertionSort (fun a b =>
    (!a.2.rerun.isEmpty && b.2.rerun.isEmpty) || (a.2.rerun.isEmpty == b.2.rerun.isEmpty && decide (a.2.order ≤ b.2.order)))
  (ls.head?.map (·.1)) == some lid

/-- PRIORITY_PREEMPTION (R414): for the first launch of its class, whose next block group fits on no die, the lowest-numbered die that would have room
without the block groups of greater classes gives those up. -/
def State.prioPreempt (s : State) (lid : Nat) : Option State :=
  let l := s.la lid
  match s.waiting l with
  | none => none
  | some bg =>
    if s.prioWait.isSome || !s.firstWaiting lid || s.serviceDies.any (fun d => (s.placeBg lid bg d (List.range 16)).isSome) then none
    else s.serviceDies.findSome? (fun d => (s.enough lid bg d (s.victims d l.prio)).map (fun vs => { s.askBgs vs with prioWait := some (lid, bg, d) }))

/-- The block group that waits for the room of a priority pre-emption takes it once it is there (R414); a resident launch's goes with its list. A wait
that the teams which have left do not end is given up. -/
def State.placeWaiting (s : State) : Option State :=
  match s.prioWait with
  | none => none
  | some (lid, bg, d) =>
    let l := s.la lid
    if l.hdr.resident then none
    else match (if s.placeable l then s.placeFrom lid bg d (List.range 16) (s.distAt d) else none) with
      | some s =>
        let l := s.la lid
        let l' : Launch := { l with rerun := l.rerun.filter (· != bg),
                                    ranges := (l.ranges.map (fun r => if r.2.1 = bg then (r.1, bg + 1, r.2.2) else r)).filter (fun r => decide (r.2.1 < r.2.2)) }
        some { s.setLa lid l' with distFree := tput s.distFree d (s.distAt d + 16), prioWait := none }
      | none => if (s.leaving d).isEmpty then some { s with prioWait := none } else none

/-- What the distributors that are free place of a class: its resident launches' lists, then the first candidates of the dies and the clusters, the
dies' first (R411, R413, R416). -/
def State.placeOf (s : State) (ds : List Nat) (c : Nat) : Option State :=
  ((s.residents c).findSome? (fun l => s.placeResident l)).or
    (if (s.residents c).isEmpty then ds.findSome? (fun d => s.placeClass d c) else none)

/-- One round of the distributors that are free: the block group that room was made for, a placement of the highest class that has one, a steal, or
a pre-emption by priority. -/
def State.placeRound (s : State) : State :=
  let ds := (s.serviceDies ++ s.serviceDies.flatMap (fun d => (List.range 4).map (clusterDist d))).filter (fun d => decide (s.distAt d = s.cycle))
  let go (s : State) : State := { s with todo := s.todo ++ [.placement] }
  if s.launches.isEmpty then s
  else match s.placeWaiting.or ([0, 1, 2, 3].findSome? (fun c => s.placeOf ds c)) with
  | some s => go s
  | none =>
    match s.servedLaunches.findSome? (fun l => ds.findSome? (fun d => if s.hasRoom l d then s.steal l d else none)) with
    | some s => go s
    | none => ((s.servedLaunches.findSome? (fun l => s.prioPreempt l)).getD s)

/-! ## The steps -/

/-- TEAM_RESUME (R83). -/
def execTeamResume (team die core : Nat) (s : State) : Host.Outcome State Fault Refusal := .next ((s.resumeTeam team (s.cycle + 17) die core).getD s)
/-- TEAM_END (R75). -/
def execTeamEnd (team : Nat) (s : State) : Host.Outcome State Fault Refusal := .next (s.teamEnd team)
/-- PLACEMENT_STEP (R409): `die` numbers a distributor. -/
def execPlacementStep (die : Nat) (s : State) : Host.Outcome State Fault Refusal := .next ((s.placeStep die).getD s)
/-- STEAL (R412). -/
def execSteal (launch thief : Nat) (s : State) : Host.Outcome State Fault Refusal := .next ((s.steal launch thief).getD s)
/-- PRIORITY_PREEMPTION (R414). -/
def execPriorityPreemption (launch : Nat) (s : State) : Host.Outcome State Fault Refusal := .next ((s.prioPreempt launch).getD s)
/-- WEIGHT_STORE_ZERO (R331). -/
def execWeightStoreZero (die ctx : Nat) (s : State) : Host.Outcome State Fault Refusal := .next (s.wsZero die ctx).1
/-- PIGEONHOLE_SLOT_GRANT (R72). -/
def execPigeonholeSlotGrant (die core hole : Nat) (s : State) : Host.Outcome State Fault Refusal := .next (s.grantHole (coreKey die core) hole)
/-- CROSSBAR_MOVE (R72): the next group becomes ready once its threads have moved. -/
def execCrossbarMove (die core : Nat) (s : State) : Host.Outcome State Fault Refusal := .next (s.moveXbar (coreKey die core))
/-- PIGEONHOLE_AGE_RELEASE (R69 (b)): at the birth cycle plus REFORM.AGE, when AGE is not zero. -/
def execPigeonholeAgeRelease (die core hole : Nat) (s : State) : Host.Outcome State Fault Refusal :=
  let ck := coreKey die core
  let x := tget (s.co ck).holes hole
  let age := (s.la (s.tm x.team).lid).hdr.reform
  if age ≠ 0 ∧ x.live ∧ x.born + age ≤ s.cycle then .next (s.releaseHole ck 2 hole) else .next s

end Sys2Proof.Machine
end

