-- ==== Sys2Proof/Machine/Admission.lean ====
section
/-! DEFINITION. Admission (R136–R140, R322, R323, R407), the launch timetable (R401–R406), and the kill of a context (R84). -/

namespace Sys2Proof.Machine

/-! ## Reading a context's memory at admission (R140) -/

/-- Why an admission read fails: a page fault firmware is to serve, or a failure at an address. -/
inductive AdmStop
  | fault (malformed : Bool) (va : Nat)
  | bad (va : Nat)
deriving DecidableEq, Repr

/-- The die whose walker an I/O-die read of a context uses, and whose ring takes its page faults (log 43). -/
def State.admDie (s : State) : Nat := s.serviceDies.headD 0

/-- The agent number that the record of an admission page fault carries: the context and class of the request. -/
def admAgent (ctx prio : Nat) : Nat := 2 ^ 21 + 64 * prio + ctx

/-- Eight bytes of a context's memory, read at home. -/
def State.admWord (s : State) (ctx : Nat) (va : W64) : Except AdmStop Nat × State :=
  if aperOf va ≠ .global then (.error (.bad va.toNat), s)
  else match s.translate s.admDie ctx va.toNat .read with
  | (.ok _ _ true _ _ _ _, s) => (.ok 0, s)
  | (.ok pa cls false _ _ _ _, s) =>
    if (s.homeAbort (pa / 128) cls).isSome then (.error (.bad va.toNat), s)
    else
      let s := if cls = .sc then s.recallLine (pa / 128) else s
      (.ok (s.homeWord pa).toNat, s)
  | (.fault m, s) => (.error (.fault m va.toNat), s)
  | (_, s) => (.error (.bad va.toNat), s)

/-- `n` words of eight bytes from an address, as bytes. -/
def State.admBytes (s : State) (ctx : Nat) (va : W64) : Nat → Except AdmStop (List Byte) × State
  | 0 => (.ok [], s)
  | n + 1 =>
    match s.admWord ctx va with
    | (.error e, s) => (.error e, s)
    | (.ok x, s) =>
      match s.admBytes ctx (va + 8) n with
      | (.error e, s) => (.error e, s)
      | (.ok bs, s) => (.ok (leBytes 8 x ++ bs), s)

/-! ## The kernel header (R136–R140) -/

/-- A little-endian field of bytes. -/
def fld (bs : List Byte) (o n : Nat) : Nat := leNat ((bs.drop o).take n)

/-- Whether bytes are all zero. -/
def zeroAt (bs : List Byte) (o n : Nat) : Bool := fld bs o n == 0

/-- Whether an offset field is a multiple of 8, and nonzero exactly where a count asks for it. -/
def tableOff (bs : List Byte) (o count : Nat) : Bool := fld bs o 4 % 8 == 0 && (fld bs o 4 == 0) == (count == 0)

/-- The checks of R140 on the header itself. -/
def headerOk (bs : List Byte) (handle : W64) : Bool :=
  let teamg := fld bs 9 1
  let paired := fld bs 10 1 == 1
  let flags := fld bs 20 4
  handle.toNat % 256 == 0 && fld bs 0 4 == 0x314B5A50 && fld bs 4 2 == 1 && decide (fld bs 6 1 ≤ 2) &&
    decide (1 ≤ fld bs 7 1) && decide (fld bs 7 1 ≤ 32) && decide (1 ≤ fld bs 8 1) && decide (fld bs 8 1 ≤ 8) &&
    decide (1 ≤ teamg) && decide (teamg ≤ if paired then 64 else 32) && decide (fld bs 10 1 ≤ 1) && decide (fld bs 11 1 ≤ 15) &&
    decide (fld bs 12 8 < 2 ^ teamg) && decide (flags < 16) && !(flags.testBit 1 && flags.testBit 3) && zeroAt bs 26 2 &&
    decide (1 ≤ fld bs 28 4) && decide (fld bs 28 4 ≤ 1048576) && fld bs 32 4 % 256 == 0 && decide (fld bs 32 4 ≤ 393216) &&
    fld bs 36 4 % 16 == 0 && decide (fld bs 36 4 ≤ 65536) && fld bs 40 4 != 0 && fld bs 40 4 % 8 == 0 && fld bs 44 4 % 8 == 0 && fld bs 48 4 % 8 == 0 &&
    decide (fld bs 56 2 ≤ 256) && tableOff bs 52 (fld bs 56 2) && zeroAt bs 58 2 && decide (fld bs 64 2 ≤ 64) && tableOff bs 60 (fld bs 64 2) &&
    zeroAt bs 66 2 && decide (fld bs 72 1 ≤ 16) && tableOff bs 68 (fld bs 72 1) && zeroAt bs 73 3 && decide (fld bs 76 1 < 16) && zeroAt bs 77 3 &&
    fld bs 80 4 % 8 == 0 && decide (fld bs 80 4 ≤ 4096) && (bs.drop 88).all (· == 0)

/-- A signed byte distance from the header (R136). -/
def hdrOff (handle : W64) (x : Nat) : W64 := handle + (BitVec.ofNat 32 x).signExtend 64

/-- The header's shape and flags (R136). -/
def parseHdr (bs : List Byte) (handle : W64) : Hdr :=
  let flags := fld bs 20 4
  let off (o : Nat) : Option W64 := if fld bs o 4 = 0 then none else some (hdrOff handle (fld bs o 4))
  { width := 16 * 2 ^ fld bs 6 1, nv := 8 * fld bs 7 1, ns := 8 * fld bs 8 1, teamg := fld bs 9 1, paired := fld bs 10 1 == 1,
    bgteams := fld bs 11 1 + 1, roles := BitVec.ofNat 64 (fld bs 12 8), restartable := flags.testBit 0, resident := flags.testBit 1,
    ckscb := flags.testBit 2, wload := flags.testBit 3, reform := fld bs 24 2, maxsafe := fld bs 28 4, spad := fld bs 32 4, stack := fld bs 36 4,
    entry := hdrOff handle (fld bs 40 4), courier := off 44, trapvec := off 48, ndl := fld bs 72 1, classes := BitVec.ofNat 4 (fld bs 76 1) }

/-- The safe-point table (R137): an entry with either offset 0 is none. -/
def parseSafes (bs : List Byte) (handle : W64) (n : Nat) : Tab (W64 × W64) :=
  (List.range n).filterMap (fun i =>
    let (a, b) := (fld bs (8 * i) 4, fld bs (8 * i + 4) 4)
    if a = 0 ∨ b = 0 then none else some (i, (hdrOff handle a, hdrOff handle b)))

/-- Whether every offset of the safe-point table is aligned (R137, R140). -/
def safesOk (bs : List Byte) (n : Nat) : Bool := (List.range (2 * n)).all (fun i => fld bs (4 * i) 4 % 8 == 0)

/-- The initial tensor table (R138). -/
def parseTens (bs : List Byte) (n : Nat) : List (Nat × Bool × BitVec 512) :=
  (List.range n).map (fun i => (fld bs (72 * i) 8 % 64, (fld bs (72 * i) 8).testBit 6, BitVec.ofNat 512 (fld bs (72 * i + 8) 64)))

/-- Whether the tensor table's records keep to R138 and R140: reserved bits clear, ARGBASE words below ARGBYTES. -/
def tensOk (bs : List Byte) (n argbytes : Nat) : Bool :=
  (List.range n).all (fun i =>
    let d := fld bs (72 * i) 8
    decide (d < 128) && (!d.testBit 6 || decide (fld bs (72 * i + 8) 64 % 4096 < argbytes)))

/-- The distribution lists (R139). -/
def parseLists (bs : List Byte) (n : Nat) : Tab (BitVec 16) := (List.range n).map (fun i => (i, BitVec.ofNat 16 (fld bs (4 * i) 2)))

/-- Whether the lists' upper halves are zero (R139). -/
def listsOk (bs : List Byte) (n : Nat) : Bool := (List.range n).all (fun i => zeroAt bs (4 * i + 2) 2)

/-- The launch prefix (R322). -/
structure Grid where
  x : Nat
  y : Nat
  z : Nat
  done : W64
deriving DecidableEq, Repr

/-- Whether a completion word may be written at DONE (R323). -/
def doneOk (done : W64) : Bool := done == 0 || (done.toNat % 8 == 0 && aperOf done == .global)

/-- What reading a request gives (R140): header and prefix, or a failure with the DONE that was read. -/
inductive AdmRead
  | ok (h : Hdr) (p : Grid)
  | invalid (done : W64) (addr : Nat)
  | wait (malformed : Bool) (va : Nat)
deriving DecidableEq, Repr

/-- The outcome of a failed admission read. -/
def AdmStop.out (done : W64) : AdmStop → AdmRead
  | .fault m va => .wait m va
  | .bad va => .invalid done va

/-- Read a table of the header. -/
def State.admTable (s : State) (ctx : Nat) (handle : W64) (off bytes : Nat) : Except AdmStop (List Byte) × State :=
  s.admBytes ctx (hdrOff handle off) ((bytes + 7) / 8)

/-- Read and check a request's prefix, header and tables (R137–R140, R322). -/
def State.admRead (s : State) (r : LReq) : AdmRead × State :=
  match s.admBytes r.ctx (r.args - 16) 2 with
  | (.error e, s) => (e.out 0, s)
  | (.ok pb, s) =>
    let p : Grid := { x := fld pb 0 4, y := fld pb 4 2, z := fld pb 6 2, done := BitVec.ofNat 64 (fld pb 8 8) }
    let done := if doneOk p.done then p.done else 0
    if r.handle.toNat % 256 ≠ 0 then (.invalid done 0, s)
    else match s.admBytes r.ctx r.handle 32 with
    | (.error e, s) => (e.out done, s)
    | (.ok hb, s) =>
      if !headerOk hb r.handle then (.invalid done 0, s)
      else match s.admTable r.ctx r.handle (fld hb 52 4) (8 * fld hb 56 2) with
      | (.error e, s) => (e.out done, s)
      | (.ok sb, s) =>
        match s.admTable r.ctx r.handle (fld hb 60 4) (72 * fld hb 64 2) with
        | (.error e, s) => (e.out done, s)
        | (.ok tb, s) =>
          match s.admTable r.ctx r.handle (fld hb 68 4) (4 * fld hb 72 1) with
          | (.error e, s) => (e.out done, s)
          | (.ok lb, s) =>
            if !safesOk sb (fld hb 56 2) || !tensOk tb (fld hb 64 2) (fld hb 80 4) || !listsOk lb (fld hb 72 1) then (.invalid done 0, s)
            else
              (.ok { parseHdr hb r.handle with safes := parseSafes sb r.handle (fld hb 56 2), tens := parseTens tb (fld hb 64 2), dlists := parseLists lb (fld hb 72 1) } p, s)

/-! ## The decision (R323, R407) -/

/-- Whether a page fault of the admission reads of a context and class is still to be served. -/
def State.admFault (s : State) (ctx prio : Nat) : Bool := s.dies.any (fun p => p.2.ring.any (fun r => r.2.engine && r.2.agent == admAgent ctx prio))

/-- Remove a request from its queue. -/
def State.dropReq (s : State) (r : LReq) : State := { s with admq := tput s.admq r.prio ((tget s.admq r.prio).erase r) }

/-- An event of the timetable, sent with die.id 0xFF (R405). -/
def State.ttEvent (s : State) (ctx code lid ptb : Nat) : State :=
  let c := s.cx ctx
  { s.setCx ctx { c with evq := c.evq ++ [{ ctx := ctx, code := code, die := 0xFF, lid := lid, ptb := ptb }] } with todo := s.todo ++ [Todo.eventSend ctx] }

/-- Refuse a request (R323, R405, R407): completion word, error record, and its timetable entry's event 4. -/
def State.refuse (s : State) (r : LReq) (done : W64) (c : Cause) (addr : Nat) : State :=
  let s := (s.dropReq r).completion r.ctx done c.code r.lid
  let s := s.errorRecord r.ctx { cause := c, source := 9, addr := addr, lid := r.lid }
  let s := match r.entry with
    | some _ => s.ttEvent r.ctx 4 r.lid r.slot
    | none => s
  s.ttEnded r.lid

/-- The launch an admitted request becomes. -/
def newLaunch (r : LReq) (h : Hdr) (p : Grid) (order : Nat) : Launch :=
  { live := true, lid := r.lid, ctx := r.ctx, prio := r.prio, handle := r.handle, args := r.args, hdr := h, bgx := p.x, bgy := p.y, bgz := p.z,
    done := p.done, entry := r.entry, order := order }

/-- The limits of R322 and R323 that need no placement. -/
def State.limitsOk (s : State) (ctx : Nat) (h : Hdr) (p : Grid) : Bool :=
  decide (1 ≤ p.x) && decide (p.x ≤ 2 ^ 24) && decide (1 ≤ p.y) && decide (p.y ≤ 65535) && decide (1 ≤ p.z) && decide (p.z ≤ 65535) && doneOk p.done &&
    decide (h.stack ≤ s.stackMax s.admDie ctx) && decide (h.regBytes ≤ 131072)

/-- Whether every block group of a resident launch can be resident at once on empty in-service dies; more block groups than group slots
never can (R74, R323). -/
def State.fitsAll (s : State) (lid n : Nat) : Bool := decide (n ≤ 22 * 16 * 32) && (s.emptied.placeAllOf lid (List.range n)).isSome

/-- How a decision on a request ends: it waits, with the state its reads leave, or it has been decided. -/
inductive AdmOut
  | waits (s : State)
  | done (s : State)
deriving DecidableEq, Repr

/-- One decision (R407). -/
def State.decideReq (s : State) (r : LReq) : AdmOut :=
  match s.admRead r with
  | (.wait m va, s) =>
    .waits (s.ringPut s.admDie { cause := Cause.pageFault.code, addr := BitVec.ofNat 64 va, detail64 := BitVec.ofNat 64 va, replay := true,
                                 detail32 := if m then 4 else 0, agent := admAgent r.ctx r.prio, ctx := r.ctx, ptb := s.ptbAt ioNode })
  | (.invalid done addr, s) => .done (s.refuse r done .headerInvalid addr)
  | (.ok h p, s) =>
    let n := p.x * p.y * p.z
    let s1 := (s.dropReq r).setLa r.lid (newLaunch r h p s.nextOrder)
    let s1 : State := { s1 with nextOrder := s.nextOrder + 1, admLast := tput s.admLast r.prio r.ctx }
    let no : AdmOut := .done (s.refuse r (if doneOk p.done then p.done else 0) .resources 0)
    if !s.limitsOk r.ctx h p then no
    else if h.resident then
      if !s1.fitsAll r.lid n then no
      else match s1.placeSplit r.lid n with
        | some s2 => .done s2
        | none => .waits s
    else if !s1.fitsDie r.lid then no
    else .done (s1.setLa r.lid { s1.la r.lid with ranges := s1.chipSplit r.lid n })

/-- Contexts of a class in rotation, after the one last admitted (R407). -/
def State.rotation (s : State) (prio : Nat) : List Nat :=
  let start := match tfind s.admLast prio with | some c => c + 1 | none => 0
  (List.range 64).map (fun i => (start + i) % 64)

/-- Whether a context's requests of a class may be examined now. -/
def State.admOpen (s : State) (c p : Nat) : Bool := !((s.cx c).admStop || (s.cx c).killing || s.admFault c p)

/-- Requests that may be examined, in order: of each class those put ahead of all (R404), then of each context the oldest (R407). -/
def State.admOrder (s : State) : List LReq :=
  [0, 1, 2, 3].flatMap (fun p =>
    ((tget s.admq p).filter (fun r => r.front && s.admOpen r.ctx p) ++
      (s.rotation p).filterMap (fun c => if s.admOpen c p then (tget s.admq p).find? (fun r => r.ctx == c) else none)).eraseDups)

/-- Examine requests until one is decided. -/
def State.admitFrom (s : State) : List LReq → State × Bool
  | [] => (s, false)
  | r :: rs =>
    match s.decideReq r with
    | .done s => (s, true)
    | .waits s => s.admitFrom rs

/-- ADMISSION_DECISION (R407): none while a die-fencing sequence is in progress (R456). Held instances are submitted if nothing stands against
them any more (R404). -/
def State.admission (s : State) : State :=
  if !s.fencing.isEmpty then s
  else
    let (s', did) := s.admitFrom s.admOrder
    let held := (s'.timetable.filter (fun p => p.2.hold.isSome)).map (fun p => Todo.heldSubmit p.1)
    { s' with todo := s'.todo ++ held ++ Todo.placement :: (if did then [Todo.admission] else []) }

/-! ## The timetable (R401–R406) -/

/-- Whether admission is stopped for a context (R327, R404, R460). -/
def State.stoppedFor (s : State) (ctx : Nat) : Bool := (s.cx ctx).admStop || s.redir.on

/-- The overrun conditions of R404 that concern no running instance. -/
def State.ttBlocked (s : State) (ctx prio : Nat) : Bool := s.stoppedFor ctx || !s.fencing.isEmpty || s.admFull prio

/-- Submit an instance of an entry (R403, R404). -/
def State.ttSubmit (s : State) (e : Nat) (h : Hold) (front : Bool) : Nat × State :=
  let (lid, s) := s.enqueue h.handle h.args h.ctx h.prio false (some e) front h.slot
  (lid, { s with timetable := tput s.timetable e { tget s.timetable e with running := some lid } })

/-- Teams of a launch that hold resources. -/
def State.launchTeams (s : State) (lid : Nat) : List Nat := (s.teams.filter (fun p => p.2.live && p.2.lid == lid && p.2.pre != .saved)).map (·.1)

/-- A slot that is not launched (R404). -/
def State.ttSkip (s : State) (e slot : Nat) : State :=
  let t := tget s.timetable e
  { s with timetable := tput s.timetable e { t with skipped := t.skipped + 1 } }.ttEvent t.ctx 0 (t.running.getD 0) slot

/-- The HELD bit of an entry (R401, R404): an instance is held, or one is displaced. -/
def TTab.held (t : TTab) : Bool := t.hold.isSome || t.parked.isSome

/-- Evaluate the slot of an entry that falls at `slot` (R404). -/
def State.ttSlot (s : State) (e slot : Nat) : State :=
  let t := tget s.timetable e
  let h : Hold := { handle := t.handle, args := t.args, ctx := t.ctx, prio := t.prio, slot := slot }
  let blocked := s.ttBlocked t.ctx t.prio
  if t.running.isNone && !blocked then (s.ttSubmit e h false).2
  else
    let s := { s with timetable := tput s.timetable e { t with late := t.late + 1 } }
    let t := tget s.timetable e
    if t.policy = 1 ∧ t.held = false then { s with timetable := tput s.timetable e { t with hold := some h } }.ttEvent t.ctx 1 (t.running.getD 0) slot
    else if t.policy = 2 ∧ t.held = false ∧ !s.stoppedFor t.ctx ∧ !s.admFull t.prio then
      match t.running with
      | none => s.ttSkip e slot
      | some old =>
        let ts := s.launchTeams old
        if ts.isEmpty then s.ttSkip e slot
        else
          let s := { s with todo := s.todo ++ ts.map Todo.preempt }
          let (lid, s) := s.ttSubmit e h true
          let s := { s with timetable := tput s.timetable e { tget s.timetable e with parked := some old } }
          (s.setLa old { s.la old with parkedBy := some lid }).ttEvent t.ctx 3 old slot
    else s.ttSkip e slot

/-- TIMETABLE_SLOT (R403): when the time base has reached the entry's next slot, that slot is evaluated. -/
def State.ttDue (s : State) (e : Nat) : State :=
  let t := tget s.timetable e
  match t.next with
  | none => s
  | some slot =>
    if !t.enable || decide (s.ptbAt ioNode < slot) then s
    else
      let t' : TTab := { t with lastSlot := slot, next := if t.period = 0 then none else some (slot + t.period) }
      { s with timetable := tput s.timetable e t' }.ttSlot e slot

/-- A forward step of the time base passes over every slot it reaches but the latest of each entry (R403). -/
def State.ttPass (s : State) : State :=
  { s with timetable := s.timetable.map (fun (p : Nat × TTab) =>
      let t := p.2
      match t.next with
      | none => p
      | some at_ =>
        let passed := if t.period = 0 ∨ !t.enable then 0 else (s.ptbAt ioNode - at_) / t.period
        (p.1, { t with skipped := t.skipped + BitVec.ofNat 32 passed, next := some (at_ + passed * t.period) })) }

/-- HELD_INSTANCE_SUBMIT (R404): at the first moment none of the overrun conditions holds. -/
def State.heldSubmit (s : State) (e : Nat) : State :=
  let t := tget s.timetable e
  match t.hold with
  | none => s
  | some h =>
    if t.running.isSome || s.ttBlocked h.ctx h.prio then s
    else
      let s := { s with timetable := tput s.timetable e { t with hold := none } }
      let (lid, s) := s.ttSubmit e h false
      s.ttEvent h.ctx 2 lid h.slot

/-! ## The kill of a context (R84) -/

/-- The homes of the package. -/
def homes : List Nat := [22, 23, 24, 25, 26, 27, 28, 29, 30, 31]

/-- Requests of a context in the admission queues. -/
def State.ctxReqs (s : State) (ctx : Nat) : List LReq := s.admq.flatMap (fun q => q.2.filter (fun r => r.ctx == ctx))

/-- The DONE of a request, as far as its prefix can be read. -/
def State.reqDone (s : State) (r : LReq) : W64 :=
  match s.admBytes r.ctx (r.args - 16) 2 with
  | (.ok pb, _) => let d := BitVec.ofNat 64 (fld pb 8 8); if doneOk d then d else 0
  | (.error _, _) => 0

/-- A request whose admission read firmware cannot serve is refused (R140). -/
def State.admRefuse (s : State) (agent : Nat) (addr : W64) : State :=
  let n := agent - 2 ^ 21
  match (tget s.admq (n / 64)).find? (fun r => r.ctx == n % 64) with
  | some r => { s.refuse r (s.reqDone r) .headerInvalid addr.toNat with todo := s.todo ++ [.admission] }
  | none => s

/-- Step 1 of R84: the agents and queues of the context stop, what they hold is discarded, requests not admitted end KILLED, and its
timetable entries are disabled with event 4, one for an entry whose instance was refused (R405). -/
def State.contextKill (s : State) (ctx : Nat) : State :=
  if (s.cx ctx).killing then s
  else
    let told := (s.ctxReqs ctx).filterMap (·.entry)
    let s := (s.ctxReqs ctx).foldl (fun s r => s.refuse r (s.reqDone r) .killed 0) s
    let ts := (s.teams.filter (fun p => p.2.live && p.2.ctx == ctx)).map (·.1)
    let ks := (s.agents.filter (fun p => p.2.kind != Kind.firmware && ts.contains p.2.team)).map (·.1)
    let s := (s.deadRecs ks).dropReqs (fun q => ks.contains q.agent)
    let s : State := { s with
      agents := s.agents.map (fun (p : Nat × Agent) => if ks.contains p.1 then
        (p.1, { p.2 with live := false, wait := .none, sq := [], pend := [], inflight := [], lands := [], gang := 0, latch := none }) else p)
      couriers := s.couriers.map (fun (p : Nat × CCtx) => if ks.contains p.1 then (p.1, { p.2 with queues := [], staged := none }) else p)
      cores := s.cores.map (fun (p : Nat × Core) => (p.1, { p.2 with
        holes := p.2.holes.filter (fun h => !ts.contains h.2.team), xbar := p.2.xbar.filter (fun x => !ts.contains x.2.team),
        mmas := p.2.mmas.filter (fun m => !(m.members.any (fun k => ks.contains k))) }))
      teams := s.teams.map (fun (p : Nat × Team) => if ts.contains p.1 ∧ p.2.pre ≠ .saved then (p.1, { p.2 with pre := .none }) else p) }
    let es := (s.timetable.filter (fun p => p.2.ctx == ctx && p.2.enable)).map (·.1)
    let s := es.foldl (fun s e =>
      let t := tget s.timetable e
      let s : State := { s with timetable := tput s.timetable e { t with enable := false, next := none } }
      if told.contains e then s else s.ttEvent ctx 4 (t.running.getD 0) t.lastSlot) s
    let s : State := { s with timetable := s.timetable.map (fun (p : Nat × TTab) => match p.2.hold with
      | some h => if h.ctx = ctx then (p.1, { p.2 with hold := none }) else p
      | none => p) }
    let s := s.setCx ctx { s.cx ctx with killing := true }
    { s with todo := s.todo ++ homes.map (fun h => Todo.homeRaise h ctx) }

/-- Step 2 of R84: a home raises the context's generation; it acknowledges by having done so. -/
def State.homeRaise (s : State) (home ctx : Nat) : State :=
  let n := s.no home
  if (s.cx ctx).killing ∧ homes.contains home ∧ tget n.gens ctx ≤ (s.cx ctx).gen then
    { s.setNo home { n with gens := tput n.gens ctx ((s.cx ctx).gen + 1) } with todo := s.todo ++ [Todo.killFree ctx] }
  else s

/-- Whether every home that answers has raised a context's generation. -/
def State.allRaised (s : State) (ctx : Nat) : Bool := homes.all (fun h => (s.no h).fenced || decide ((s.cx ctx).gen < tget (s.no h).gens ctx))

/-- The dies drop the bytes of a killed context that have not reached their homes; what is on its way there the homes discard, as of an older
generation (R84, R85). -/
def State.killPurge (s : State) (ctx : Nat) : State :=
  s.dies.foldl (fun s d =>
    let s := s.setDi d.1 { s.di d.1 with wbuf := (s.di d.1).wbuf.filter (fun x => x.ctx != ctx) }
    ((d.2.l2.filter (fun x => x.ctx == ctx && (x.st == .d || x.st == .m))).map (·.line)).foldl (fun s l => s.purge d.1 l) s) s

/-- Step 3 of R84: what the context's teams held is free, its launches end, and the context is gone. -/
def State.killFree (s : State) (ctx : Nat) : State :=
  if !(s.cx ctx).killing || !s.allRaised ctx then s
  else
    let ts := (s.teams.filter (fun p => p.2.live && p.2.ctx == ctx)).map (·.1)
    let s := ts.foldl (fun s t => s.freeTeam t) (s.killPurge ctx)
    let ls := (s.launches.filter (fun p => p.2.live && p.2.ctx == ctx)).map (·.1)
    let s := ls.foldl (fun s l => (s.setLa l { s.la l with cause := if (s.la l).cause = 0 then Cause.killed.code else (s.la l).cause }).launchEnd l) s
    let c := s.cx ctx
    let s := s.setCx ctx { c with live := false, killing := false, gen := c.gen + 1, saved := false, admStop := false, saving := false, blocks := [] }
    { s with todo := s.todo ++ [Todo.admission, Todo.placement] }

/-! ## The steps -/

/-- ADMISSION_DECISION (R407). -/
def execAdmissionDecision (s : State) : Host.Outcome State Fault Refusal := .next s.admission
/-- TIMETABLE_SLOT (R403). -/
def execTimetableSlot (entry : Nat) (s : State) : Host.Outcome State Fault Refusal := .next (s.ttDue entry)
/-- HELD_INSTANCE_SUBMIT (R404). -/
def execHeldInstanceSubmit (entry : Nat) (s : State) : Host.Outcome State Fault Refusal := .next (s.heldSubmit entry)
/-- CONTEXT_KILL (R84). -/
def execContextKill (ctx : Nat) (s : State) : Host.Outcome State Fault Refusal := .next (s.contextKill ctx)
/-- HOME_GENERATION_RAISE (R84). -/
def execHomeGenerationRaise (home ctx : Nat) (s : State) : Host.Outcome State Fault Refusal := .next (s.homeRaise home ctx)
/-- KILL_RESOURCES_FREE (R84). -/
def execKillResourcesFree (ctx : Nat) (s : State) : Host.Outcome State Fault Refusal := .next (s.killFree ctx)

end Sys2Proof.Machine
end

