-- ==== Sys2Proof/Machine/Events.lean ====
section
/-! DEFINITION. Events of the cores and homes that no instruction word is: results that land, queues that drain, translations
dropped, the messages of the coherence protocols (R381–R383), and the exchange with other packages (R230, R231, R425, R433). -/

namespace Sys2Proof.Machine

/-! ## Cores -/

/-- RESULT_LAND (R127): results whose cycle has come have landed. -/
def State.landed (s : State) (key : Nat) : State :=
  let a := s.ag key
  s.setAg key { a with inflight := a.inflight.filter (fun f => decide (s.cycle < f.land)) }

/-- DIVIDER_FREE (R164): a divider whose division has ended is free. -/
def State.divDone (s : State) (ck pipe : Nat) : State :=
  let c := s.co ck
  if tget c.divFree pipe ≤ s.cycle then s.setCo ck { c with divFree := tdel c.divFree pipe } else s

/-- TLB_ENTRY_DROP (R393). -/
def State.tlbDrop (s : State) (die i : Nat) : State := s.setDi die { s.di die with tlb := (s.di die).tlb.eraseIdx i }

/-- Change an agent that is in State; nothing where there is none. -/
def State.onAgent (s : State) (key : Nat) (f : State → State) : State := if (s.ag key).live then f s else s

/-- RESULT_LAND (R127). -/
def execResultLand (agent : Nat) (s : State) : Host.Outcome State Fault Refusal := .next (s.onAgent agent (·.landed agent))
/-- STORE_QUEUE_DRAIN (R220). -/
def execStoreQueueDrain (agent : Nat) (s : State) : Host.Outcome State Fault Refusal := .next (s.onAgent agent (·.drainOne agent))
/-- DIVIDER_FREE (R164). -/
def execDividerFree (die core pipe : Nat) (s : State) : Host.Outcome State Fault Refusal := .next (s.divDone (coreKey die core) pipe)
/-- WS_REFRESH_WINDOW (R49). -/
def execWsRefreshWindow (die bank : Nat) (s : State) : Host.Outcome State Fault Refusal := .next (s.wsWindow die bank)
/-- DC_TRAP_ENTRY (R312). -/
def execDcTrapEntry (die : Nat) (s : State) : Host.Outcome State Fault Refusal := .next (s.dcEntry die)
/-- TLB_ENTRY_DROP (R393). -/
def execTlbEntryDrop (die index : Nat) (s : State) : Host.Outcome State Fault Refusal := .next (s.tlbDrop die index)

/-! ## Messages between dies and homes (R380–R383, R347, R348) -/

/-- Deliver the oldest message of a kind between a die and a line's home, if it may be delivered now. -/
def State.deliverKind (s : State) (k : MKind) (die l : Nat) : State :=
  match s.net.find? (fun m => m.kind == k && m.die == die && m.line == l) with
  | some m => if s.ripe m then s.deliver m else s
  | none => s

/-- Deliver a message for which the home may need an entry of its directory: a full set gives up a victim first (R379). -/
def State.deliverNew (s : State) (k : MKind) (die l : Nat) : State := (s.dirRoom l).deliverKind k die l

/-- READS (R382). -/
def execReads (die line : Nat) (s : State) : Host.Outcome State Fault Refusal := .next (s.deliverNew .readS die line)
/-- READM (R382). -/
def execReadm (die line : Nat) (s : State) : Host.Outcome State Fault Refusal := .next (s.deliverNew .readM die line)
/-- UPGRADE (R382). -/
def execUpgrade (die line : Nat) (s : State) : Host.Outcome State Fault Refusal := .next (s.deliverNew .upgrade die line)
/-- WRITE_BACK (R382). -/
def execWriteBack (die line : Nat) (s : State) : Host.Outcome State Fault Refusal := .next (s.deliverKind .writeBack die line)
/-- CLEAN_EVICT (R382). -/
def execCleanEvict (die line : Nat) (s : State) : Host.Outcome State Fault Refusal := .next (s.deliverKind .cleanEvict die line)
/-- INV (R381). -/
def execInv (die line : Nat) (s : State) : Host.Outcome State Fault Refusal := .next (s.deliverKind .inv die line)
/-- FWD_S (R381). -/
def execFwdS (die line : Nat) (s : State) : Host.Outcome State Fault Refusal := .next (s.deliverKind .fwdS die line)
/-- FWD_I (R381). -/
def execFwdI (die line : Nat) (s : State) : Host.Outcome State Fault Refusal := .next (s.deliverKind .fwdI die line)
/-- SNOOP_ACK (R382). -/
def execSnoopAck (die line : Nat) (s : State) : Host.Outcome State Fault Refusal := .next (s.deliverKind .snoopAck die line)
/-- GRANT (R381): the grant in flight, whichever its kind. -/
def execGrant (die line : Nat) (s : State) : Host.Outcome State Fault Refusal := .next
  (match s.net.find? (fun m => m.die == die && m.line == line && m.kind.vc == 1) with
   | some m => if s.ripe m then s.hGrant die line else s
   | none => s)
/-- READRC (R383). -/
def execReadrc (die line : Nat) (s : State) : Host.Outcome State Fault Refusal := .next (s.deliverNew .readRC die line)
/-- DIRTYNOTICE (R383). -/
def execDirtynotice (die line : Nat) (s : State) : Host.Outcome State Fault Refusal := .next (s.deliverNew .dirtyNotice die line)
/-- MERGE_WRITE_BACK (R383). -/
def execMergeWriteBack (die line : Nat) (s : State) : Host.Outcome State Fault Refusal := .next (s.deliverKind .merge die line)
/-- RECALL (R383). -/
def execRecall (die line : Nat) (s : State) : Host.Outcome State Fault Refusal := .next (s.deliverKind .recall die line)
/-- WS_PV_LINE_READ (R228). -/
def execWsPvLineRead (die line : Nat) (s : State) : Host.Outcome State Fault Refusal := .next (s.deliverKind .wsRead die line)
/-- WS_PV_WRITE_BACK (R347, R348). -/
def execWsPvWriteBack (die line : Nat) (s : State) : Host.Outcome State Fault Refusal := .next (s.deliverKind .wsWrite die line)
/-- LINESET_AT_HOME (R226). -/
def execLinesetAtHome (die line : Nat) (s : State) : Host.Outcome State Fault Refusal := .next (s.hLineset die line)
/-- ATOMIC_AT_HOME (R228): an atomic a die has sent; its context is that of no agent here, so it carries generation 0's context 0. -/
def execAtomicAtHome (die pa : Nat) (w64 : Bool) (op : AOp) (b cmp : W64) (s : State) : Host.Outcome State Fault Refusal :=
  .next (s.atomicAtHome die pa (if w64 then 8 else 4) op b.toNat cmp.toNat 0).2

/-! ## Requests at the requester (R230, R231, R425, R433, R515) -/

/-- Change the pending lane of a request. -/
def State.setReq (s : State) (id : Nat) (f : Req → Req) : State := { s with reqs := s.reqs.map (fun q => if q.id = id ∧ q.fail = 0 then f q else q) }

/-- The pending lane of a request. -/
def State.req? (s : State) (id : Nat) : Option Req := s.reqs.find? (fun q => q.id == id && q.fail == 0)

/-- When no lane of an agent's `atom` is pending, it goes on: it takes its acquire now that every lane has its value (R229; `acq` is that of a
lane just answered), and its failed lanes trap after it, the lowest one named (R218, R231). -/
def State.atomEnd (s : State) (key : Nat) (acq : Option Scope) : State :=
  let mine := s.reqs.filter (fun q => q.agent == key && (q.dst.isSome || q.fail != 0))
  if mine.any (fun q => q.fail == 0) then s
  else
    let a := s.ag key
    let s : State := { s with reqs := s.reqs.filter (fun q => !(q.agent == key && q.fail != 0)) }
    let s := s.setAg key { a with wait := if a.wait = .remote then .none else a.wait, ready := max a.ready (s.cycle + 1), since := s.cycle + 1 }
    let s := s.acqOpt key (acq <|> (mine.findSome? (·.acq)))
    match (mine.map (·.lane)).min? with
    | none => s
    | some l =>
      match mine.find? (fun q => q.lane == l) with
      | none => s
      | some q => match s.takeTrap key { cause := failCause q.fail, lane := q.lane, addr := q.va } with
        | .next s => s
        | _ => s

/-- The line of a load has come, or its request has aborted; when the last has ended the load runs again (R218, R515). -/
def State.lineEnd (s : State) (q : Req) (came : Bool) : State :=
  let s : State := { s with reqs := s.reqs.filter (fun x => x.id != q.id) }
  let a := s.ag q.agent
  ((s.setAg q.agent { a with arrived := a.arrived ++ [(q.pa / 128, came)] }).wakeAgent q.agent).landReq q

/-- A `red` has been acknowledged or has failed: a word of its agent that waits for that goes on, and a team that waits for it may end (R75,
R232). -/
def State.redEnd (s : State) (q : Req) : State :=
  let s := (s.wakeAgent q.agent).landReq q
  let a := s.ag q.agent
  if a.live then s else { s with todo := s.todo ++ [.teamEnd a.team] }

/-- A pending request ends without a result: an `atom` keeps the lane until its other lanes end, a `red` is a store abort, and a load takes its
abort when its other lines have come (R218, R231). -/
def State.failReq (s : State) (q : Req) (code : Nat) : State :=
  if q.kind = .line then s.lineEnd q false
  else if q.dst.isSome then ((s.setReq q.id (fun x => { x with fail := code })).atomEnd q.agent q.acq).landReq q
  else (({ s with reqs := s.reqs.filter (fun x => x.id != q.id) } : State).storeAbort q.agent q.va.toNat (redCause code)).redEnd q

/-- When a request to another package ends for want of an answer, on the requester's copy of the time base: an atomic after 1 ms, a line after
sys.tmo of its node (R230, R425). -/
def State.dueOf (s : State) (q : Req) : Nat := q.t0 + (if q.kind = .line then 1000 * (s.no q.die).tmo else 1000000)

/-- The failure code of an aborted answer, by the cause its home gives (R218, R228). -/
def answerCode (cause : Nat) : Nat := if cause = Cause.classMismatch.code then 3 else if cause = Cause.classIllegal.code then 4 else 1

/-- An atomic performed at its home in another package, whose bytes there held `old` (log 24): the model's copy of them holds the result
(R227, R372). -/
def State.performedThere (s : State) (q : Req) (old : Nat) : State :=
  let n := if q.w64 then 8 else 4
  let s := s.sendHome q.die (q.pa / 128) q.cls
  { s with mem := memPutBytes s.mem q.pa (leBytes n (atomNew q.op (8 * n) (old % 2 ^ (8 * n)) (q.b.toNat % 2 ^ (8 * n)) (q.c.toNat % 2 ^ (8 * n)))) }

/-- RESPONSE_ARRIVE (R230, R425): the lane takes the kept old value, the line has come, or the request aborts, `data` being the cause its home
gives; a late response is dropped. -/
def State.response (s : State) (id : Nat) (data : W64) (abort : Bool) : State :=
  match s.req? id with
  | none => s
  | some q =>
    if q.sends = 0 then s
    else if s.dueOf q ≤ s.ptbAt q.die then s
    else if abort then s.failReq q (answerCode data.toNat)
    else if q.kind = .line then s.lineEnd q true
    else
      let s := s.performedThere q data.toNat
      let s : State := { s with reqs := s.reqs.filter (fun x => x.id != id) }
      match q.dst with
      | none => s.redEnd q
      | some d =>
        let a := s.ag q.agent
        let a := a.putV d q.lane (lo32 data)
        let a := if q.w64 then a.putV (d + 1) q.lane (hi32 data) else a
        ((s.setAg q.agent a).atomEnd q.agent q.acq).landReq q

/-- REMOTE_ATOMIC_RESEND (R230): at 250, 500 and 750 µs the same tag and T0 go out again. -/
def State.resend (s : State) (id : Nat) : State :=
  match s.req? id with
  | none => s
  | some q =>
    if q.kind = .atomic ∧ 1 ≤ q.sends ∧ q.sends ≤ 3 ∧ q.t0 + 250000 * q.sends ≤ s.ptbAt q.die then
      let s := s.setReq id (fun x => { x with sends := x.sends + 1 })
      { s with out := s.out ++ [s.reqOut q 0] }
    else s

/-- An atomic that no answer tells of was performed at its home once or not at all (R230, R372): a free choice (log 24). -/
def State.maybePerformed (s : State) (q : Req) : State :=
  let n := if q.w64 then 8 else 4
  let s' : State := { s with fresh := s.fresh + 1 }
  if Config.performed s.fresh then s'.performedThere q (leNat (memBytes s.mem q.pa n)) else s'

/-- ATOM_INDETERMINATE (R230, R231): no response within 1 ms. -/
def State.indeterminate (s : State) (id : Nat) : State :=
  match s.req? id with
  | none => s
  | some q => if q.kind = .atomic ∧ 1 ≤ q.sends ∧ q.t0 + 1000000 ≤ s.ptbAt q.die then (s.maybePerformed q).failReq q 2 else s

/-- REQUEST_TIMEOUT (R230, R425): a line that has not come within sys.tmo, in microseconds (R46), aborts with cause TIMEOUT; an atomic within
the package without a response by then is INDETERMINATE, and one that left the package follows R230 instead. -/
def State.reqTimeout (s : State) (id : Nat) : State :=
  match s.req? id with
  | none => s
  | some q =>
    if (q.kind = .line ∨ q.pkg = Config.pkg) ∧ 1 ≤ q.sends ∧ q.t0 + 1000 * (s.no q.die).tmo ≤ s.ptbAt q.die then s.failReq q 2 else s

/-- REQUEST_RETRY (R388): the requester computes the home again and sends the request there. -/
def State.reqRetry (s : State) (id : Nat) : State :=
  match s.req? id with
  | none => s
  | some q => if 1 ≤ q.sends then { s with out := s.out ++ [s.reqOut q (s.homeOf q.pa)] } else s

/-- CREDIT_RETURN (R433, R499): a request slot comes back and goes to the oldest request waiting for that package. -/
def State.credit (s : State) (die core pkg : Nat) : State :=
  let ck := coreKey die core
  let c := s.co ck
  if tget c.slots pkg = 0 then s
  else
    let s := s.setCo ck { c with slots := tput c.slots pkg (tget c.slots pkg - 1) }
    match s.reqs.find? (fun q => q.waiting && q.die == die && q.core == core && q.pkg == pkg) with
    | some q => if s.mayLaunch q then s.launchReq q else s
    | none => s.wakeRemote ck

/-- REMOTE_TAG_AGE_OUT (R230): `home` is the package times 64 plus the node. A tag ages 1 ms after its sending, and a lane that waited for it
leaves. -/
def State.tagAge (s : State) (die core home : Nat) : State :=
  let ck := coreKey die core
  let hk := ck * 2 ^ 14 + home
  match tget s.recent hk with
  | [] => s
  | t :: ts =>
    if t + 1000000 ≤ s.ptbAt die then
      let s : State := { s with recent := tput s.recent hk ts }
      match s.reqs.find? (fun q => q.waiting && q.kind == .atomic && coreKey q.die q.core == ck && s.tagKey ck q.pa == hk) with
      | some q => if s.mayLaunch q then s.launchReq q else s
      | none => s.wakeRemote ck
    else s

/-- Every request slot toward a package that has become unreachable or left the domain returns (R500), and what waits to be sent
to it ends with cause TIMEOUT at once (R432). -/
def State.dropPkg (s : State) (p : Nat) : State :=
  let s : State := { s with cores := s.cores.map (fun (c : Nat × Core) => (c.1, { c.2 with slots := tdel c.2.slots p })) }
  let qs := s.reqs.filter (fun q => q.pkg == p && q.waiting)
  let s := qs.foldl (fun s q => s.failReq q 5) s
  s.liveChanged p

/-- A package that can be reached again is a live member again (R306, R437). -/
def State.admitPkg (s : State) (p : Nat) : State := ({ s with lostPkgs := s.lostPkgs.filter (· != p) } : State).liveChanged p

/-! ## Remote atomics at the home (R230) -/

/-- The key of a requester's die in a home's fence marks: this package's dies by their own numbers. -/
def markKey (pkg die : Nat) : Nat := if pkg = Config.pkg then die else 32 * (pkg + 1) + die

/-- Perform another package's atomic at its home: copies on this package's dies come home first; a PV line another die owns, a lost line
or an older generation does not take it (R84, R228, R453). -/
def State.remotePerform (s : State) (r : RemReq) : Except Abort Nat × State :=
  let l := r.pa / 128
  let cls := s.classAt (linePage l)
  match s.homeAbort l cls with
  | some e => (.error e, s)
  | none =>
    if cls = .pv ∧ (s.dr l).owner.isSome then (.error .pvOwner, s)
    else
      let s := if cls = .sc then s.recallLine l else s
      let n := if r.w64 then 8 else 4
      let m := leNat (memBytes s.mem r.pa n)
      if r.gen < s.genAt l r.ctx ∨ (s.no (s.homeOf r.pa)).marks.contains (markKey r.pkg r.die) then (.ok m, s)
      else (.ok m, s.homePut r.pa (leBytes n (atomNew r.op (8 * n) m r.b.toNat r.c.toNat)))

/-- Whether a window entry is of a requester's core. -/
def Kept.of (k : Kept) (pkg die core : Nat) : Bool := k.pkg == pkg && k.die == die && k.core == core

/-- Keep a result; a requester's window holds its 4,096 most recent tags. -/
def State.keep (s : State) (k : Kept) : State :=
  let w := s.window ++ [k]
  if 4096 < (w.filter (fun x => x.of k.pkg k.die k.core)).length then
    { s with window := match w.find? (fun x => x.of k.pkg k.die k.core) with | some x => w.erase x | none => w }
  else { s with window := w }

/-- Bytes of another package's atomic: who sent it, then as those of this package's own (R230). -/
def remBytes (r : RemReq) : List Byte :=
  leBytes 1 r.pkg ++ leBytes 1 r.die ++ leBytes 1 r.core ++ leBytes 2 r.tag ++ leBytes 1 (aopCode r.op) ++ leBytes 1 (if r.w64 then 8 else 4) ++ leBytes 8 r.t0 ++ leBytes 8 r.pa ++
    leBytes 8 r.b.toNat ++ leBytes 8 r.c.toNat

/-- A request for another package goes on toward it on the sync plane; where no port toward it works, it goes nowhere (R432). -/
def State.relay (s : State) (r : RemReq) : State :=
  match s.syncPort (paPkg r.pa) with
  | some p => { s with out := s.out ++ [{ s.peerOut (paPkg r.pa) 1 r.tag 0 (remBytes r) with chan := 128 + p }] }
  | none => s

/-- REMOTE_ATOMIC_REQUEST (R230): a request whose T0 lies 1 ms or more back is discarded, a resend whose tag is kept gets the kept result,
any other is performed, kept and answered. -/
def State.remoteAtomic (s : State) (r : RemReq) : State :=
  let now := s.ptbAt (s.homeOf r.pa)
  if paPkg r.pa ≠ Config.pkg then s.relay r
  else if r.t0 + 1000000 ≤ now then s
  else match s.window.find? (fun k => k.of r.pkg r.die r.core && k.tag == r.tag) with
  | some k => { s with out := s.out ++ [s.peerOut r.pkg 2 r.tag 0 (leBytes 8 k.data.toNat)] }
  | none =>
    match s.remotePerform r with
    | (.error e, s) => { s with out := s.out ++ [s.peerOut r.pkg 2 r.tag e.cause.code []] }
    | (.ok m, s) =>
      let s := s.keep { pkg := r.pkg, die := r.die, core := r.core, tag := r.tag, data := BitVec.ofNat 64 m, at_ := now }
      { s with out := s.out ++ [s.peerOut r.pkg 2 r.tag 0 (leBytes 8 m)] }

/-- REPLAY_WINDOW_EXPIRY (R230): 1 ms after its performance. -/
def State.windowExpiry (s : State) (pkg die core tag : Nat) : State :=
  { s with window := s.window.filter (fun k => !(k.of pkg die core && k.tag == tag && decide (k.at_ + 1000000 ≤ s.ptbAt ioNode))) }

/-! ## The steps -/

/-- REMOTE_ATOMIC_REQUEST (R230). -/
def execRemoteAtomicRequest (r : RemReq) (s : State) : Host.Outcome State Fault Refusal := .next (s.remoteAtomic r)
/-- REMOTE_ATOMIC_RESEND (R230). -/
def execRemoteAtomicResend (request : Nat) (s : State) : Host.Outcome State Fault Refusal := .next (s.resend request)
/-- ATOM_INDETERMINATE (R231). -/
def execAtomIndeterminate (request : Nat) (s : State) : Host.Outcome State Fault Refusal := .next (s.indeterminate request)
/-- REPLAY_WINDOW_EXPIRY (R230). -/
def execReplayWindowExpiry (pkg die core tag : Nat) (s : State) : Host.Outcome State Fault Refusal := .next (s.windowExpiry pkg die core tag)
/-- RESPONSE_ARRIVE (R425). -/
def execResponseArrive (request : Nat) (data : W64) (abort : Bool) (s : State) : Host.Outcome State Fault Refusal := .next (s.response request data abort)
/-- REQUEST_TIMEOUT (R425). -/
def execRequestTimeout (request : Nat) (s : State) : Host.Outcome State Fault Refusal := .next (s.reqTimeout request)
/-- CREDIT_RETURN (R433). -/
def execCreditReturn (die core pkg : Nat) (s : State) : Host.Outcome State Fault Refusal := .next (s.credit die core pkg)
/-- REMOTE_TAG_AGE_OUT (R230). -/
def execRemoteTagAgeOut (die core home : Nat) (s : State) : Host.Outcome State Fault Refusal := .next (s.tagAge die core home)
/-- REQUEST_RETRY (R388). -/
def execRequestRetry (request : Nat) (s : State) : Host.Outcome State Fault Refusal := .next (s.reqRetry request)

end Sys2Proof.Machine
end

