-- ==== Sys2Proof/Machine/Tiers.lean ====
section
/-! DEFINITION. The loss of a stack or a channel (R384–R386), re-hashing under live traffic (R387–R389) and tier migration (R390). -/

namespace Sys2Proof.Machine

/-! ## Losses (R385, R386) -/

/-- STACK_LOSS (R385, R386): the loss is recorded under the placement in force; the first one is due a re-hash to the seven working
stacks. A further one stands for good on the pages S7 places there; those not yet re-hashed that lie there are lost as well. -/
def State.stackLost (s : State) (i : Nat) : State :=
  let b : BitVec 8 := BitVec.twoPow 8 i
  if 8 ≤ i ∨ s.stackUp &&& b = 0 then s
  else
    let x : Loss := { home := 22 + i, chan := none, near := s.nearPl, chans := s.chanPl (22 + i), forGood := false, pages := [], lines := [] }
    let s7 : Placement := { old := s.hbm.setWidth 48, new := s.hbm.setWidth 48, from_ := 0 }
    if s.hbm = 0xFF then ({ s with losses := s.losses ++ [x], stackUp := s.stackUp &&& ~~~ b, hbm := s.hbm &&& ~~~ b } : State).bumpCap
    else
      let xs := { x with near := s7, forGood := true } :: (if s.oldHbm = s.hbm then [] else [x])
      ({ s with losses := s.losses ++ xs, stackUp := s.stackUp &&& ~~~ b } : State).bumpCap

/-- Firmware re-initialises a lost line (R356, R385): its marks go and its home's bytes stay. -/
def State.reinit (s : State) (l : Nat) : State := (s.setDr l { s.dr l with lost := false }).findLine l

/-- The least number of channels a home works with (R384, R386). -/
def minChans (home : Nat) : Nat := if home < 30 then 28 else 44

/-- The channels of a home's next variant: with a number that no variant has, the highest working one is given up (log 44). -/
def variantChans (home : Nat) (m : BitVec 48) : BitVec 48 :=
  let n := popCount m
  if (home < 30 ∧ n = 29) ∨ (30 ≤ home ∧ n = 45) then m &&& ~~~ BitVec.twoPow 48 (((setBits m).max?).getD 0) else m

/-- CHANNEL_LOSS (R385, R386): the channel's lines are recorded; below the least variant the whole stack is taken out, or the far die is
fenced. -/
def State.channelLost (s : State) (home c : Nat) : State :=
  let n := s.no home
  if home < 22 ∨ 32 ≤ home ∨ !n.chans.getLsbD c ∨ 48 ≤ c then s
  else
    let left := n.chans &&& ~~~ BitVec.twoPow 48 c
    if popCount left < minChans home then
      if home < 30 then s.stackLost (home - 22)
      else { s with todo := s.todo ++ [Todo.nodeFence home] }
    else
      let x : Loss := { home := home, chan := some c, near := s.nearPl, chans := s.chanPl home, forGood := false, pages := [], lines := [] }
      (({ s with losses := s.losses ++ [x] } : State).setNo home { n with chans := variantChans home left }).bumpCap

/-! ## Re-hashing (R387–R389) -/

/-- Whether a forwarder works: a far die's, or the other's in its place (R389). -/
def State.forwarder (s : State) : Bool := [30, 31].any (fun h => !(s.no h).fenced)

/-- Whether a home has a re-hash due or in progress: of the stacks, at the lost stack's home, or of its own channels. -/
def State.stackHash (s : State) (home : Nat) : Bool := s.lostStack == some home
def State.chanHash (s : State) (home : Nat) : Bool := (s.no home).oldChans != (s.no home).chans

/-- The highest unit the new variant holds: a page of the seven stacks, or a line of the home's channels (R384, R387). -/
def State.topUnit (s : State) (home : Nat) : Nat :=
  if s.stackHash home then min 7812499 (976563 * popCount s.hbm - 1)
  else
    let frames := if home < 30 then 976563 else Config.farBytes / 65536
    512 * frames / (if home < 30 then 32 else 48) * popCount (s.no home).chans - 1

/-- Recall every cached copy of some lines (R238, R387). -/
def State.recallAll (s : State) (ls : List Nat) : State := ls.foldl (fun s l => s.recallLine l) s

/-- Pages a line of a home's channels may belong to: the near pages of its stack, or the far die's. -/
def State.unitLines (s : State) (home u : Nat) : List Nat :=
  if s.stackHash home then s.pageLines u
  else ((s.dirs.map (·.1) ++ s.dies.flatMap (fun d => d.2.l2.map (·.line))).filter (fun l =>
    let (h, f) := pagePlace s.nearPl (linePage l)
    h == home && 512 * f + l % 512 == u)).dedup

/-- REHASH_UNIT_MOVE (R387): the walk begins at the highest unit; the unit at the boundary has every copy recalled and has its new place
from then on. Bytes, class, LOST marks and directory state go by physical address, so they are there already; a unit that lay on what was
lost stays in the loss map. -/
def State.unitMove (s : State) (home : Nat) : State :=
  if !s.forwarder || !(s.stackHash home || s.chanHash home) then s
  else
    let n := s.no home
    let s := if n.rehash then s else s.setNo home { n with rehash := true, boundary := s.topUnit home, moved := false }
    let n := s.no home
    if n.moved then s
    else
      let s := s.recallAll (s.unitLines home n.boundary)
      s.setNo home { s.no home with moved := true }

/-- Firmware starts a re-hash, once it has vacated what the new variant cannot hold (R387). -/
def State.rehashStart (s : State) (home : Nat) : State :=
  let n := s.no home
  if n.rehash || !(s.stackHash home || s.chanHash home) then s
  else s.setNo home { n with rehash := true, boundary := s.topUnit home, moved := false }

/-- Whether a die takes part in a re-hash: it is populated and not fenced. -/
def State.working (s : State) (die : Nat) : Bool := (s.di die).inService && !(s.no die).fenced

/-- Whether every working die has acknowledged a home's boundary (R388). -/
def State.boundSeen (s : State) (home : Nat) : Bool :=
  (List.range 22).all (fun d => !s.working d || tfind (s.di d).bound home == some (s.no home).boundary)

/-- The boundary reaches the working dies (R388). -/
def State.boundOut (s : State) (home : Nat) : State := ((List.range 22).filter s.working).foldl (fun s d => s.syncB d home) s

/-- BOUNDARY_ADVANCE (R387, R388): the unit has moved and every die has acknowledged the boundary; after unit 0 the new variant is in force. -/
def State.boundaryAdvance (s : State) (home : Nat) : State :=
  let n := s.no home
  if !n.rehash || !n.moved || !s.boundSeen home then s
  else if n.boundary ≠ 0 then s.setNo home { n with boundary := n.boundary - 1, moved := false }
  else
    let s : State := { s with dies := s.dies.map (fun (p : Nat × Die) => (p.1, { p.2 with bound := tdel p.2.bound home })) }
    if s.stackHash home then { s.setNo home { n with rehash := false, moved := false } with oldHbm := s.hbm }
    else s.setNo home { n with rehash := false, moved := false, oldChans := n.chans }

/-! ## Tier migration (R390) -/

/-- Whether a physical page is of this package, populated, at a home that works. -/
def State.pageServed (s : State) (pa : Nat) : Bool :=
  pa % 65536 == 0 && paPkg pa == Config.pkg && populated (paLocal pa) && !(s.no (s.homeOf pa)).fenced

/-- The PTE a migration leaves or starts from: its frame and state. -/
def pteFrame (e : W64) (pa state : Nat) : W64 :=
  BitVec.ofNat 64 (e.toNat / 2 ^ 56 * 2 ^ 56 + pa / 65536 * 65536 + e.toNat % 256 + 256 * state + (if 2 ^ 40 ≤ paLocal pa then 1024 else 0) + e.toNat / 2048 % 32 * 2048)

/-- Whether a PTE maps a page at a frame in a state. -/
def pteIs (e : W64) (pa state : Nat) : Bool := e.getLsbD 0 && e.toNat / 65536 % 2 ^ 40 == pa / 65536 && e.toNat / 256 % 4 == state && !e.getLsbD 7

/-- Whether a PTE is the one the forwarder left, but for the bits the walker sets (R390, R392). -/
def pteKept (e w : W64) : Bool := e &&& ~~~ 0x60#64 == w &&& ~~~ 0x60#64

/-- Copy a page's bytes and its LOST marks from home to home. The bytes of a line that cannot be read are withheld, and its copy is LOST
(R358, R448; log 104); a destination line that is lost takes no bytes and stays so (R356, R385, R386). -/
def State.pageCopy (s : State) (src dst : Nat) : State :=
  let inP (p a : Nat) : Bool := decide (p ≤ a) && decide (a < p + 65536)
  let shut (a : Nat) : Bool := s.lineLost (dst / 128 + a % 65536 / 128)
  let cells := s.mem.filter (fun c => inP src c.1 && !shut c.1)
  let mem := cells.foldl (fun m c => memPut m (dst + (c.1 - src)) c.2) (s.mem.filter (fun c => !(inP dst c.1 && !shut c.1)))
  let lost := (List.range 512).filter (fun i => s.lineLost (src / 128 + i) || s.lineGone (src / 128 + i) || (s.dr (src / 128 + i)).bad || (s.dr (dst / 128 + i)).lost)
  let s : State := { s with mem := mem, dirs := s.dirs.filter (fun d => linePage d.1 != dst / 65536) }
  lost.foldl (fun s i => s.setDr (dst / 128 + i) { lost := true }) s

/-- Stores that agents have queued for a page that has moved: the source answers them with a retry, and the new translation, whose offsets are
the old one's, takes them to the destination (R390 step 4). -/
def State.retryStores (s : State) (src dst : Nat) : State :=
  { s with agents := s.agents.map (fun p => (p.1, { p.2 with sq := p.2.sq.map (fun e => match e.place with
      | .phys pa => if pa / 65536 = src / 65536 then { e with place := .phys (dst + pa % 65536) } else e
      | _ => e) })) }

/-- Steps 1 and 2 of R390: the destination's home takes the class, the PTE goes to the moving state by compare-and-swap, and the lines are
copied; from then on writes of the page reach both copies (`State.putLine`). -/
def State.migBegin (s : State) (m : MigCmd) : State :=
  let (e, s) := s.tableWord m.pte
  if (s.tableAbort m.pte).isSome || !s.forwarder || !s.pageServed m.src || !s.pageServed m.dst || !pteIs e m.src 0 then { s with migDone := s.migDone ++ [(m, false)] }
  else
    let w := pteFrame e m.src 2
    let s := s.recallAll (s.pageLines (m.dst / 65536))
    let s : State := { s.putPte m.pte w with moving := s.moving ++ [(m, w)], classes := tput s.classes (m.dst / 65536) (s.classAt (m.src / 65536)) }
    s.pageCopy m.src m.dst

/-- A move ends without its page (R390): a PTE that software rewrote stays; one that the forwarder's mark is on maps the source as before. -/
def State.migFail (s : State) (m : MigCmd × W64) : State :=
  let (e, s) := s.tableWord m.1.pte
  let s := if pteKept e m.2 && (s.tableAbort m.1.pte).isNone then s.putPte m.1.pte (pteFrame e m.1.src 0) else s
  { s with moving := s.moving.erase m, migDone := s.migDone ++ [(m.1, false)] }

/-- Steps 3 to 5 of R390: every copy is recalled, the page is at its destination, the PTE names it, every die forgets the old translation,
and the completion record is the sender's. -/
def State.migEnd (s : State) (m : MigCmd × W64) : State :=
  let (e, s) := s.tableWord m.1.pte
  if (s.tableAbort m.1.pte).isSome || !s.pageServed m.1.src || !s.pageServed m.1.dst || !pteKept e m.2 then s.migFail m
  else if !s.forwarder then s
  else
    let s := s.recallAll (s.pageLines (m.1.src / 65536) ++ s.pageLines (m.1.dst / 65536))
    let s := (s.pageCopy m.1.src m.1.dst).putPte m.1.pte (pteFrame e m.1.dst 0)
    let s := (s.dropTlb (fun t => t.ptePa == m.1.pte)).retryStores m.1.src m.1.dst
    { s with moving := s.moving.erase m, migDone := s.migDone ++ [(m.1, true)] }

/-- TIER_MIGRATION (R390): the command starts the move, and the forwarder's next step on it ends it with its completion record. -/
def State.migrate (s : State) (m : MigCmd) : State :=
  match s.moving.find? (fun x => x.1 == m) with
  | some x => s.migEnd x
  | none => s.migBegin m

/-- The moves whose source or destination home is fenced end (R390, R457). -/
def State.movesEnd (s : State) (home : Nat) : State :=
  (s.moving.filter (fun m => s.homeOf m.1.src == home || s.homeOf m.1.dst == home)).foldl (fun s m => s.migFail m) s

/-! ## The steps -/

/-- STACK_LOSS (R385). -/
def execStackLoss (stack : Nat) (s : State) : Host.Outcome State Fault Refusal := .next (s.stackLost stack)
/-- CHANNEL_LOSS (R385). -/
def execChannelLoss (home channel : Nat) (s : State) : Host.Outcome State Fault Refusal := .next (s.channelLost home channel)
/-- REHASH_UNIT_MOVE (R387). -/
def execRehashUnitMove (home : Nat) (s : State) : Host.Outcome State Fault Refusal := .next (s.unitMove home)
/-- BOUNDARY_ADVANCE (R388). -/
def execBoundaryAdvance (home : Nat) (s : State) : Host.Outcome State Fault Refusal := .next (s.boundaryAdvance home)
/-- TIER_MIGRATION (R390). -/
def execTierMigration (m : MigCmd) (s : State) : Host.Outcome State Fault Refusal := .next (s.migrate m)

end Sys2Proof.Machine
end

