-- ==== Sys2Proof/Machine/Fence.lean ====
section
/-! DEFINITION. Errors and their health records (R445–R451), the fencing of a node and what follows it in the package (R422, R426,
R452–R457), spares joining (R458), slices that fail (R378), and the registers of R450. -/

namespace Sys2Proof.Machine

/-! ## Errors (R445–R450) -/

/-- The package fails for good (R418, R457): it leaves its domain, and nothing of it runs on. -/
def State.packageFails (s : State) : State :=
  let s : State := { s with domain := [] }
  { s.bumpCap with fatal := true, todo := [],
                   agents := s.agents.map (fun (p : Nat × Agent) => (p.1, { p.2 with live := p.2.live && p.2.kind == .firmware, wait := .halted })) }

/-- The key of an array for the count of corrected errors. -/
def errArray (e : ErrInfo) : Nat :=
  ((e.node * 256 + e.cause) * 256 + e.unit) * 8 + (match e.part with | .l2 => 0 | .l1 => 1 | .scratch => 2 | .other => 3 | .control => 4)

/-- ERROR_DETECTED (R445, R447, R449, R450): a corrected error is counted, and 1,024 of them in one array within 1 s are one lasting
error; another one is retried. -/
def State.errorDetected (s : State) (e : ErrInfo) (corrected : Bool) : State :=
  let n := s.no e.node
  if ioNode < e.node then s
  else if corrected then
    let s := (s.setNo e.node { n with corr := min 0xFFFF (n.corr + 1) }).healthRec e.node 0 e.cause e.unit e.addr e.req
    let now := s.ptbAt ioNode
    let ts := (tget s.corrTimes (errArray e)).filter (fun t => decide (now < t + 1000000000)) ++ [now]
    if 1024 ≤ ts.length then ({ s with corrTimes := tdel s.corrTimes (errArray e) } : State).lasting e.node e.cause e.unit e.addr e.req
    else { s with corrTimes := tput s.corrTimes (errArray e) ts }
  else { s with errPend := s.errPend ++ [(s.ptbAt ioNode, e)] }

/-- What a lasting error in a stored array withholds (R448, R358): a line of a near or far die, a granule of a weight store, a word of a
scratchpad, a line of an L1, which the L2 still holds, or a line of a die's L2, which is lost when it held the only copy. What another array
holds stays as it was written (log 107). -/
def State.withhold (s : State) (e : ErrInfo) : State :=
  let l := e.addr / 128
  let ck := coreKey e.node e.unit
  if (e.cause = 0x03 ∨ e.cause = 0x04) ∧ e.addr ≠ 0 then s.setDr l { s.dr l with bad := true }
  else if e.cause = 0x02 ∧ e.node < 22 then s.setDi e.node { s.di e.node with wsBad := (s.di e.node).wsBad ++ [e.addr / 32] }
  else if e.cause = 0x01 ∧ e.node < 22 ∧ e.part = .scratch then s.setCo ck { s.co ck with bad := (s.co ck).bad ++ [e.addr / 8] }
  else if e.cause = 0x01 ∧ e.node < 22 ∧ e.part = .l1 then s.setCo ck { s.co ck with l1 := (s.co ck).l1.filter (fun x => x.line != l) }
  else if e.cause = 0x01 ∧ e.node < 22 ∧ e.part = .l2 then
    match (s.di e.node).line? l with
    | some x => (if x.st = .m ∨ (x.st = .d ∧ x.cls = .rc) then s.setDr l { s.dr l with lost := true } else s).dropL2 e.node l
    | none => s
  else s

/-- ERROR_RETRY (R447–R450): a retry that succeeds makes the error transient; one that fails makes it lasting. In a
router, a mesh link or the I/O die's arrays it is fatal to the package (R418, R457), and in a die's distributors, walker or controller it fences
the die (R452). -/
def State.errorRetry (s : State) (e : ErrInfo) (again : Bool) : State :=
  match s.errPend.find? (fun p => p.2 == e) with
  | none => s
  | some p =>
    let s : State := { s with errPend := s.errPend.erase p }
    if again then
      let s := (s.withhold e).lastingOf p.1 e.node e.cause e.unit e.addr e.req
      if e.cause = 0x06 ∨ (e.node = ioNode ∧ e.cause = 0x01) then s.packageFails
      else if e.node < 22 ∧ e.cause = 0x01 ∧ e.part = .control then { s with todo := s.todo ++ [Todo.nodeFence e.node] }
      else s
    else s.transientOf p.1 e.node e.cause e.unit e.addr e.req

/-! ## Fencing (R422, R453–R456) -/

/-- Whether a die's fence sequence is in progress. -/
def State.fenceSeq (s : State) (node : Nat) : FenceSeq := tget s.fencing node

/-- What a compute die's fence takes with it (R422, R455): its agents, its cores, caches and controller. The courier contexts of teams it has
saved are not its own any more (R53): they keep their queues, which go on where the team resumes (log 42). -/
def State.dieGone (s : State) (die : Nat) : State :=
  let d := s.di die
  let ks := (s.agents.filter (fun p => p.2.die == die && p.2.kind != Kind.firmware && (s.tm p.2.team).pre != .saved)).map (·.1)
  let s := s.setDi die { st := d.st, cores := d.cores, slices := d.slices, variant := d.variant, placed := d.slices, noCtl := true }
  let s := s.setAg (fwKey die) (fwAtReset die)
  { s with
    agents := s.agents.filter (fun p => !ks.contains p.1)
    couriers := s.couriers.filter (fun p => !ks.contains p.1)
    cores := s.cores.filter (fun p => p.1 / 16 != die)
    reqs := s.reqs.filter (fun q => q.die != die)
    net := s.net.filter (fun m => m.die != die || m.kind.toHome)
    held := s.held.filter (fun h => h.die != die) }

/-- NODE_FENCE (R422): the port closes, the modules are held in reset, the power is switched off; the first cause starts the sequence,
later ones join it (R452), and a fence of a joining die starts it again (R459). Fencing the I/O die is fatal to the package (R457). -/
def State.nodeFence (s : State) (node : Nat) : State :=
  let n := s.no node
  let joining : Bool := match (s.di node).st with | .joining _ _ => true | _ => false
  if ioNode < node then s
  else if node = ioNode then (s.healthRec node 3 n.icause 0xFF 0 0xFF).packageFails
  else if n.fenced && !(node < 22 && joining) then s
  else
    let s := s.setNo node { n with fenced := true, powered := false, modules := 0, priv := [] }
    let s := if node < 22 then s.dieGone node else s
    let s := s.healthRec node 3 n.icause 0xFF 0 0xFF
    { s with fencing := tput s.fencing node { stage := 1, homes := [] }, todo := s.todo ++ [Todo.fenceNotice node] }

/-- WATCHDOG_FENCE (R426). -/
def State.watchdog (s : State) (node : Nat) : State :=
  let n := s.no node
  if ioNode < node ∨ n.fenced then s else (s.setNo node { n with icause := 0x0A }).nodeFence node

/-- A near or far die that is fenced loses its pages (R457). -/
def State.homeGone (s : State) (node : Nat) : State :=
  let s := s.movesEnd node
  if node < 30 then s.stackLost (node - 22)
  else
    let x : Loss := { home := node, chan := none, near := s.nearPl, chans := s.chanPl node, forGood := false, pages := [], lines := [] }
    ({ s with losses := s.losses ++ [x] } : State).bumpCap

/-- Step 4 of a fence follows once every home it waits for, in this package and in those still in the domain, has processed the notice (R453). -/
def State.fenceMarked (s : State) (die : Nat) : State :=
  let q := s.fenceSeq die
  if q.stage = 2 ∧ q.homes.isEmpty ∧ q.pkgs.all (fun p => !s.domain.contains p) then
    { s with fencing := tput s.fencing die { stage := 3, homes := [] }, todo := s.todo ++ [Todo.fenceCapacity die] }
  else s

/-- FENCE_NOTICE (R453 step 2): to every node and package; the fenced node's unsent traffic toward the fabric is dropped. -/
def State.fenceNotice (s : State) (node : Nat) : State :=
  if (s.fenceSeq node).stage ≠ 1 then s
  else
    let peers := (s.domain.filter (· != Config.pkg)).map (fun p => s.peerOut p 3 node 0 [])
    let s : State := { s with out := s.out ++ peers, held := s.held.filter (fun h => h.die != node) }
    if 22 ≤ node then { s.homeGone node with fencing := tdel s.fencing node }
    else
      let hs := homes.filter (fun h => !(s.no h).fenced)
      let ps := s.domain.filter (· != Config.pkg)
      (({ s with fencing := tput s.fencing node { stage := 2, homes := hs, pkgs := ps }, todo := s.todo ++ hs.map (fun h => Todo.homeMark h node) } : State)).fenceMarked node

/-- The homes of another package have processed the notice of a fence (R453 step 3). -/
def State.pkgMarked (s : State) (pkg die : Nat) : State :=
  let q := s.fenceSeq die
  if q.stage ≠ 2 then s else ({ s with fencing := tput s.fencing die { q with pkgs := q.pkgs.filter (· != pkg) } } : State).fenceMarked die

/-- What a home does to one line's directory entry on a fenced die's behalf (R228, R453, R454): LOST marks, holders and owner tags
removed, requests and acknowledgements of the die settled. The second part tells which grant is now due. -/
def Dir.mark (d : Dir) (die : Nat) : Dir × Option Txn :=
  let own : Bool := match d.sc with | .x o => o == die | _ => false
  let sc := match d.sc with
    | .x o => if o = die then .u else .x o
    | .s set => if bit22 set die false = 0 then .u else .s (bit22 set die false)
    | .u => .u
  let dirty := d.dirty.getLsbD die
  let d' : Dir := { d with sc := sc, hold := bit22 d.hold die false, dirty := bit22 d.dirty die false, lost := d.lost || own || dirty,
                           owner := if d.owner = some die then none else d.owner, queue := d.queue.filter (fun q => q.die != die) }
  match d.busy with
  | none => (d', none)
  | some t =>
    let acks := bit22 t.acks die false
    if t.want = die ∨ own then ({ d' with busy := none }, none)
    else if acks = 0 then ({ d' with busy := none }, some t)
    else ({ d' with busy := some { t with acks := acks } }, none)

/-- Mark the lines of a home (R454). A notice of dirty bytes that the die has sent counts: it held them (R356, R383). A request that waits for the
die's answer to a forward, or behind it, ends without its line, which is LOST; an access that asks again aborts (R454; log 21). -/
def State.markLines (s : State) (home die : Nat) : State :=
  let here (l : Nat) : Bool := s.homeOf (128 * l) == home && paPkg (128 * l) == Config.pkg
  let s := (s.net.filter (fun m => m.kind == .dirtyNotice && m.die == die && here m.line)).foldl (fun s m => s.hDirtyNotice die m.line) s
  let ls := (s.dirs.filter (fun p => here p.1)).map (·.1)
  let s : State := { s with net := s.net.filter (fun m => !(m.die == die && m.kind.toHome && s.homeOf (128 * m.line) == home)) }
  ls.foldl (fun s l =>
    let busy := (s.dr l).busy.isSome
    let (d, g) := (s.dr l).mark die
    let s := s.setDr l (if d.lost then { d with queue := d.queue.filter (fun q => q.kind == .writeBack || q.kind == .cleanEvict) } else d)
    let s := match g with
      | some t => if t.excl then s.grantTo t.want l .grantM (.x t.want) else s.grantTo t.want l .grantS (.s (BitVec.twoPow 22 t.want))
      | none => s
    if busy && (s.dr l).busy.isNone then s.nextSC l (s.dr l).queue.length else s) s

/-- HOME_FENCE_MARK (R453 step 3): for this package's dies while their notice is out; a mark of another package's die when its notice
comes. -/
def State.homeMark (s : State) (home die : Nat) : State :=
  let q := s.fenceSeq die
  let n := s.no home
  if !homes.contains home then s
  else if 32 ≤ die then s.setNo home { n with marks := if n.marks.contains die then n.marks else n.marks ++ [die] }
  else if q.stage ≠ 2 ∨ !q.homes.contains home then s
  else
    let s := (s.setNo home { n with marks := if n.marks.contains die then n.marks else n.marks ++ [die] }).markLines home die
    ({ s with fencing := tput s.fencing die { q with homes := q.homes.filter (· != home) } } : State).fenceMarked die

/-- FENCE_CAPACITY_UPDATE (R453 step 4). -/
def State.fenceCapacity (s : State) (die : Nat) : State :=
  if (s.fenceSeq die).stage ≠ 3 then s
  else
    let s := (s.setDi die { s.di die with st := .fenced }).bumpCap
    { s with fencing := tput s.fencing die { stage := 4, homes := [] }, todo := s.todo ++ [Todo.fenceLaunches die] }

/-- Block groups with a team that held resources of a die, by launch, and whether it had started: one whose placement step has not ended stays
unstarted (R76, R409, R416). -/
def State.lostBgs (s : State) (die : Nat) : List (Nat × Nat) :=
  ((s.teams.filter (fun p => p.2.live && p.2.die == die && p.2.pre != .saved)).map (fun p => (p.2.lid, p.2.bg))).dedup
def State.begunBgs (s : State) (die : Nat) : List (Nat × Nat) :=
  (s.lostBgs die).filter (fun x => s.teams.any (fun p => p.2.live && p.2.lid == x.1 && p.2.bg == x.2 && (p.2.pre == .saved || decide (p.2.started ≤ s.cycle))))

/-- The teams of a die's lost block groups: saved ones among them go too, since the block group is dispatched again from its start (R76). -/
def State.lostTeams (s : State) (die : Nat) : List Nat :=
  (s.teams.filter (fun p => p.2.live && (s.lostBgs die).contains (p.2.lid, p.2.bg))).map (·.1)

/-- The indexes of a launch's unstarted range at a die, which enter the re-run list (R413). -/
def reRange (l : Launch) (die : Nat) : Launch :=
  let mine := l.ranges.filter (fun r => distDie r.1 == die)
  { l with ranges := l.ranges.filter (fun r => distDie r.1 != die),
           rerun := l.rerun ++ (mine.flatMap (fun r => (List.range (r.2.2 - r.2.1)).map (r.2.1 + ·))).filter (fun b => !l.rerun.contains b) }

/-- FENCE_LAUNCH_HANDLING (R76, R413, R453 step 5): the die's teams are gone; the block groups of restartable launches are listed again, a
launch that is not restartable ends DIE_LOST. -/
def State.fenceLaunches (s : State) (die : Nat) : State :=
  if (s.fenceSeq die).stage ≠ 4 then s
  else
    let lost := s.lostBgs die
    let begun := s.begunBgs die
    let s := (s.lostTeams die).foldl (fun s t => s.freeTeam t) s
    let s : State := { s with launches := s.launches.map (fun (p : Nat × Launch) =>
      let l := reRange p.2 die
      let mine := (lost.filter (fun x => x.1 == p.1 && (l.hdr.restartable || !begun.contains x))).map (·.2)
      (p.1, { l with rerun := l.rerun ++ mine.filter (fun b => !l.rerun.contains b),
                     garr := l.garr.filter (fun k => decide (2 ^ 30 ≤ k) || k / 1024 != die) })) }
    let bad := ((begun.map (·.1)).dedup).filter (fun l => (s.la l).live && !(s.la l).hdr.restartable)
    let s := bad.foldl (fun s l => s.failLaunch l .dieLost) s
    let held := (s.timetable.filter (fun p => p.2.hold.isSome)).map (fun p => Todo.heldSubmit p.1)
    { s with fencing := tdel s.fencing die, prioWait := match s.prioWait with | some (_, _, d) => if d = die then none else s.prioWait | none => none,
             todo := s.todo ++ [Todo.spareJoin] ++ held ++ [Todo.admission, Todo.placement] }

/-! ## Joining (R458) -/

/-- SPARE_JOIN_START (R458 step 1): the lowest spare, or a fenced die that firmware returns to service. -/
def State.joinStart (s : State) (die : Nat) : State :=
  let d := s.di die
  let lowest : Bool := (List.range die).all (fun i => (s.di i).st != .spare)
  let start (f : Bool) : State :=
    let s := s.setDi die { st := .joining 1 f, cores := d.cores, slices := d.slices, variant := d.variant, placed := d.placed, noCtl := true }
    let n := s.no die
    (s.setNo die { n with powered := true, modules := 0x3F, lag := 0, tmo := 2000, stretch := false, priv := [] }).setAg (fwKey die) (fwAtReset die)
  match d.st with
  | .spare => if lowest then start false else s
  | .fenced => if (tfind s.fencing die).isNone then start true else s
  | _ => s

/-- Step 6 of R453: a spare, if one is left, joins. -/
def State.spareJoin (s : State) : State :=
  match (List.range 22).find? (fun i => (s.di i).st == .spare) with
  | some d => s.joinStart d
  | none => s

/-- A joining die that fails is fenced again, by the sequence of R453 (R458). -/
def State.joinFail (s : State) (die : Nat) : State := s.nodeFence die

/-- Whether a die joins and no fence has ended the join (R458, R459). -/
def State.joins (s : State) (die step : Nat) : Bool :=
  (match (s.di die).st with | .joining n _ => n == step | _ => false) && (tfind s.fencing die).isNone

/-- DIE_SELF_TEST (R458 steps 2 and 3), once the controller's image has been accepted (R468): failing cores are harvested, the L2 takes the variant of its working slices, and the weight store
is zeroed without an owner; the rejoin notice then goes to every other package of the domain (step 4). A die with fewer than 3 modules that loop
back fails (R419). -/
def State.selfTest (s : State) (die : Nat) (bad slices : BitVec 16) : State :=
  let d := s.di die
  match (if s.joins die 1 && d.checked then d.st else .absent) with
  | .joining 1 f =>
    let cores := d.cores &&& ~~~ bad
    if cores = 0 ∨ popCount slices < 12 ∨ popCount (s.no die).modules < 3 then s.joinFail die
    else
      let ps := s.domain.filter (· != Config.pkg)
      let s : State := { s with rejoins := tput s.rejoins die ps, out := s.out ++ ps.map (fun p => s.peerOut p 6 die 0 []) }
      let top := ((List.range 16).filter (fun i => slices.getLsbD i)).max?.getD 0
      let sl := if popCount slices = 13 then slices &&& ~~~ BitVec.twoPow 16 top else slices
      let v : BitVec 2 := if popCount sl = 16 then 0 else if popCount sl = 15 then 1 else if popCount sl = 14 then 2 else 3
      s.setDi die { d with st := .joining 2 f, cores := cores, slices := sl, variant := v, placed := sl, l2 := [], comb := [],
                              wbuf := [], ws := [], wsOwner := none, wsBad := [], stall := false }
  | _ => s

/-- REJOIN_NOTICE (R453, R458 step 4): the home clears its mark. -/
def State.rejoin (s : State) (home die : Nat) : State :=
  let n := s.no home
  let ok : Bool := decide (32 ≤ die) || s.joins die 2
  if ok && homes.contains home then s.setNo home { n with marks := n.marks.filter (· != die) } else s

/-- Another package's homes have cleared their marks for a die that joins (R458 step 4). -/
def State.pkgCleared (s : State) (pkg die : Nat) : State := { s with rejoins := tput s.rejoins die ((tget s.rejoins die).filter (· != pkg)) }

/-- Whether a home of the domain still keeps its mark for a die that joins (R458). -/
def State.markKept (s : State) (die : Nat) : Bool :=
  homes.any (fun h => !(s.no h).fenced && (s.no h).marks.contains die) || (tget s.rejoins die).any (fun p => s.domain.contains p)

/-- JOIN_COMPLETE (R458 step 4): once every home has cleared its mark, the fence is cleared and the die is in service. -/
def State.joinComplete (s : State) (die : Nat) : State :=
  let d := s.di die
  match (if s.joins die 2 then d.st else .absent) with
  | .joining 2 _ =>
    if s.markKept die then s
    else
      let s := (s.setNo die { s.no die with fenced := false }).setDi die { d with st := .inService }
      let s := (s.healthRec die 4 (s.no die).icause 0xFF 0 0xFF).bumpCap
      { s with todo := s.todo ++ [Todo.placement] }
  | _ => s

/-! ## A slice that fails (R378) -/

/-- SLICE_FAILURE (R378): the slice is isolated, its modified SC and dirty RC lines are LOST, the others dropped; misses stall until a new
variant, and under 12 slices the die is fenced. -/
def State.sliceFail (s : State) (die slice : Nat) : State :=
  let d := s.di die
  if !d.slices.getLsbD slice ∨ 16 ≤ slice then s
  else
    let mine := d.l2.filter (fun x => sliceOf d.placed d.variant x.line == slice)
    let s := mine.foldl (fun s x =>
      let s := s.purge die x.line
      if x.st = .m ∨ (x.st = .d ∧ x.cls = .rc) then s.setDr x.line { s.dr x.line with lost := true } else s) s
    let s := (s.setDi die { s.di die with slices := d.slices &&& ~~~ BitVec.twoPow 16 slice, stall := true }).lasting die 0x01 slice 0 0xFF
    if popCount (s.di die).slices < 12 then { s with todo := s.todo ++ [Todo.nodeFence die] } else s

/-! ## Modules and flits (R419, R420) -/

/-- UCIE_MODULE_REMOVE (R419, R447): one lasting error of the node; a compute die with fewer than 3 modules is fenced, and any other node with none
is, by its watchdog (R426). -/
def State.moduleGone (s : State) (node m : Nat) : State :=
  let n := s.no node
  if !n.modules.getLsbD m ∨ 14 ≤ m ∨ ioNode < node then s
  else
    let left := n.modules &&& ~~~ BitVec.twoPow 14 m
    let s := (s.setNo node { n with modules := left }).lasting node 0x05 m 0 0xFF
    if node < 22 ∧ popCount left < 3 then { s with todo := s.todo ++ [Todo.nodeFence node] }
    else if left = 0 then { s.setNo node { s.no node with icause := 0x0A } with todo := s.todo ++ [Todo.nodeFence node] }
    else s

/-- The router of a node (R417). -/
def routerOf (node : Nat) : Nat × Nat :=
  if node < 10 then (1 + node % 5, node / 5)
  else if node = 10 then (2, 2) else if node = 11 then (4, 2)
  else if node < 22 then (1 + (node - 12) % 5, 3 + (node - 12) / 5)
  else if node < 26 then (0, [0, 1, 3, 4].getD (node - 22) 0)
  else if node < 30 then (6, [0, 1, 3, 4].getD (node - 26) 0)
  else if node = 30 then (0, 2) else if node = 31 then (6, 2) else (3, 2)

/-- The header flit (R420). -/
def flitWord (h : FlitHdr) : BitVec 256 := h.dst ++ (h.src ++ (h.vc ++ (h.len ++ (h.op ++ (h.tag ++ (h.ctx ++ (h.gen ++ (h.pkg ++ (h.addr ++ h.mask)))))))))

/-- The fields of a header flit, and whether its CRC holds (R420). -/
def flitHdr (w : BitVec 256) (crcOk : Bool) : FlitHdr :=
  { dst := w.extractLsb' 250 6, src := w.extractLsb' 244 6, vc := w.extractLsb' 242 2, len := w.extractLsb' 238 4, op := w.extractLsb' 230 8,
    tag := w.extractLsb' 214 16, ctx := w.extractLsb' 208 6, gen := w.extractLsb' 192 16, pkg := w.extractLsb' 184 8, addr := w.extractLsb' 128 56,
    mask := w.extractLsb' 0 128, crcOk := crcOk }

/-- The 16-bit CRC of a flit, polynomial 0x8BB7, bit 255 first from 0 (R420; log 106). -/
def flitCrc (w : BitVec 256) : BitVec 16 :=
  (List.range 256).foldl (fun c i => if c.getLsbD 15 != w.getLsbD (255 - i) then (c <<< 1) ^^^ 0x8BB7#16 else c <<< 1) 0

/-- Whether a flit has arrived whole: its CRC holds. -/
def flitWhole (h : FlitHdr) : Bool := h.crcOk && (match h.crc with | some c => flitCrc (flitWord h) == c | none => true)

/-- The router a packet goes to next: along x to its destination's column, then along y (R418). -/
def nextHop (x y : Nat) (dst : Nat × Nat) : Nat × Nat :=
  if x < dst.1 then (x + 1, y) else if dst.1 < x then (x - 1, y) else if y < dst.2 then (x, y + 1) else (x, y - 1)

/-- The router a packet came from on its path, none where its node is attached (R418). -/
def lastHop (x y : Nat) (src : Nat × Nat) : Option (Nat × Nat) :=
  if (x, y) = src then none else if y ≠ src.2 then some (x, if src.2 < y then y - 1 else y + 1) else some (if src.1 < x then x - 1 else x + 1, y)

/-- The number of the link between two routers, in one direction. -/
def linkNo (a b : Nat × Nat) : Nat := ((a.1 * 5 + a.2) * 7 + b.1) * 5 + b.2

/-- A router sends a flit to another, which keeps it among its last 64 of that link (R420). -/
def State.hopTo (s : State) (a b : Nat × Nat) (h : FlitHdr) : State :=
  let kept := tget s.links (linkNo a b)
  { s with links := tput s.links (linkNo a b) ((if 64 ≤ kept.length then kept.drop 1 else kept) ++ [h]), mesh := s.mesh ++ [(b.1, b.2, h)] }

/-- FLIT_RECEIVE (R418, R420): a flit whose CRC fails is asked for again, and the previous hop sends it from what it keeps; a header with a reserved
LEN or DST is discarded by the first router and counted as a lasting error of its source; any other is at its destination's router, which hands
it to the node, or goes to the next one on its path. -/
def State.flit (s : State) (x y : Nat) (h : FlitHdr) : State :=
  let src := routerOf h.src.toNat
  let dst := routerOf h.dst.toNat
  if ioNode < h.src.toNat then s
  else if !flitWhole h then
    match lastHop x y src with
    | some p => match (tget s.links (linkNo p (x, y))).reverse.find? (fun k => k.src == h.src && k.tag == h.tag) with
      | some k => { s with mesh := s.mesh ++ [(x, y, k)] }
      | none => s
    | none => { s with mesh := s.mesh ++ [(x, y, { h with crcOk := true, crc := none })] }
  else
    let s : State := { s with mesh := s.mesh.erase (x, y, h) }
    if 4 < h.len.toNat ∨ 32 < h.dst.toNat then (if src = (x, y) then s.lasting h.src.toNat 0x06 0xFF 0 h.src.toNat else s)
    else if (x, y) = dst then s
    else s.hopTo (x, y) (nextHop x y dst) h

/-! ## The steps -/

/-- NODE_FENCE (R422). -/
def execNodeFence (node : Nat) (s : State) : Host.Outcome State Fault Refusal := .next (s.nodeFence node)
/-- WATCHDOG_FENCE (R426). -/
def execWatchdogFence (node : Nat) (s : State) : Host.Outcome State Fault Refusal := .next (s.watchdog node)
/-- FENCE_NOTICE (R453). -/
def execFenceNotice (die : Nat) (s : State) : Host.Outcome State Fault Refusal := .next (s.fenceNotice die)
/-- HOME_FENCE_MARK (R454). -/
def execHomeFenceMark (home die : Nat) (s : State) : Host.Outcome State Fault Refusal := .next (s.homeMark home die)
/-- FENCE_CAPACITY_UPDATE (R453). -/
def execFenceCapacityUpdate (die : Nat) (s : State) : Host.Outcome State Fault Refusal := .next (s.fenceCapacity die)
/-- FENCE_LAUNCH_HANDLING (R76). -/
def execFenceLaunchHandling (die : Nat) (s : State) : Host.Outcome State Fault Refusal := .next (s.fenceLaunches die)
/-- SPARE_JOIN_START (R458). -/
def execSpareJoinStart (die : Nat) (s : State) : Host.Outcome State Fault Refusal := .next (s.joinStart die)
/-- DIE_SELF_TEST (R458). -/
def execDieSelfTest (die : Nat) (badCores slices : BitVec 16) (s : State) : Host.Outcome State Fault Refusal := .next (s.selfTest die badCores slices)
/-- REJOIN_NOTICE (R458). -/
def execRejoinNotice (home die : Nat) (s : State) : Host.Outcome State Fault Refusal := .next (s.rejoin home die)
/-- JOIN_COMPLETE (R458). -/
def execJoinComplete (die : Nat) (s : State) : Host.Outcome State Fault Refusal := .next (s.joinComplete die)
/-- ERROR_DETECTED (R447). -/
def execErrorDetected (e : ErrInfo) (corrected : Bool) (s : State) : Host.Outcome State Fault Refusal := .next (s.errorDetected e corrected)
/-- ERROR_RETRY (R447). -/
def execErrorRetry (e : ErrInfo) (again : Bool) (s : State) : Host.Outcome State Fault Refusal := .next (s.errorRetry e again)
/-- HEALTH_CLEAR (R450). -/
def execHealthClear (node : Nat) (s : State) : Host.Outcome State Fault Refusal := .next (s.clearHealth node)
/-- REGISTER_WRITE (R450). -/
def execRegisterWrite (node : Nat) (thresh : BitVec 8) (s : State) : Host.Outcome State Fault Refusal := .next (s.setThresh node thresh)
/-- SLICE_FAILURE (R378). -/
def execSliceFailure (die slice : Nat) (s : State) : Host.Outcome State Fault Refusal := .next (s.sliceFail die slice)
/-- UCIE_MODULE_REMOVE (R419). -/
def execUcieModuleRemove (node module : Nat) (s : State) : Host.Outcome State Fault Refusal := .next (s.moduleGone node module)
/-- FLIT_RECEIVE (R420). -/
def execFlitReceive (x y : Nat) (h : FlitHdr) (s : State) : Host.Outcome State Fault Refusal := .next (s.flit x y h)

end Sys2Proof.Machine
end

