-- ==== Sys2Proof/Machine/Links.lean ====
section
/-! DEFINITION. The package time base and its discipline (R423, R424, R443), fabric ports and their lanes (R427, R428, R432), and the
releases that wait at the I/O die (R430). -/

namespace Sys2Proof.Machine

/-! ## Time (R423, R424, R443) -/

/-- Whether this package disciplines to PTP: it has no domain, or is the lowest of its packages that hold PTP lock (R424; log 46). -/
def State.timeSource (s : State) : Bool :=
  decide (s.domain.length ≤ 1) || (s.ptpLock && s.locked.all (fun p => decide (Config.pkg ≤ p) || !s.domain.contains p))

/-- Correct the time base toward a value: 1 ms or more forward is one step, anything else is slewed (R424). -/
def State.discipline (s : State) (value : Nat) : State :=
  if s.ptb + 1000000 ≤ value then ({ s with ptb := value, slew := 0, timeLock := true, lastTime := value } : State).ttPass
  else { s with slew := (value : Int) - s.ptb, timeLock := true, lastTime := s.ptb }

/-- PTB_CODE (R423): every node takes the code; the time source's ports carry a beacon in every 1 µs (R424). -/
def State.timeCode (s : State) : State :=
  let s : State := { s with codeTime := s.ptb, nodes := s.nodes.map (fun (p : Nat × Node) => if p.2.powered ∧ !p.2.fenced then (p.1, { p.2 with lag := 0 }) else p) }
  if s.timeSource && decide (2 ≤ s.domain.length) && decide (s.beaconTime / 1000 < s.ptb / 1000) then
    { s with beaconTime := s.ptb, out := s.out ++ ((List.range 16).filter (fun i => (tget s.ports i).up)).map (fun i =>
        { chan := 128 + i, typ := 9, session := 0, seq := 0, status := 0, payload := leBytes 8 s.ptb }) }
  else s

/-- TIME_BEACON (R424). -/
def State.beacon (s : State) (value : Nat) : State := if s.timeSource then s else s.discipline value

/-- The offset of the time base from a master's time, in nanoseconds. -/
def offsetOf (ptb value : Nat) : Nat := max ptb value - min ptb value

/-- PTP_MESSAGE (R443, R424): one whose exchange gives the master's time, in the domain number firmware has set (`usable`; log 105), moves the lock,
which is held while the offset has stayed within 100 ns for 1 s, and disciplines the time base of a package without a domain or of the source. -/
def State.ptp (s : State) (value : Nat) (usable : Bool) : State :=
  if !usable then s
  else
    let since := if offsetOf s.ptb value ≤ 100 then some (s.ptpSince.getD s.ptb) else none
    let s : State := { s with ptpSince := since, ptpLock := since.any (fun t => decide (t + 1000000000 ≤ s.ptb)), lastTime := s.ptb }
    if s.timeSource then s.discipline value else s

/-- TIME_LOCK_LOSS (R424): 10 s without beacon or PTP. -/
def State.lockLoss (s : State) : State := if s.lastTime + 10000000000 ≤ s.ptb then { s with timeLock := false } else s

/-! ## Ports (R427, R428, R432) -/

/-- What a change of the ports makes of the packages behind them: one that no working port leads to any more loses its requests, and each
change of reach changes the live sets (R300, R432, R500). -/
def State.routesChanged (s : State) (was : State) : State :=
  (s.domain.filter (· != Config.pkg)).foldl (fun s p =>
    if was.reachable p && !s.reachable p then s.dropPkg p else if !was.reachable p && s.reachable p then s.admitPkg p else s) s

/-- The packages of the domain change, and those listed are admitted again: the capacity record counts each that leaves or joins (R306, R398,
R500), and a fence does not wait for the homes of one that has left (R453). -/
def State.setDomain (s : State) (ps : List Nat) : State :=
  let left := s.domain.filter (fun p => !ps.contains p)
  let back := ps.filter (fun p => !s.domain.contains p || s.lostPkgs.contains p)
  let s1 : State := { s with domain := ps.dedup }
  let s2 := back.foldl (fun s p => s.admitPkg p) (left.foldl (fun s p => s.dropPkg p) s1)
  let s3 := (left ++ ps.dedup.filter (fun p => !s.domain.contains p)).foldl (fun s _ => s.bumpCap) s2
  s3.fencing.foldl (fun s p => s.fenceMarked p.1) s3

/-- Working lanes of a port. -/
def Port.working (p : Port) : Nat := popCount p.lanes

/-- LANE_RETRAIN (R428, R447): the lane is removed, which is a lasting error of the I/O die; with fewer than 3 lanes the port is down and
summary word 5 changes (R398). -/
def State.laneGone (s : State) (port lane : Nat) : State :=
  let p := tget s.ports port
  if 16 ≤ port ∨ 8 ≤ lane ∨ !p.lanes.getLsbD lane then s
  else
    let p' : Port := { p with lanes := p.lanes &&& ~~~ BitVec.twoPow 8 lane }
    let down : Bool := p.up && decide (p'.working < 3)
    let s1 : State := { s with ports := tput s.ports port { p' with up := p.up && !down } }
    let s1 := s1.lasting ioNode 0x07 (8 * port + lane) 0 0xFF
    if down then (s1.routesChanged s).bumpCap else s1

/-- AFL_PORT_UP (R398, R428, R432). -/
def State.portUp (s : State) (port : Nat) : State :=
  let p := tget s.ports port
  if 16 ≤ port ∨ p.up then s
  else
    let s1 : State := { s with ports := tput s.ports port { p with up := true, lanes := 255 } }
    (s1.routesChanged s).bumpCap

/-- The lane of the sync plane: lane 0, or the lowest that works (R427, R428). -/
def Port.syncLane (p : Port) : Option Nat := (List.range 8).find? (fun i => p.lanes.getLsbD i)

/-- The lanes of the bulk plane: the other working ones (R427, R428). -/
def Port.bulkLanes (p : Port) : List Nat := (List.range 8).filter (fun i => p.lanes.getLsbD i && p.syncLane != some i)

/-- Times of a port's resends of its sync plane in the last 1 ms. -/
def Port.recent (p : Port) (now : Nat) : List Nat := p.resends.filter (fun t => decide (now < t + 1000000))

/-- AFL_FRAME (R428, R447): a frame whose CRC fails is asked for again; the next frame of its plane is taken, any other number is a frame already
taken, or one behind a gap, and is dropped. A resend that succeeds makes the error transient, and a sync plane's lane that needs more than 1,000
resends in 1 ms is removed; of the bulk plane's lanes LANE_RETRAIN tells which (log 105). -/
def State.frame (s : State) (port seq : Nat) (bulk crcOk : Bool) : State :=
  let p := tget s.ports port
  let want := if bulk then p.seqB else p.seqS
  if 16 ≤ port ∨ !p.up then s
  else if !crcOk then
    let now := s.ptbAt ioNode
    let p' : Port := if bulk then { p with redoB := p.redoB <|> some now } else { p with redoS := p.redoS <|> some now, resends := p.recent now ++ [now] }
    let s : State := { s with
      ports := tput s.ports port p', out := s.out ++ [{ chan := 128 + port, typ := 4, session := if bulk then 1 else 0, seq := want, status := 0, payload := [] }] }
    match p'.syncLane with
    | some i => if 1000 < p'.resends.length ∧ !bulk then s.laneGone port i else s
    | none => s
  else if seq ≠ want then s
  else
    let s' : State := { s with ports := tput s.ports port (if bulk then { p with seqB := want + 1, redoB := none } else { p with seqS := want + 1, redoS := none }) }
    match (if bulk then p.redoB else p.redoS) with
    | some t => s'.transientOf t ioNode 0x07 (8 * port + (if bulk then 0xFF else p.syncLane.getD 0xFF)) 0 0xFF
    | none => s'

/-- SYNC_RELEASE_FORWARD (R430): the oldest release toward a package is sent; every earlier bulk write of its die has been acknowledged,
since a write toward another package is performed whole (log 51). -/
def State.releaseOut (s : State) (pkg : Nat) : State :=
  match s.held.find? (fun h => h.pkg == pkg) with
  | none => s
  | some h => { s with held := s.held.erase h, out := s.out ++ [s.peerOut pkg 8 h.die 0 []] }

/-! ## Lines on the bulk plane (R431) -/

/-- The 4-byte words of a line. -/
def lineWord (d : BitVec 1024) (i : Nat) : BitVec 32 := d.extractLsb' (32 * i) 32

/-- BF16 element `e` of group `g` of a line: 8 groups of 8. -/
def bulkElem (d : BitVec 1024) (g e : Nat) : BitVec 16 := d.extractLsb' (128 * g + 16 * e) 16

/-- Exponent field of a BF16 element, and its sign and fraction in one byte. -/
def bfExp (x : BitVec 16) : BitVec 8 := x.extractLsb' 7 8
def bfRest (x : BitVec 16) : BitVec 8 := x.extractLsb' 15 1 ++ x.extractLsb' 0 7

/-- A BF16 element of an exponent field and of its sign and fraction. -/
def bfJoin (e r : BitVec 8) : BitVec 16 := r.extractLsb' 7 1 ++ (e ++ r.extractLsb' 0 7)

/-- Whether the 8 exponent fields of a group are equal. -/
def sameExp (d : BitVec 1024) (g : Nat) : Bool := (List.range 8).all (fun e => bfExp (bulkElem d g e) == bfExp (bulkElem d g 0))

/-- The raw form: the 128 bytes (encoding byte 0; log 93). -/
def bulkRaw (d : BitVec 1024) : List Byte := 0 :: (List.range 128).map (fun i => d.extractLsb' (8 * i) 8)

/-- The zero-words form: a map of the nonzero words, then those words (encoding byte 1; log 93). -/
def bulkWords (d : BitVec 1024) : List Byte :=
  let ws := (List.range 32).filter (fun i => lineWord d i != 0)
  1 :: leBytes 4 (ws.foldl (fun m i => m + 2 ^ i) 0) ++ ws.flatMap (fun i => leBytes 4 (lineWord d i).toNat)

/-- One group of the shared-exponent form. -/
def bulkGroup (d : BitVec 1024) (g : Nat) : List Byte :=
  if sameExp d g then bfExp (bulkElem d g 0) :: (List.range 8).map (fun e => bfRest (bulkElem d g e))
  else (List.range 16).map (fun i => d.extractLsb' (128 * g + 8 * i) 8)

/-- The shared-exponent form: a flag bit for each group, then the groups (encoding byte 2; log 93). -/
def bulkShared (d : BitVec 1024) : List Byte :=
  2 :: BitVec.ofNat 8 (((List.range 8).filter (sameExp d)).foldl (fun m g => m + 2 ^ g) 0) :: (List.range 8).flatMap (bulkGroup d)

/-- What the sender sends of a line: the shortest of the three forms, the first of them where lengths are equal (R431; log 93). -/
def bulkEncode (d : BitVec 1024) : List Byte :=
  let short (a b : List Byte) : List Byte := if b.length < a.length then b else a
  short (short (bulkRaw d) (bulkWords d)) (bulkShared d)

/-- Words of the zero-words form put back in their places: the map, the place reached, the bytes left. -/
def bulkPlace (map : Nat) : Nat → Nat → List Byte → Option (BitVec 1024)
  | 0, _, bs => if bs.isEmpty then some 0 else none
  | n + 1, i, bs =>
    if map.testBit i then
      if bs.length < 4 then none
      else (bulkPlace map n (i + 1) (bs.drop 4)).map (fun d => d ||| (BitVec.ofNat 1024 (leNat (bs.take 4)) <<< (32 * i)))
    else bulkPlace map n (i + 1) bs

/-- Groups of the shared-exponent form put back: the flags, the group reached, the bytes left. -/
def bulkGroups (flags : BitVec 8) : Nat → Nat → List Byte → Option (BitVec 1024)
  | 0, _, bs => if bs.isEmpty then some 0 else none
  | n + 1, g, bs =>
    let size := if flags.getLsbD g then 9 else 16
    if bs.length < size then none
    else
      let x := if flags.getLsbD g then leNat (((bs.drop 1).take 8).flatMap (fun r => leBytes 2 (bfJoin (bs.headD 0) r).toNat)) else leNat (bs.take 16)
      (bulkGroups flags n (g + 1) (bs.drop size)).map (fun d => d ||| (BitVec.ofNat 1024 x <<< (128 * g)))

/-- What the receiving I/O die decodes before the line enters the interposer (R431): `none` for bytes no sender sends. -/
def bulkDecode : List Byte → Option (BitVec 1024)
  | [] => none
  | k :: bs =>
    if k = 0 then (if bs.length = 128 then some (BitVec.ofNat 1024 (leNat bs)) else none)
    else if k = 1 then (if bs.length < 4 then none else bulkPlace (leNat (bs.take 4)) 32 0 (bs.drop 4))
    else if k = 2 then (match bs with | f :: gs => bulkGroups f 8 0 gs | [] => none)
    else none

/-! ## The steps -/

/-- PTB_CODE (R423). -/
def execPtbCode (s : State) : Host.Outcome State Fault Refusal := .next s.timeCode
/-- TIME_BEACON (R424). -/
def execTimeBeacon (value : Nat) (s : State) : Host.Outcome State Fault Refusal := .next (s.beacon value)
/-- PTP_MESSAGE (R443). -/
def execPtpMessage (value : Nat) (locked : Bool) (s : State) : Host.Outcome State Fault Refusal := .next (s.ptp value locked)
/-- TIME_LOCK_LOSS (R424). -/
def execTimeLockLoss (s : State) : Host.Outcome State Fault Refusal := .next s.lockLoss
/-- AFL_FRAME (R428). -/
def execAflFrame (port seq : Nat) (bulk crcOk : Bool) (s : State) : Host.Outcome State Fault Refusal := .next (s.frame port seq bulk crcOk)
/-- LANE_RETRAIN (R428). -/
def execLaneRetrain (port lane : Nat) (s : State) : Host.Outcome State Fault Refusal := .next (s.laneGone port lane)
/-- AFL_PORT_UP (R398). -/
def execAflPortUp (port : Nat) (s : State) : Host.Outcome State Fault Refusal := .next (s.portUp port)
/-- SYNC_RELEASE_FORWARD (R430). -/
def execSyncReleaseForward (pkg : Nat) (s : State) : Host.Outcome State Fault Refusal := .next (s.releaseOut pkg)

end Sys2Proof.Machine
end

