-- ==== Sys2Proof/Machine/HostPort.lean ====
section
/-! DEFINITION. The host port (R438–R442): Ethernet frames, DHP messages and their performance (R360, R402, R440), events (R326, R441),
and redirection (R460–R462). -/

namespace Sys2Proof.Machine

/-! ## Redirection (R460–R462) -/

/-- The 24 bytes of progress (R462). -/
def Redir.bytes (r : Redir) : List Byte := leBytes 1 r.step ++ leBytes 7 0 ++ leBytes 8 r.sent ++ leBytes 8 r.total

/-- Other packages of the domain. -/
def State.peers (s : State) : List Nat := s.domain.filter (· != Config.pkg)

/-- A REDIRECT (R460, R462): the first, or one to another neighbour after a failure, starts at step 1, where admission stops for every context; the same
neighbour again reports progress, byte 0 being 7 after a failure, and another gets RESOURCES. The answer is STATUS and payload. -/
def State.redirect (s : State) (target : Nat) : Nat × List Byte × State :=
  let r := s.redir
  if r.step = 0 ∨ (r.step = 7 ∧ r.target ≠ target) then
    let r' : Redir := { step := 1, target := target, sent := 0, total := Config.streamTotal s.fresh, acks := [] }
    (0, r'.bytes, { s with redir := r', fresh := s.fresh + 1, ctxs := s.ctxs.map (fun (p : Nat × Ctx) => (p.1, { p.2 with admStop := true })), todo := s.todo ++ [Todo.redirGo] })
  else if r.target = target then (0, r.bytes, s)
  else (Cause.resources.code, [], s)

/-- Teams that hold resources. -/
def State.allTeams (s : State) : List Nat := (s.teams.filter (fun p => p.2.live && p.2.pre != .saved)).map (·.1)

/-- Steps 1 and 2 of a redirection: every team is pre-empted; when all are saved every die takes the release actions, every context is
saved, and the stream begins. -/
def State.redirGo (s : State) : State :=
  let r := s.redir
  if r.step = 1 then { s with redir := { r with step := 2 }, todo := s.todo ++ s.allTeams.map Todo.preempt ++ [Todo.redirGo] }
  else if r.step = 2 ∧ s.allTeams.isEmpty then
    let s := s.serviceDies.foldl (fun s d => s.releaseDie d) s
    { s with redir := { r with step := 3 }, ctxs := s.ctxs.map (fun (p : Nat × Ctx) => (p.1, { p.2 with saved := true })) }
  else s

/-- REDIRECT_STREAM (R460 step 3): bytes go to the neighbour; after the last, every peer is asked to drain its routes here. -/
def State.stream (s : State) (n : Nat) : State :=
  let r := s.redir
  if r.step ≠ 3 ∨ !s.reachable r.target then s
  else
    let sent := min r.total (r.sent + n)
    if sent < r.total then { s with redir := { r with sent := sent } }
    else { s with redir := { r with sent := sent, step := if s.peers.isEmpty then 5 else 4 }, out := s.out ++ s.peers.map (fun p => s.peerOut p 5 0 0 []) }

/-- ROUTE_DRAIN (R460 step 4): a peer acknowledges; the last one leads to step 5. -/
def State.drained (s : State) (peer : Nat) : State :=
  let r := s.redir
  if r.step ≠ 4 ∨ !s.peers.contains peer ∨ r.acks.contains peer then s
  else
    let acks := r.acks ++ [peer]
    { s with redir := { r with acks := acks, step := if s.peers.all (fun p => acks.contains p) then 5 else 4 } }

/-- UNLATCH_PERMITTED (R460 step 5, R465): the pin is asserted and unlatching reported on the management bus. -/
def State.unlatchOk (s : State) : State :=
  if s.redir.step ≠ 5 then s
  else { s with redir := { s.redir with step := 6 }, unlatch := true,
                out := s.out ++ [{ chan := 1, typ := 0x08, session := 0, seq := 0, status := 0, payload := [0x02] }] }

/-- Whether no port toward the neighbour has worked for 1 s (R462). -/
def State.redirCut (s : State) : Bool := match s.redir.lostAt with | some t => decide (t + 1000000000 ≤ s.ptbAt ioNode) | none => false

/-- REDIRECT_FAILURE (R462): in step 3 the neighbour refuses the stream; in step 4 no port toward it has worked for 1 s. -/
def State.redirFail (s : State) : State :=
  if s.redir.step = 3 ∨ (s.redir.step = 4 ∧ s.redirCut) then { s with redir := { s.redir with step := 7 } } else s

/-- In steps 3 and 4 a redirection fails once no port toward the neighbour has worked for 1 s (R462). -/
def State.redirWatch (s : State) : State :=
  if s.redir.step ≠ 3 ∧ s.redir.step ≠ 4 then s
  else
    let s : State := { s with redir := { s.redir with lostAt := if s.reachable s.redir.target then none else some (s.redir.lostAt.getD (s.ptbAt ioNode)) } }
    if s.redirCut then s.redirFail else s

/-- A package that asks for it has its routes here drained (R460 step 4): once every request sent to it has ended it leaves the route table and the
domain, and is told. -/
def State.drainGo (s : State) : State :=
  s.draining.foldl (fun s p =>
    if s.reqs.any (fun q => q.pkg == p && q.fail == 0 && q.sends != 0) then s
    else
      let o := s.peerOut p 10 0 0 []
      let s : State := { s with draining := s.draining.filter (· != p), out := s.out ++ [o] }
      let s := s.setDomain (s.domain.filter (· != p))
      { s with routes := tdel s.routes p }) s

/-! ## Host accesses to memory (R360, R440) -/

/-- The agent number a host access's page fault carries. -/
def hostAgent (session : Nat) : Nat := 2 ^ 21 + 256 + session

/-- Pieces of a range that lie in one line each. -/
def linePieces (va : Nat) : Nat → Nat → List (Nat × Nat)
  | _, 0 => []
  | 0, _ => []
  | fuel + 1, n =>
    let k := min n (128 - va % 128)
    (va, k) :: linePieces (va + k) fuel (n - k)

/-- How a host access ends: its status and data, or waiting for firmware to serve a page fault. -/
inductive HostRes
  | done (status : Nat) (payload : List Byte)
  | wait (malformed : Bool) (va : Nat)
deriving DecidableEq, Repr

/-- A page fault any piece of a range would take, found before a byte is performed (R440). -/
def State.hostFault (s : State) (ctx : Nat) (kind : AKind) : List (Nat × Nat) → Option (Bool × Nat)
  | [] => none
  | (va, _) :: rest =>
    match (s.translate s.admDie ctx va kind).1 with
    | .fault m => some (m, va)
    | .ok .. => s.hostFault ctx kind rest
    | _ => none

/-- Read the pieces at their homes (R360). -/
def State.hostReads (s : State) (ctx : Nat) (acc : List Byte) : List (Nat × Nat) → HostRes × State
  | [] => (.done 0 acc, s)
  | (va, n) :: rest =>
    match s.translate s.admDie ctx va .read with
    | (.ok _ _ true _ _ _ _, s) => s.hostReads ctx (acc ++ List.replicate n 0) rest
    | (.ok pa cls false _ _ _ _, s) =>
      match s.homeAbort (pa / 128) cls with
      | some e => (.done e.cause.code [], s)
      | none =>
        let s := if cls = .sc then s.recallLine (pa / 128) else s
        s.hostReads ctx (acc ++ memBytes s.mem pa n) rest
    | (.fault m, s) => (.wait m va, s)
    | (.addr, s) => (.done Cause.addr.code [], s)
    | (.perm, s) => (.done Cause.perm.code [], s)
    | (.abort e, s) => (.done e.cause.code [], s)

/-- Write the pieces at their homes, in order; the first that fails stops the rest (R360, R440). -/
def State.hostWrites (s : State) (ctx : Nat) (bs : List Byte) : List (Nat × Nat) → HostRes × State
  | [] => (.done 0 [], s)
  | (va, n) :: rest =>
    match s.translate s.admDie ctx va .write with
    | (.ok _ _ true _ _ _ _, s) => (.done Cause.discardWrite.code [], s)
    | (.ok pa cls false _ _ _ _, s) =>
      match s.homeAbort (pa / 128) cls with
      | some e => (.done e.cause.code [], s)
      | none =>
        let s := if cls = .sc then s.recallLine (pa / 128) else s
        let s := s.homePut pa (bs.take n)
        s.hostWrites ctx (bs.drop n) rest
    | (.fault m, s) => (.wait m va, s)
    | (.addr, s) => (.done Cause.addr.code [], s)
    | (.perm, s) => (.done Cause.perm.code [], s)
    | (.abort e, s) => (.done e.cause.code [], s)

/-- DHP_READ (R440). -/
def State.doRead (s : State) (ctx : Nat) (m : Dhp) : HostRes × State :=
  if m.len = 0 ∨ 8192 < m.len then (.done Cause.illegal.code [], s)
  else if decide (2 ≤ s.redir.step) && s.redir.on then (.done Cause.resources.code [], s)
  else if 2 ^ 56 < m.arg + m.len then (.done Cause.addr.code [], s)
  else
    let ps := linePieces m.arg (m.len + 1) m.len
    match s.hostFault ctx .read ps with
    | some (b, va) => (.wait b va, s)
    | none => s.hostReads ctx [] ps

/-- DHP_WRITE (R440). -/
def State.doWrite (s : State) (ctx : Nat) (m : Dhp) : HostRes × State :=
  let n := m.payload.length
  if n = 0 ∨ 8192 < n then (.done Cause.illegal.code [], s)
  else if decide (2 ≤ s.redir.step) && s.redir.on then (.done Cause.resources.code [], s)
  else if 2 ^ 56 < m.arg + n then (.done Cause.addr.code [], s)
  else
    let ps := linePieces m.arg (n + 1) n
    match s.hostFault ctx .write ps with
    | some (b, va) => (.wait b va, s)
    | none => s.hostWrites ctx m.payload ps

/-! ## LAUNCH, TTSET, CAPQ (R400–R402, R440) -/

/-- DHP_LAUNCH (R400, R440): a request that meets a full queue is refused RESOURCES with its launch.id. -/
def State.doLaunch (s : State) (ctx : Nat) (m : Dhp) : HostRes × State :=
  let args := BitVec.ofNat 64 (fld m.payload 0 8)
  let prio := fld m.payload 8 1
  if m.payload.length ≠ 9 ∨ 3 < prio then (.done Cause.illegal.code [], s)
  else if s.redir.on then (.done Cause.resources.code [], s)
  else if s.admFull prio then
    let r : LReq := { lid := s.nextLid, handle := BitVec.ofNat 64 m.arg, args := args, ctx := ctx, prio := prio, device := false, entry := none }
    let s : State := { s with nextLid := (s.nextLid + 1) % 2 ^ 32 }
    (.done Cause.resources.code (leBytes 4 r.lid), s.refuse r (s.reqDone r) .resources 0)
  else
    let (lid, s) := s.enqueue (BitVec.ofNat 64 m.arg) args ctx prio false none false
    (.done 0 (leBytes 4 lid), s)

/-- Whether the 36 bytes of a TTSET keep to R401 and R402. -/
def State.ttOk (s : State) (bs : List Byte) : Bool :=
  let period := fld bs 8 8
  let ctl := fld bs 33 1
  (period == 0 || (decide (10000 ≤ period) && decide (period ≤ 2 ^ 48))) && fld bs 16 8 % 256 == 0 && fld bs 24 8 % 16 == 0 && decide (fld bs 32 1 < 64) &&
    ctl / 16 % 8 == 0 && ctl / 4 % 4 != 3 && zeroAt bs 34 2 && (ctl < 128 || (s.cx (fld bs 32 1)).live)

/-- The first slot of an entry written at a time (R403). -/
def firstSlot (start period now : Nat) : Nat :=
  if period = 0 then max start now
  else if now ≤ start then start
  else start + (now - start + period - 1) / period * period

/-- DHP_TTSET (R402). -/
def State.doTtset (s : State) (m : Dhp) : HostRes × State :=
  let bs := m.payload
  if bs.length ≠ 36 ∨ 255 < m.arg then (.done Cause.illegal.code [], s)
  else if s.redir.on then (.done Cause.resources.code [], s)
  else if !s.ttOk bs then (.done Cause.illegal.code [], s)
  else
    let t := tget s.timetable m.arg
    let en : Bool := decide (128 ≤ fld bs 33 1)
    let t' : TTab := { t with start := fld bs 0 8, period := fld bs 8 8, handle := BitVec.ofNat 64 (fld bs 16 8), args := BitVec.ofNat 64 (fld bs 24 8),
                              ctx := fld bs 32 1, prio := fld bs 33 1 % 4, policy := fld bs 33 1 / 4 % 4, enable := en, skipped := 0, late := 0, lastSlot := 0,
                              next := if en then some (firstSlot (fld bs 0 8) (fld bs 8 8) (s.ptbAt ioNode)) else none }
    (.done 0 [], { s with timetable := tput s.timetable m.arg t' })

/-- The 64 bytes of a timetable entry (R401). -/
def TTab.bytes (t : TTab) : List Byte :=
  leBytes 8 t.start ++ leBytes 8 t.period ++ leBytes 8 t.handle.toNat ++ leBytes 8 t.args.toNat ++ leBytes 1 t.ctx ++
    leBytes 1 (t.prio + 4 * t.policy + if t.enable then 128 else 0) ++ leBytes 2 0 ++ leBytes 4 t.skipped.toNat ++ leBytes 8 t.lastSlot ++
    leBytes 4 t.late.toNat ++ leBytes 4 0 ++ leBytes 8 ((if t.running.isSome then 1 else 0) + if t.held then 2 else 0)

/-- DHP_TTSET_READ (R440). -/
def State.doTtread (s : State) (m : Dhp) : HostRes × State :=
  if m.payload.length ≠ 0 ∨ 255 < m.arg then (.done Cause.illegal.code [], s) else (.done 0 (tget s.timetable m.arg).bytes, s)

/-- The 32 bytes of a capacity record (R50). -/
def State.capBytes (s : State) (sel : Nat) : List Byte := (s.capWords sel).flatMap (fun w => leBytes 4 w)

/-- DHP_CAPQ (R440). -/
def State.doCapq (s : State) (m : Dhp) : HostRes × State :=
  if m.arg = 0xFF ∨ m.arg ≤ 21 then (.done 0 (s.capBytes m.arg), s) else (.done Cause.illegal.code [], s)

/-- Perform a message of a type (R440); READFORM adds 256 to a type. A type the table does not list is answered ILLEGAL (log 47). -/
def State.dhpPerform (s : State) (typ : Nat) (m : Dhp) : HostRes × State :=
  let ctx := (tget s.sessions m.session).ctx
  match typ with
  | 1 => s.doRead ctx m
  | 2 => s.doWrite ctx m
  | 3 => s.doLaunch ctx m
  | 4 => s.doTtset m
  | 260 => s.doTtread m
  | 5 => s.doCapq m
  | 7 =>
    let (st, bs, s) := s.redirect m.arg
    (.done st bs, s)
  | _ => (.done Cause.illegal.code [], s)

/-! ## Sessions (R439, R441) -/

/-- Change a session. -/
def State.setSe (s : State) (k : Nat) (x : Session) : State := { s with sessions := tput s.sessions k x }

/-- How far a host SEQ lies ahead of the next one to perform, modulo 2^32. -/
def seqAhead (seq want : Nat) : Nat := (seq + 2 ^ 32 - want) % 2 ^ 32

/-- The first SEQ from `q` on that has not arrived. -/
def Session.gap (se : Session) (q : Nat) : Nat → Nat
  | 0 => q
  | fuel + 1 => if se.ahead.any (fun p => p.2.seq == q) then se.gap ((q + 1) % 2 ^ 32) fuel else q

/-- The first SEQ that has not arrived: the messages before it have come in order. -/
def Session.first (se : Session) : Nat := se.gap se.want se.ahead.length

/-- The ACKSEQ of a message sent now (R439): the highest in-order SEQ received. -/
def Session.ackSeq (se : Session) : Nat := (se.first + 2 ^ 32 - 1) % 2 ^ 32

/-- How many messages are held ahead of the gap (R441). -/
def Session.beyond (se : Session) : Nat := (se.ahead.filter (fun p => decide (seqAhead se.first se.want < seqAhead p.2.seq se.want))).length

/-- Events up to an acknowledged SEQ are sent no more (R441). -/
def State.acked (s : State) (session ack : Nat) : State :=
  let se := tget s.sessions session
  if se.bound then s.setSe session { se with unacked := se.unacked.filter (fun p => decide (2 ^ 31 ≤ seqAhead ack p.2.seq)) } else s

/-- Whether some session is bound to a pair (R439). -/
def State.knows (s : State) (peer : Nat) : Bool := s.sessions.any (fun p => p.2.bound && p.2.peer == peer)

/-- A datagram taken apart (R439): the type, with 256 for READFORM, 512 for ACKONLY and 1,024 for a response, and the message. -/
def dhpParse (bs : List Byte) (peer : Nat) : Nat × Dhp :=
  let flags := fld bs 6 2
  (fld bs 3 1 + (if flags.testBit 2 then 256 else 0) + (if flags.testBit 1 then 512 else 0) + (if flags.testBit 0 then 1024 else 0),
   { peer := peer, magic := fld bs 0 2, version := fld bs 2 1, session := fld bs 4 2, seq := fld bs 8 4, ack := fld bs 12 4, arg := fld bs 16 8,
     len := fld bs 24 4, ctx := fld bs 28 1, rsv := flags / 8 + fld bs 30 2, payload := bs.drop 32 })

/-- The datagram of a message the device sends in a session of a context (R439, R440): events and acknowledgements carry no STATUS of their own. -/
def Out.datagram (o : Out) (ctx arg : Nat) : List Byte :=
  let resp := o.typ != 6 && o.typ != 512
  leBytes 2 0xD4A7 ++ leBytes 1 1 ++ leBytes 1 (o.typ % 256) ++ leBytes 2 o.session ++
    leBytes 2 ((if resp then 1 else 0) + (if o.typ = 512 then 2 else 0) + (if o.typ = 260 then 4 else 0)) ++ leBytes 4 o.seq ++ leBytes 4 o.ack ++
    leBytes 8 arg ++ leBytes 4 o.payload.length ++ leBytes 1 ctx ++ leBytes 1 o.status ++ leBytes 2 0 ++ o.payload

/-- A message whose header and length keep to R439. -/
def State.dhpOk (s : State) (typ : Nat) (m : Dhp) : Bool :=
  let se := tget s.sessions m.session
  decide (m.session < 256) && se.bound && se.peer == m.peer && m.ctx == se.ctx && m.magic == 0xD4A7 && m.version == 1 && m.rsv == 0 &&
    decide (m.payload.length ≤ 8192) && m.payload.length == (if typ = 1 then 0 else m.len)

/-- A message arrives (R439, R441): from an unbound pair it is discarded, with a wrong header or length also counted; else its ACKSEQ counts,
one already performed gets its kept response again, and the others are held, at most 64 of them ahead of a gap. -/
def State.dhpEnqueue (s : State) (typ : Nat) (m : Dhp) : State :=
  if !s.knows m.peer then s
  else if !s.dhpOk typ m then { s with badDhp := s.badDhp + 1 }
  else
    let s := s.acked m.session m.ack
    let se := tget s.sessions m.session
    if 2 ^ 31 ≤ seqAhead m.seq se.want then
      match se.kept.find? (fun p => p.1 == m.seq) with
      | some p => { s.setSe m.session { se with acks := false } with out := s.out ++ [{ p.2 with ack := se.ackSeq }] }
      | none => s
    else if se.ahead.any (fun p => p.2.seq == m.seq) ∨ (m.seq ≠ se.first ∧ 64 ≤ se.beyond) then s
    else s.setSe m.session { se with ahead := se.ahead ++ [(typ, m)], acks := true }

/-- Whether a page fault of a session's access is still to be served. -/
def State.hostPending (s : State) (session : Nat) : Bool := s.dies.any (fun p => p.2.ring.any (fun r => r.2.engine && r.2.agent == hostAgent session))

/-- Perform the next messages of a session in SEQ order; one that faults waits (R440, R441). -/
def State.dhpGo (s : State) (session : Nat) : Nat → State
  | 0 => s
  | fuel + 1 =>
    let se := tget s.sessions session
    match se.ahead.find? (fun p => p.2.seq == se.want) with
    | none => s
    | some (typ, m) =>
      if s.hostPending session then s
      else match s.dhpPerform typ m with
      | (.wait b va, s) =>
        s.ringPut s.admDie { cause := Cause.pageFault.code, addr := BitVec.ofNat 64 va, detail64 := BitVec.ofNat 64 va, replay := true,
                             detail32 := BitVec.ofNat 32 ((if typ = 2 then 1 else 0) + if b then 4 else 0), agent := hostAgent session,
                             ctx := se.ctx, ptb := s.ptbAt ioNode }
      | (.done st bs, s) =>
        let se := tget s.sessions session
        let se := { se with want := (se.want + 1) % 2 ^ 32, ahead := se.ahead.filter (fun p => p.2.seq != m.seq), acks := false }
        let o : Out := { chan := 0, typ := typ, session := session, seq := se.next, status := st, payload := bs, ack := se.ackSeq }
        let se' : Session := { se with kept := (if 64 ≤ se.kept.length then se.kept.drop 1 else se.kept) ++ [(m.seq, o)], next := (se.next + 1) % 2 ^ 32 }
        ({ s.setSe session se' with out := s.out ++ [o] } : State).dhpGo session fuel

/-- A message without a payload that only acknowledges (R439, R441). -/
def State.ackOnly (s : State) (m : Dhp) : State :=
  if !s.knows m.peer then s else if !s.dhpOk 512 m then { s with badDhp := s.badDhp + 1 } else s.acked m.session m.ack

/-- A message arrives and its session goes on; a response has none to answer here. -/
def State.dhpTake (s : State) (typ : Nat) (m : Dhp) : State :=
  if 1024 ≤ typ then s
  else if 512 ≤ typ then s.ackOnly m
  else
    let s := s.dhpEnqueue typ m
    s.dhpGo m.session ((tget s.sessions m.session).ahead.length + 1)

/-- The UDP payload of a frame reaches its session; one shorter than a header is discarded and counted with the other bad ones (R439). -/
def State.datagram (s : State) (typ : Nat) (m : Dhp) : State :=
  if m.raw.isEmpty then s.dhpTake typ m
  else if m.raw.length < 32 then (if s.knows m.peer then { s with badDhp := s.badDhp + 1 } else s)
  else
    let p := dhpParse m.raw m.peer
    s.dhpTake p.1 p.2

/-- Whether nothing of the package but its identity ROM has power: main power is off, or the I/O die's rail is (R463, R471, R472). -/
def State.dark (s : State) : Bool := s.power == .off || !(s.no ioNode).powered

/-- Whether the package is in service: images accepted (R471), its I/O die powered (R472), not failed for good. -/
def State.serving (s : State) : Bool := (match s.power with | .run | .capped _ => true | _ => false) && (s.no ioNode).powered && !s.fatal

/-- ETH_FRAME (R438, R439): a frame of more than 9,216 bytes is not accepted and a bad check sequence is counted; DHP goes to its session, ARP and
neighbour discovery for the port's own address are answered; PTP comes as PTP_MESSAGE; nothing else is carried. -/
def State.ethFrame (s : State) (fcsOk : Bool) (kind : EthKind) (typ : Nat) (m : Dhp) : State :=
  let answer (t : Nat) : State := { s with out := s.out ++ [{ chan := 0, typ := t, session := 0, seq := 0, status := 0, payload := [] }] }
  if !s.serving ∨ 9216 < m.frame then s
  else if !fcsOk then { s with badFrames := s.badFrames + 1 }
  else match kind with
  | .dhp => s.datagram typ m
  | .arp => if s.ipv4 = some m.arg then answer 0x806 else s
  | .nd => if s.ipv6 = some m.arg then answer 0x86DD else s
  | .ptp | .other => s

/-! ## Events and acknowledgements (R326, R441) -/

/-- DHP_ACK_TIMER (R441): a side with nothing else to send acknowledges. -/
def State.ackTimer (s : State) (session : Nat) : State :=
  let se := tget s.sessions session
  if se.bound && se.acks then
    { s.setSe session { se with acks := false } with
      out := s.out ++ [{ chan := 0, typ := 512, session := session, seq := se.next, status := 0, payload := [], ack := se.ackSeq }] }
  else s

/-- The session an event of a context goes to: the lowest bound to it (log 48). -/
def State.eventSession (s : State) (ctx : Nat) : Option Nat := (s.sessions.find? (fun p => p.2.bound && p.2.ctx == ctx)).map (·.1)

/-- The payload of an EVENT (R440). -/
def Event.bytes (e : Event) : List Byte := leBytes 1 e.code ++ leBytes 1 e.die ++ leBytes 2 0 ++ leBytes 4 e.lid ++ leBytes 8 e.ptb

/-- EVENT_SEND (R326, R405): the oldest event of a context's queue. -/
def State.eventSend (s : State) (ctx : Nat) : State :=
  let c := s.cx ctx
  match c.evq, s.eventSession ctx with
  | e :: q, some k =>
    let se := tget s.sessions k
    let o : Out := { chan := 0, typ := 6, session := k, seq := se.next, status := 0, payload := e.bytes, ack := se.ackSeq }
    let s := (s.setCx ctx { c with evq := q }).setSe k { se with next := (se.next + 1) % 2 ^ 32, acks := false, unacked := se.unacked ++ [(s.ptbAt ioNode, o)] }
    { s with out := s.out ++ [o] }
  | _, _ => s

/-- EVENT_RESEND (R441): an event not acknowledged within 1 ms is sent again. -/
def State.eventResend (s : State) (session seq : Nat) : State :=
  let se := tget s.sessions session
  let now := s.ptbAt ioNode
  match se.unacked.find? (fun p => p.2.seq == seq && decide (p.1 + 1000000 ≤ now)) with
  | none => s
  | some x =>
    { s.setSe session { se with acks := false, unacked := se.unacked.map (fun p => if p.2.seq = seq then (now, p.2) else p) } with
      out := s.out ++ [{ x.2 with ack := se.ackSeq }] }

/-! ## The steps -/

/-- ETH_FRAME (R438). -/
def execEthFrame (fcsOk : Bool) (kind : EthKind) (typ : Nat) (m : Dhp) (s : State) : Host.Outcome State Fault Refusal := .next (s.ethFrame fcsOk kind typ m)
/-- DHP_READ (R440): performed when it is the next of its session. -/
def execDhpRead (m : Dhp) (s : State) : Host.Outcome State Fault Refusal := .next (s.dhpTake 1 m)
/-- DHP_WRITE (R440). -/
def execDhpWrite (m : Dhp) (s : State) : Host.Outcome State Fault Refusal := .next (s.dhpTake 2 m)
/-- DHP_LAUNCH (R440). -/
def execDhpLaunch (m : Dhp) (s : State) : Host.Outcome State Fault Refusal := .next (s.dhpTake 3 m)
/-- DHP_TTSET (R402). -/
def execDhpTtset (m : Dhp) (s : State) : Host.Outcome State Fault Refusal := .next (s.dhpTake 4 m)
/-- DHP_TTSET_READ (R440). -/
def execDhpTtsetRead (m : Dhp) (s : State) : Host.Outcome State Fault Refusal := .next (s.dhpTake 260 m)
/-- DHP_CAPQ (R440). -/
def execDhpCapq (m : Dhp) (s : State) : Host.Outcome State Fault Refusal := .next (s.dhpTake 5 m)
/-- DHP_REDIRECT (R460). -/
def execDhpRedirect (m : Dhp) (s : State) : Host.Outcome State Fault Refusal := .next (s.dhpTake 7 m)
/-- DHP_ACKONLY (R441). -/
def execDhpAckonly (session ack : Nat) (s : State) : Host.Outcome State Fault Refusal :=
  let se := tget s.sessions session
  .next (if se.bound then s.ackOnly { session := session, seq := 0, arg := 0, len := 0, payload := [], peer := se.peer, ack := ack, ctx := se.ctx } else s)
/-- DHP_ACK_TIMER (R441). -/
def execDhpAckTimer (session : Nat) (s : State) : Host.Outcome State Fault Refusal := .next (s.ackTimer session)
/-- EVENT_SEND (R326). -/
def execEventSend (ctx : Nat) (s : State) : Host.Outcome State Fault Refusal := .next (s.eventSend ctx)
/-- EVENT_RESEND (R441). -/
def execEventResend (session seq : Nat) (s : State) : Host.Outcome State Fault Refusal := .next (s.eventResend session seq)
/-- REDIRECT_STREAM (R460). -/
def execRedirectStream (bytes : Nat) (s : State) : Host.Outcome State Fault Refusal := .next (s.stream bytes)
/-- ROUTE_DRAIN (R460). -/
def execRouteDrain (peer : Nat) (s : State) : Host.Outcome State Fault Refusal := .next (s.drained peer)
/-- UNLATCH_PERMITTED (R465). -/
def execUnlatchPermitted (s : State) : Host.Outcome State Fault Refusal := .next s.unlatchOk
/-- REDIRECT_FAILURE (R462). -/
def execRedirectFailure (s : State) : Host.Outcome State Fault Refusal := .next s.redirFail

end Sys2Proof.Machine
end

