-- ==== Sys2Proof/Machine/Mgmt.lean ====
section
/-! DEFINITION. The management bus, identity ROM, boot, attestation, power and temperature (R463–R472). -/

namespace Sys2Proof.Machine

/-! ## Identity ROM (R466) -/

/-- Bytes 0–251 of the identity ROM; what manufacture sets is free (log 10), SERIAL being ASCII characters. -/
def romByteAt (i : Nat) : Byte :=
  let word (x k : Nat) : Byte := BitVec.ofNat 8 (x / 256 ^ k)
  if i < 4 then word 0x44493934 i
  else if i < 8 then word 0x0000C940 (i - 4)
  else if i < 12 then word 940 (i - 8)
  else if 32 ≤ i ∧ i < 40 then word (2 * Config.farBytes) (i - 32)
  else if i = 46 ∨ i = 47 ∨ 144 ≤ i then 0
  else if 16 ≤ i ∧ i < 32 then Config.romByte i &&& 0x7F
  else Config.romByte i

/-- The 256 bytes; CHECK is the seal of the others (R289, R466). -/
def romBytes : List Byte :=
  let bs := (List.range 252).map romByteAt
  bs ++ leBytes 4 (crcSeal 0 bs).toNat

/-- What the package says on the management bus. -/
def mgmtOut (cmd status : Nat) (bs : List Byte) : Out := { chan := 1, typ := cmd, session := 0, seq := 0, status := status, payload := bs }

/-- Answer a management command (R464). -/
def State.answer (s : State) (cmd status : Nat) (bs : List Byte) : State := { s with out := s.out ++ [mgmtOut cmd status bs] }

/-- Whether the endpoint is there: it has main power (R463, R471, R472). -/
def State.powered (s : State) : Bool := !s.dark

/-- IDENTITY_ROM_READ (R466): the ROM answers with main power on or off; a read past byte 255 wraps. -/
def State.romRead (s : State) (offset len : Nat) : State :=
  { s with out := s.out ++ [{ chan := 1, typ := 0x50, session := 0, seq := 0, status := 0, payload := (List.range len).map (fun i => (romBytes[(offset + i) % 256]?).getD 0) }] }

/-! ## Commands (R464) -/

/-- GET_CAP (R464). -/
def State.getCap (s : State) (sel : Nat) : State :=
  if sel = 0xFF ∨ sel ≤ 21 then s.answer 0x02 0 (s.capBytes sel) else s.answer 0x02 Cause.illegal.code []

/-- Health records still in the I/O die's log from a SEQ on, at most 16 (R449, R464). -/
def State.healthFrom (s : State) (seq : Nat) : List Byte :=
  let n := min 16 (seqAhead s.healthSeq seq)
  if 4096 < seqAhead s.healthSeq seq then []
  else (List.range n).flatMap (fun i => memBytes (s.no ioNode).priv (0x40000 + 32 * ((seq + i) % 4096)) 32)

/-- GET_HEALTH (R464). -/
def State.getHealth (s : State) (node seq : Nat) : State :=
  if ioNode < node then s.answer 0x03 Cause.illegal.code []
  else s.answer 0x03 0 (leBytes 8 (s.healthReg node).toNat ++ s.healthFrom seq)

/-- Codes of the power states, in the order of R471 (log 49). -/
def powerCode : Power → Nat | .off => 0 | .boot => 1 | .run => 2 | .capped _ => 3

/-- The measured module power in W: free, at or below the cap while one is in force (R464, R471; log 10). -/
def State.modulePower (s : State) : Nat :=
  let x := (Config.sensor 33 s.fresh).toNat
  match s.power with | .capped w => min x w | _ => x

/-- GET_THERMAL (R464): the last sample of each node, free where none was taken, and the module power (log 10). -/
def State.getThermal (s : State) : State :=
  let t (n : Nat) : Nat := match (s.no n).temp with | some x => x | none => (Config.sensor n s.fresh).toNat
  let s' : State := { s with fresh := s.fresh + 1 }
  s'.answer 0x04 0 ((List.range 33).flatMap (fun n => leBytes 2 (t n)) ++ leBytes 2 (powerCode s.power) ++ leBytes 2 s.modulePower)

/-- SET_POWER (R471): CAPPED from RUN or for a new cap, RUN from CAPPED; refused RESOURCES during a redirection (log 49). -/
def State.setPower (s : State) (st cap : Nat) : State :=
  let ok (p : Power) : State := { s with power := p }.answer 0x05 0 []
  if decide (1 ≤ s.redir.step) && decide (s.redir.step ≤ 5) then s.answer 0x05 Cause.resources.code []
  else match s.power, st with
  | .run, 3 | .capped _, 3 => if 1500 ≤ cap ∧ cap ≤ 3100 then ok (.capped cap) else s.answer 0x05 Cause.illegal.code []
  | .run, 2 | .capped _, 2 => ok .run
  | _, _ => s.answer 0x05 Cause.illegal.code []

/-- REDIRECT over the bus (R460, R464). -/
def State.mgmtRedirect (s : State) (target : Nat) : State :=
  let (st, bs, s) := s.redirect target
  s.answer 0x06 st bs

/-- The accepted images (R469): the I/O die's, by its slot, then those of the die controllers whose image was accepted, ascending. -/
def State.images (s : State) : List Nat :=
  (if s.ioImage then [ioNode + s.bootSlot] else []) ++ (List.range 22).filter (fun d => (s.di d).checked && !(s.di d).noCtl)

/-- Their hashes (R469). -/
def State.imageHashes (s : State) : List Byte := s.images.flatMap (fun n => (List.range 48).map (Config.imageHash n))

/-- GET_ATTEST (R469): the report with both signatures, whose values the keys decide (log 10). -/
def State.getAttest (s : State) (nonce : List Byte) : State :=
  if nonce.length ≠ 32 then s.answer 0x07 Cause.illegal.code []
  else
    let report := nonce ++ (List.range 16).map (fun i => romByteAt (16 + i)) ++ s.imageHashes ++ leBytes 8 s.rollback ++ leBytes 4 s.capGen ++ leBytes 8 (s.ptbAt ioNode)
    s.answer 0x07 0 (report ++ (List.range (384 + 16224)).map (Config.signature report))

/-- GET_STATUS (R464): time lock, UNLATCH_OK, package fatal, boot slot; a boot that failed in both slots is reported by a status of
RESOURCES (R468; log 50). -/
def State.getStatus (s : State) : State :=
  s.answer 0x08 (if s.bootFail then Cause.resources.code else 0)
    (leBytes 1 ((if s.timeLock then 1 else 0) + (if s.unlatch then 2 else 0) + (if s.fatal then 4 else 0) + (if s.bootSlot = 1 then 8 else 0)))

/-- Perform the command at the head of the endpoint's queue (R464). -/
def State.mgmtGo (s : State) : State :=
  match s.mgmtq with
  | [] => s
  | (cmd, p) :: qs =>
    let s : State := { s with mgmtq := qs }
    match cmd with
    | 0x01 => s.answer 0x01 0 romBytes
    | 0x02 => s.getCap (fld p 0 1)
    | 0x03 => s.getHealth (fld p 0 1) (fld p 1 4)
    | 0x04 => s.getThermal
    | 0x05 => s.setPower (fld p 0 1) (fld p 1 2)
    | 0x06 => s.mgmtRedirect (fld p 0 1)
    | 0x07 => s.getAttest p
    | _ => s.getStatus

/-- MCTP_MESSAGE (R463, R464): messages of up to 1,024 bytes are assembled; another enterprise number or an undefined command is answered ILLEGAL; a
ninth waiting command RESOURCES. -/
def State.mctp (s : State) (vendor : BitVec 32) (cmd : Nat) (p : List Byte) : State :=
  if !s.powered || s.mgmtAddr.isNone || decide (1024 < 7 + p.length) then s
  else if vendor ≠ 0x0000C940 ∨ cmd = 0 ∨ 8 < cmd then { s with out := s.out ++ [mgmtOut cmd Cause.illegal.code []] }
  else if 9 ≤ s.mgmtq.length then { s with out := s.out ++ [mgmtOut cmd Cause.resources.code []] }
  else { s with mgmtq := s.mgmtq ++ [(cmd, p)], todo := s.todo ++ [Todo.mgmtGo] }

/-- I3C_ENTDAA (R463): the endpoint is given its dynamic address. -/
def State.entdaa (s : State) (addr : BitVec 7) : State := if s.powered then { s with mgmtAddr := some addr } else s

/-! ## Power and boot (R467–R471) -/

/-- The rails of the nodes (R470): those of a package with its spares off, or none. -/
def railsOf (up : Bool) : Tab Node := State.reset.nodes.map (fun p => (p.1, { p.2 with powered := p.2.powered && up }))

/-- MAIN_POWER_OFF (R470, R471): only the identity ROM answers, and every rail is down, the interposer's with the nodes'; fuses and what was
queued from outside remain. -/
def State.powerOff (s : State) : State :=
  { State.reset with power := .off, railIx := false, nodes := railsOf false, rollback := s.rollback, inbox := s.inbox, out := s.out, fresh := s.fresh }

/-- MAIN_POWER_ON (R470, R471). -/
def State.powerOn (s : State) : State := if s.power = .off then { s with power := .boot, railIx := true, nodes := railsOf true } else s

/-- Whether an image is accepted (R467, R468): its rollback number is one of 0–63 and reaches the highest bit of the mask; `hashOk` says that the
hashes of both header keys are those of the fuses, the others that the signatures verify (log 50). -/
def imageOk (mask rollback : Nat) (hashOk rsaOk slhOk : Bool) : Bool :=
  hashOk && rsaOk && slhOk && decide (rollback < 64) && (mask == 0 || decide (Nat.log2 mask ≤ rollback))

/-- BOOT ends in RUN once the I/O die's image is accepted and that of every die in service has been checked (R468, R471). -/
def State.bootEnd (s : State) : State :=
  if s.power = .boot ∧ s.ioImage ∧ (List.range 22).all (fun d => !(s.di d).inService || (s.di d).checked) then { s with power := .run } else s

/-- BOOT_IMAGE_CHECK (R468): slot 0 is image A and 1 image B of the I/O die, tried in this order; 2 + d is the controller image of die d, which the
accepted I/O die firmware checks before it releases the controller: its rejection fails a join, and at power-on leaves the controller unreleased. -/
def State.bootCheck (s : State) (slot rollback : Nat) (hashOk rsaOk slhOk : Bool) : State :=
  let ok := imageOk s.rollback rollback hashOk rsaOk slhOk
  if 2 ≤ slot then
    let d := s.di (slot - 2)
    let taken := s.setDi (slot - 2) { d with noCtl := !ok, checked := true }
    if !s.ioImage then s
    else match d.st with
    | .joining _ _ => if ok then taken else s.joinFail (slot - 2)
    | .inService => taken.bootEnd
    | _ => s
  else if s.power ≠ .boot ∨ s.bootFail ∨ s.ioImage ∨ slot ≠ s.bootSlot then s
  else if ok then ({ s with ioImage := true } : State).bootEnd
  else if slot = 0 then { s with bootSlot := 1 }
  else { s with bootFail := true }

/-! ## Temperature (R472) -/

/-- Every node rail is removed, the interposer's staying up (R470, R472). -/
def State.allOff (s : State) : State :=
  let s := (List.range 22).foldl (fun s d => s.dieGone d) s
  { s with thermtrip := true, todo := [], nodes := s.nodes.map (fun (p : Nat × Node) => (p.1, { p.2 with powered := false })),
           agents := s.agents.map (fun (p : Nat × Agent) => (p.1, { p.2 with wait := .halted })) }

/-- THERMAL_SAMPLE (R472): `temp` in 0.125 °C; the highest threshold crossed decides. -/
def State.thermal (s : State) (node temp : Nat) : State :=
  let n := s.no node
  if ioNode < node then s
  else
    let n : Node := { n with temp := some temp, stretch := (decide (760 ≤ temp) && decide (temp < 840)) || (n.stretch && decide (736 ≤ temp)) }
    let s := s.setNo node n
    if 880 ≤ temp then s.allOff
    else if 840 ≤ temp ∧ n.powered then { s.setNo node { n with icause := 0x0B } with todo := s.todo ++ [Todo.nodeFence node] }
    else s

/-! ## The steps -/

/-- A command reaches the endpoint (R463, R464): performed by `f` at once, or after those that wait. -/
def State.onBus (s : State) (cmd : Nat) (p : List Byte) (f : State → State) : State :=
  if !s.powered || s.mgmtAddr.isNone then s else if s.mgmtq.isEmpty then f s else s.mctp 0x0000C940 cmd p

/-- A number as a payload's byte; one that no byte holds is as undefined as 254, which no selector or node has. -/
def byteOf (n : Nat) : List Byte := leBytes 1 (if n < 256 then n else 254)

/-- I3C_ENTDAA (R463). -/
def execI3cEntdaa (addr : BitVec 7) (s : State) : Host.Outcome State Fault Refusal := .next (s.entdaa addr)
/-- IDENTITY_ROM_READ (R466). -/
def execIdentityRomRead (offset len : Nat) (s : State) : Host.Outcome State Fault Refusal := .next (s.romRead offset len)
/-- GET_ID (R464). -/
def execGetId (s : State) : Host.Outcome State Fault Refusal := .next (s.onBus 0x01 [] (fun s => s.answer 0x01 0 romBytes))
/-- GET_CAP (R464). -/
def execGetCap (sel : Nat) (s : State) : Host.Outcome State Fault Refusal := .next (s.onBus 0x02 (byteOf sel) (·.getCap sel))
/-- GET_HEALTH (R464). -/
def execGetHealth (node seq : Nat) (s : State) : Host.Outcome State Fault Refusal := .next (s.onBus 0x03 (byteOf node ++ leBytes 4 seq) (·.getHealth node seq))
/-- GET_THERMAL (R464). -/
def execGetThermal (s : State) : Host.Outcome State Fault Refusal := .next (s.onBus 0x04 [] (·.getThermal))
/-- SET_POWER (R471). -/
def execSetPower (state cap : Nat) (s : State) : Host.Outcome State Fault Refusal := .next (s.onBus 0x05 (byteOf state ++ leBytes 2 cap) (·.setPower state cap))
/-- MGMT_REDIRECT (R464). -/
def execMgmtRedirect (neighbour : Nat) (s : State) : Host.Outcome State Fault Refusal := .next (s.onBus 0x06 (byteOf neighbour) (·.mgmtRedirect neighbour))
/-- GET_ATTEST (R469). -/
def execGetAttest (nonce : List Byte) (s : State) : Host.Outcome State Fault Refusal := .next (s.onBus 0x07 nonce (·.getAttest nonce))
/-- GET_STATUS (R464). -/
def execGetStatus (s : State) : Host.Outcome State Fault Refusal := .next (s.onBus 0x08 [] (·.getStatus))
/-- MAIN_POWER_ON (R471). -/
def execMainPowerOn (s : State) : Host.Outcome State Fault Refusal := .next s.powerOn
/-- BOOT_IMAGE_CHECK (R468). -/
def execBootImageCheck (slot : Nat) (rollback : Nat) (hashOk rsaOk slhOk : Bool) (s : State) : Host.Outcome State Fault Refusal :=
  .next (s.bootCheck slot rollback hashOk rsaOk slhOk)
/-- MAIN_POWER_OFF (R471). -/
def execMainPowerOff (s : State) : Host.Outcome State Fault Refusal := .next s.powerOff
/-- THERMAL_SAMPLE (R472). -/
def execThermalSample (node temp : Nat) (s : State) : Host.Outcome State Fault Refusal := .next (s.thermal node temp)
/-- MCTP_MESSAGE (R464). -/
def execMctpMessage (vendor : BitVec 32) (cmd : Nat) (payload : List Byte) (s : State) : Host.Outcome State Fault Refusal := .next (s.mctp vendor cmd payload)

end Sys2Proof.Machine
end

