-- ==== Sys2Proof/Machine/Scalar.lean ====
section
/-! DEFINITION. Scalar and predicate instructions (R161–R170) and their reads of special registers (R44, R45). -/

namespace Sys2Proof.Machine

/-- A scalar `sD, sA, b` form: `f` at width n of the two values (R163). -/
def sBinary (i : Instr) (s : State) (o : SBin) (sgnImm : Bool) (f : Nat → Nat → Nat → Nat) : Host.Outcome State Fault Refusal :=
  issueRegs i s (fun a _ =>
    (wS o.w64 o.d (BitVec.ofNat 64 (f (wbits o.w64) (a.sw o.w64 o.a.toNat).toNat (a.ssrc o.w64 sgnImm o.b).toNat)), 0))

/-- A scalar `sD, sA` form. -/
def sUnary (i : Instr) (s : State) (o : SUn) (f : Nat → Nat → Nat) : Host.Outcome State Fault Refusal :=
  issueRegs i s (fun a _ => (wS o.w64 o.d (BitVec.ofNat 64 (f (wbits o.w64) (a.sw o.w64 o.a.toNat).toNat)), 0))

/-- The write of one value to a scalar register, or to a vector register in every active lane (R161). -/
def wSV (w64 : Bool) (d : SVDst) (act : LaneMask) (x : Nat → W64) : List RegW :=
  match d with
  | .s r => wS w64 r (x 0)
  | .v r => wV w64 r ((lanesOf act).map (fun l => (l, x l)))

/-- MOVI (R161). -/
def execMovi (c : Ctl) (w64 : Bool) (d : SVDst) (b : SSrc) (s : State) : Host.Outcome State Fault Refusal :=
  issueRegs (.movi c w64 d b) s (fun a act =>
    (match d with
     | .s r => wS w64 r (a.ssrc w64 true b)
     | .v r => wV w64 r ((lanesOf act).map (fun l => (l, a.ssrcAt w64 true l b))), 0))

/-- SADD (R163). -/
def execSadd (c : Ctl) (o : SBin) (s : State) : Host.Outcome State Fault Refusal := sBinary (.sadd c o) s o true iAdd
/-- SSUB (R163). -/
def execSsub (c : Ctl) (o : SBin) (s : State) : Host.Outcome State Fault Refusal := sBinary (.ssub c o) s o true iSub
/-- SMUL (R163). -/
def execSmul (c : Ctl) (o : SBin) (s : State) : Host.Outcome State Fault Refusal := sBinary (.smul c o) s o true iMul
/-- SMULH (R163). -/
def execSmulh (c : Ctl) (sgn : Bool) (o : SBin) (s : State) : Host.Outcome State Fault Refusal :=
  sBinary (.smulh c sgn o) s o false (iMulH sgn)
/-- SAND (R163). -/
def execSand (c : Ctl) (o : SBin) (s : State) : Host.Outcome State Fault Refusal := sBinary (.sand c o) s o false iAnd
/-- SOR (R163). -/
def execSor (c : Ctl) (o : SBin) (s : State) : Host.Outcome State Fault Refusal := sBinary (.sor c o) s o false iOr
/-- SXOR (R163). -/
def execSxor (c : Ctl) (o : SBin) (s : State) : Host.Outcome State Fault Refusal := sBinary (.sxor c o) s o false iXor
/-- SSHL (R163). -/
def execSshl (c : Ctl) (o : SBin) (s : State) : Host.Outcome State Fault Refusal := sBinary (.sshl c o) s o false iShl
/-- SSHR (R163). -/
def execSshr (c : Ctl) (o : SBin) (s : State) : Host.Outcome State Fault Refusal := sBinary (.sshr c o) s o false iShr
/-- SSRA (R163). -/
def execSsra (c : Ctl) (o : SBin) (s : State) : Host.Outcome State Fault Refusal := sBinary (.ssra c o) s o false iSra
/-- SMIN (R163). -/
def execSmin (c : Ctl) (sgn : Bool) (o : SBin) (s : State) : Host.Outcome State Fault Refusal := sBinary (.smin c sgn o) s o true (iMin sgn)
/-- SMAX (R163). -/
def execSmax (c : Ctl) (sgn : Bool) (o : SBin) (s : State) : Host.Outcome State Fault Refusal := sBinary (.smax c sgn o) s o true (iMax sgn)
/-- SCLZ (R163). -/
def execSclz (c : Ctl) (o : SUn) (s : State) : Host.Outcome State Fault Refusal := sUnary (.sclz c o) s o iClz
/-- SPOPC (R163). -/
def execSpopc (c : Ctl) (o : SUn) (s : State) : Host.Outcome State Fault Refusal := sUnary (.spopc c o) s o iPopc

/-- SDIVU (R164): the quotient, on the pipe's one divider, which the group waits for when it is busy. -/
def execSdivu (c : Ctl) (o : SBin) (s : State) : Host.Outcome State Fault Refusal :=
  issue (.sdivu c o) s (fun s v _ =>
    let co := s.co v.ck
    let free := max s.cycle (tget co.divFree v.pipe)
    let s := s.advance (free - s.cycle)
    let s := s.setCo v.ck { co with divFree := tput co.divFree v.pipe (free + if o.w64 then 36 else 20) }
    .ok { s := s, ws := wS o.w64 o.d (BitVec.ofNat 64 (iDivU (wbits o.w64) (v.sw o.w64 o.a.toNat).toNat (v.ssrc o.w64 false o.b).toNat)) })

/-- SBFE (R165). -/
def execSbfe (c : Ctl) (o : SBin) (s : State) : Host.Outcome State Fault Refusal :=
  sBinary (.sbfe c o) s o false (fun n a b => iBfe false n a (b % 128) (min (b / 256 % 128) n))

/-- SBFI (R165). -/
def execSbfi (c : Ctl) (o : SBin) (sc : BitVec 6) (s : State) : Host.Outcome State Fault Refusal :=
  issueRegs (.sbfi c o sc) s (fun a _ =>
    let n := wbits o.w64
    let b := (a.ssrc o.w64 false o.b).toNat
    (wS o.w64 o.d (BitVec.ofNat 64 (iBfi n (a.sw o.w64 o.a.toNat).toNat (a.sw o.w64 sc.toNat).toNat (b % 128) (min (b / 256 % 128) n))), 0))

/-- SLEA (R166): a 64-bit base, an index shifted by `sh`, a sign-extended 32-bit addend. -/
def execSlea (c : Ctl) (sh : BitVec 4) (o : SBin) (sc : BitVec 6) (s : State) : Host.Outcome State Fault Refusal :=
  issueRegs (.slea c sh o sc) s (fun a _ =>
    let i : W64 := match o.b with
      | .reg r => if o.w64 then a.s64 r.toNat else (a.s32 r.toNat).signExtend 64
      | .imm x => x.setWidth 64
      | .lit l => litVal o.w64 l
    (wS true o.d (a.s64 o.a.toNat + (i <<< sh.toNat) + (a.s32 sc.toNat).signExtend 64), 0))

/-- SSEL (R167): the mask bit of the lowest active lane chooses. -/
def execSsel (c : Ctl) (o : SBin) (kc : BitVec 3) (s : State) : Host.Outcome State Fault Refusal :=
  issueRegs (.ssel c o kc) s (fun a act =>
    let l := (lanesOf act).headD 0
    (wS o.w64 o.d (if (a.k kc.toNat).getLsbD l then a.sw o.w64 o.a.toNat else a.ssrc o.w64 false o.b), 0))

/-- SCMP (R168): the uniform result goes to every active lane of kD. -/
def execScmp (c : Ctl) (cc : ICC) (w64 : Bool) (kd : BitVec 3) (sa : BitVec 6) (b : SSrc) (s : State) : Host.Outcome State Fault Refusal :=
  issueRegs (.scmp c cc w64 kd sa b) s (fun a act =>
    let h := iccHolds cc (wbits w64) (a.sw w64 sa.toNat).toNat (a.ssrc w64 true b).toNat
    ([.k kd.toNat (if h then act else 0) act], 0))

/-! ## Special registers (R44, R45, R162) -/

/-- A special register as an agent reads it in a lane (R44): a courier context reads zero for codes 0x00–0x03. -/
def State.special (s : State) (a : Agent) (sel : Spec) (lane : Nat) : W64 :=
  let t := s.teamOf a
  let la := s.launchOf a
  let grp := a.kind = .group
  let n (x : Nat) : W64 := BitVec.ofNat 64 x
  match sel with
  | .laneId => if grp then n lane else 0
  | .grpId => if grp then n a.slot else 0
  | .grpWidth => if grp then n a.width else 0
  | .teamId => if grp then n t.teamId else 0
  | .teamGroups => n la.hdr.teamg
  | .bgX => n (t.bg % max 1 la.bgx)
  | .bgY => n (t.bg / max 1 la.bgx % max 1 la.bgy)
  | .bgZ => n (t.bg / (max 1 la.bgx * max 1 la.bgy))
  | .bgCount => n (la.bgx * la.bgy * la.bgz)
  | .launchId => n la.lid
  | .dieId => n a.die
  | .coreId => n a.core
  | .ctxId => n (s.ctxOf a)
  | .ptbLo => n (s.ptbAt a.die % 2 ^ 32)
  | .ptbHi => (a.ptbLatch.getD (BitVec.ofNat 32 (s.ptbAt a.die / 2 ^ 32))).setWidth 64
  | .capGen => n s.capGen
  | .spoorFlag => if (s.cx (s.ctxOf a)).spoor then 1 else 0
  | .spoorAddr => (s.cx (s.ctxOf a)).spoorAddr

/-- A read of ptb.lo latches ptb.hi for the reader's next read of it (R45). -/
def State.latchPtb (s : State) (key : Nat) : State :=
  let a := s.ag key
  s.setAg key { a with ptbLatch := some (BitVec.ofNat 32 (s.ptbAt a.die / 2 ^ 32)) }

/-- What a `movs` of a special register leaves of the latch (R45). -/
def State.afterMovs (s : State) (key : Nat) (sel : Spec) : State :=
  match sel with
  | .ptbLo => s.latchPtb key
  | .ptbHi => s.setAg key { s.ag key with ptbLatch := none }
  | _ => s

/-- MOVS (R162): in a group lane.id needs a vector destination. -/
def execMovs (c : Ctl) (sel : Spec) (d : SVDst) (s : State) : Host.Outcome State Fault Refusal :=
  issue (.movs c sel d) s (fun s v act =>
    if sel = .laneId ∧ v.kind = .group ∧ !SVDst.dcls d then .error { cause := .illegal }
    else .ok { s := s.afterMovs s.cur sel, ws := wSV sel.wide d act (fun l => s.special v sel l) })

/-- PTB_LO_LATCH (R45): the latch of one reader. -/
def execPtbLoLatch (agent : Nat) (s : State) : Host.Outcome State Fault Refusal :=
  .next (if (s.ag agent).live then s.latchPtb agent else s)

/-! ## Predicates (R169, R170) -/

/-- A per-lane predicate form. -/
def kOp (i : Instr) (s : State) (kd : BitVec 3) (f : Agent → LaneMask) : Host.Outcome State Fault Refusal :=
  issueRegs i s (fun a act => ([.k kd.toNat (f a) act], 0))

/-- KAND (R169). -/
def execKand (c : Ctl) (kd ka kb : BitVec 3) (s : State) : Host.Outcome State Fault Refusal :=
  kOp (.kand c kd ka kb) s kd (fun a => a.k ka.toNat &&& a.k kb.toNat)
/-- KOR (R169). -/
def execKor (c : Ctl) (kd ka kb : BitVec 3) (s : State) : Host.Outcome State Fault Refusal :=
  kOp (.kor c kd ka kb) s kd (fun a => a.k ka.toNat ||| a.k kb.toNat)
/-- KXOR (R169). -/
def execKxor (c : Ctl) (kd ka kb : BitVec 3) (s : State) : Host.Outcome State Fault Refusal :=
  kOp (.kxor c kd ka kb) s kd (fun a => a.k ka.toNat ^^^ a.k kb.toNat)
/-- KNOT (R169). -/
def execKnot (c : Ctl) (kd ka : BitVec 3) (s : State) : Host.Outcome State Fault Refusal := kOp (.knot c kd ka) s kd (fun a => ~~~ a.k ka.toNat)
/-- KMOV (R169). -/
def execKmov (c : Ctl) (kd ka : BitVec 3) (s : State) : Host.Outcome State Fault Refusal := kOp (.kmov c kd ka) s kd (fun a => a.k ka.toNat)

/-- A mask reduction over the active lanes whose mask bit is set (R170). -/
def kReduce (i : Instr) (s : State) (d : BitVec 6) (ka : BitVec 3) (f : LaneMask → LaneMask → Nat) : Host.Outcome State Fault Refusal :=
  issueRegs i s (fun a act => ([.s d.toNat (BitVec.ofNat 32 (f act (act &&& a.k ka.toNat)))], 0))

/-- KPOPC (R170). -/
def execKpopc (c : Ctl) (d : BitVec 6) (ka : BitVec 3) (s : State) : Host.Outcome State Fault Refusal :=
  kReduce (.kpopc c d ka) s d ka (fun _ m => (lanesOf m).length)
/-- KFIRST (R170). -/
def execKfirst (c : Ctl) (d : BitVec 6) (ka : BitVec 3) (s : State) : Host.Outcome State Fault Refusal :=
  kReduce (.kfirst c d ka) s d ka (fun _ m => (lanesOf m).headD 0xFFFFFFFF)
/-- KANY (R170). -/
def execKany (c : Ctl) (d : BitVec 6) (ka : BitVec 3) (s : State) : Host.Outcome State Fault Refusal :=
  kReduce (.kany c d ka) s d ka (fun _ m => if m = 0 then 0 else 1)
/-- KALL (R170). -/
def execKall (c : Ctl) (d : BitVec 6) (ka : BitVec 3) (s : State) : Host.Outcome State Fault Refusal :=
  kReduce (.kall c d ka) s d ka (fun act m => if m = act then 1 else 0)

end Sys2Proof.Machine
end

