-- ==== Sys2Proof/Machine/Sched.lean ====
section
/-! DEFINITION. What happens next (R62–R64, R271, log 6): the steps the machine owes itself, the issue opportunities of the pipes, the
rejoining of yielded groups (R179), and the machine's own timed steps between instructions. -/

namespace Sys2Proof.Machine

/-! ## Steps due -/

/-- The error record of a write-back or merge that a home could not perform (R319): SOURCE 8, and the physical address of the line, since no
virtual one is known there (log 87). -/
def State.homeRecord (s : State) (ctx die line : Nat) : State :=
  s.errorRecord ctx { addr := 128 * line, cause := if s.homeFenced line then .timeout else .dataAbort, source := 8, die := die }

/-- Carry out one step that is due. -/
def State.runTodo (s : State) : Todo → State
  | .dcTrapEntry d => s.dcEntry d
  | .contextKill c => s.contextKill c
  | .homeRaise h c => s.homeRaise h c
  | .killFree c => s.killFree c
  | .nodeFence n => s.nodeFence n
  | .fenceNotice n => s.fenceNotice n
  | .homeMark h d => s.homeMark h d
  | .fenceCapacity d => s.fenceCapacity d
  | .fenceLaunches d => s.fenceLaunches d
  | .preempt t => s.preempt t
  | .teamSaved t => s.teamSave t
  | .teamEnd t => s.teamEnd t
  | .admission => s.admission
  | .admRefuse k a => s.admRefuse k a
  | .placement => s.placeRound
  | .slotGrant d c h => s.grantHole (coreKey d c) h
  | .errorRec c d l => s.homeRecord c d l
  | .commandStart k q => s.cmdNext k q
  | .commandComplete k q => s.cmdComplete k q
  | .commandResume k q => s.cmdResume k q
  | .layoutRun d c => s.layoutStep d c
  | .epiStart d c => s.epiStep d c
  | .collRestart c g => s.collRestart c g
  | .eventSend c => s.eventSend c
  | .heldSubmit e => s.heldSubmit e
  | .spareJoin => s.spareJoin
  | .dhpGo k => s.dhpGo k ((tget s.sessions k).ahead.length + 1)
  | .redirGo => s.redirGo
  | .mgmtGo => s.mgmtGo

/-- Carry out what firmware has decided (log 92). -/
def State.runFw (s : State) : FwAct → State
  | .reinit l => s.reinit l
  | .rehash h => s.rehashStart h
  | .domain ps => s.setDomain ps
  | .route p is => if p < 64 then { s with routes := tput s.routes p (is.take 4) }.routesChanged s else s
  | .errBase c a => s.setCx c { s.cx c with errBase := a }
  | .bind k c peer => { s with sessions := tput s.sessions k { bound := true, peer := peer, ctx := c } }
  | .unbind k => { s with sessions := tput s.sessions k {} }
  | .fuses b => { s with rollback := s.rollback ||| b % 2 ^ 64 }
  | .marked p d => s.pkgMarked p d
  | .cleared p d => s.pkgCleared p d
  | .drain p => { s with draining := if s.draining.contains p || p == Config.pkg then s.draining else s.draining ++ [p] }
  | .address a b => { s with ipv4 := a, ipv6 := b }
  | .peerLock p b => { s with locked := if b then (p :: s.locked).dedup else s.locked.filter (· != p) }

/-! ## Ready agents (R62) -/

/-- Whether the place an agent runs at lets it issue: the package serves and the node is not fenced (R422, R471). -/
def State.mayRun (s : State) (a : Agent) : Bool := a.live && s.serving && !(s.no a.die).fenced

/-- What an access of a die leaves, unless it missed in an L2 that holds its misses back: then it has no effect, and is made again later
(R378). -/
def State.orMiss (s u : State) : State := if u.missed then s else u

/-- The cycle from which an agent that waits for nothing has been ready: stall elapsed and operands available (R62). -/
def State.readyFrom (s : State) (a : Agent) : Nat :=
  match (s.fetch a a.pc).1 with
  | .ok i => max a.since (State.beginAt { s with cycle := 0 } a (shape a.width i))
  | .error _ => max a.since a.ready

/-- Cycles the next word keeps its pipe (R124, R158). -/
def State.busyFor (s : State) (a : Agent) : Nat :=
  match (s.fetch a a.pc).1 with
  | .ok i => max 1 ((shape a.width i).occ * a.passes)
  | .error _ => 1

/-- Whether an agent is ready now (R62). -/
def State.isReady (s : State) (a : Agent) : Bool := s.mayRun a && a.wait == .none && decide (s.readyFrom a ≤ s.cycle)

/-- The agents of a pipe of a core; pipe 4 is the courier (R58, R271). -/
def State.onPipe (s : State) (ck pipe : Nat) : List (Nat × Agent) :=
  s.agents.filter (fun p => p.2.live && p.2.kind != Kind.firmware && p.2.ck == ck && p.2.pipe == pipe)

/-- Whether a group issues before another (R62): class, time ready, slot; of a group re-inserted by the barrier unit and one released from a
pigeonhole the former (R64). -/
def State.before (s : State) (a b : Agent) : Bool :=
  if a.prio ≠ b.prio then decide (a.prio < b.prio)
  else if s.readyFrom a ≠ s.readyFrom b then decide (s.readyFrom a < s.readyFrom b)
  else if a.woken && b.filed then true
  else if a.filed && b.woken then false
  else decide (a.slot < b.slot)

/-- The group that issues first (R62); where R62 and R64 go round in a circle among three groups, the one this pass leaves (log 97). -/
def State.firstOf (s : State) : List (Nat × Agent) → Option (Nat × Agent)
  | [] => none
  | p :: ps =>
    match s.firstOf ps with
    | none => some p
    | some q => if s.before q.2 p.2 then some q else some p

/-- The courier context that issues: in rotation from the one after the last (R271). -/
def nextCourier (last : Nat) (ps : List (Nat × Agent)) : Option (Nat × Agent) :=
  let l := ps.insertionSort (fun p q => p.2.slot ≤ q.2.slot)
  (l.find? (fun p => decide (last < p.2.slot))).or l.head?

/-! ## Yielded groups (R179) -/

/-- A yielded group rejoins as a newly ready one. -/
def State.rejoinSet (s : State) (key : Nat) : State :=
  let a := s.ag key
  match a.wait with
  | .yielded _ => s.setAg key { a with wait := .none, since := s.cycle }
  | _ => s

/-- The yielded groups of a pipe at an issue opportunity: each rejoins at it when no other group is ready, and after the eighth that passes. -/
def State.yieldTick (s : State) (ck pipe : Nat) : State :=
  let ps := s.onPipe ck pipe
  let idle := !(ps.any (fun p => s.isReady p.2))
  ps.foldl (fun s p => match p.2.wait with
    | .yielded n =>
      if idle then s.rejoinSet p.1
      else if n ≤ 1 then s.setAg p.1 { p.2 with wait := .none, since := s.cycle + 1 }
      else s.setAg p.1 { p.2 with wait := .yielded (n - 1) }
    | _ => s) s

/-- YIELD_REJOIN (R179): 8 opportunities have passed, or no other group of the pipe is ready. -/
def State.yieldBack (s : State) (key : Nat) : State :=
  let a := s.ag key
  match a.wait with
  | .yielded n => if a.live && (n == 0 || !((s.onPipe a.ck a.pipe).any (fun p => s.isReady p.2))) then s.rejoinSet key else s
  | _ => s

/-! ## Issue opportunities (R62, R271) -/

/-- Whether a pipe is free to begin a new word. -/
def State.pipeFree (s : State) (ck pipe : Nat) : Bool := decide (tget (s.co ck).pipeFree pipe ≤ s.cycle)

/-- ISSUE_OPPORTUNITY (R62, R271): a free pipe chooses among its ready agents; the chosen one's word is the next to issue. Before its first
word an agent of a launch acquires at `.pkg` (R337). -/
def State.issueOpp (s : State) (ck pipe : Nat) : State :=
  if !s.pipeFree ck pipe || s.go then s
  else
    let s := s.yieldTick ck pipe
    let ps := (s.onPipe ck pipe).filter (fun p => s.isReady p.2)
    match (if pipe = 4 then nextCourier (s.co ck).lastCourier ps else s.firstOf ps) with
    | none => s
    | some (k, a) =>
      let s := if a.newborn then (s.setAg k { a with newborn := false }).acquireAt k .pkg else s
      let c := s.co ck
      { s.setCo ck { c with pipeFree := tput c.pipeFree pipe (s.cycle + s.busyFor a), lastCourier := if pipe = 4 then a.slot else c.lastCourier } with
        cur := k, go := true }

/-- Whether a pipe has an opportunity now that has an effect: an agent of it is ready, or one has yielded (R62, R179). -/
def State.canIssue (s : State) (ck pipe : Nat) : Bool :=
  s.pipeFree ck pipe && (s.onPipe ck pipe).any (fun p =>
    s.isReady p.2 || (s.mayRun p.2 && (match p.2.wait with | .yielded _ => true | _ => false)))

/-! ## The machine's own steps (log 6) -/

/-- Core keys with a team's agent on them. -/
def State.liveCores (s : State) : List Nat := ((s.agents.filter (fun p => p.2.live && p.2.kind != Kind.firmware)).map (fun p => p.2.ck)).dedup

/-- Core keys whose copy engines have a courier context to work for, its own end and its team's save notwithstanding (R75, R277, R286). -/
def State.copyCores (s : State) : List Nat := ((s.couriers.map (fun p => p.1 / 64)).filter (fun ck => !(s.no (ckDie ck)).fenced)).dedup

/-- A timetable slot the time base has reached (R403, R406), the lowest entry first: of the entries whose instance runs, or of the others. -/
def State.slotOf (s : State) (running : Bool) : Option State :=
  if !s.serving then none
  else (s.timetable.insertionSort (fun p q => p.1 ≤ q.1)).findSome? (fun p => match p.2.next with
    | some t => if p.2.enable && p.2.running.isSome == running && decide (t ≤ s.ptbAt ioNode) then some (s.ttDue p.1) else none
    | none => none)

/-- A slot that is due at the beginning of its cycle, before the launches of messages and words; one whose entry still runs an instance comes at
the cycle's end, when that may have ended (R416). -/
def State.dueSlot (s : State) : Option State := s.slotOf false

/-- A team that has not stopped by its deadline (R82). -/
def State.dueTimeout (s : State) : Option State :=
  s.teams.findSome? (fun p => match s.deadline p.1 with
    | some c => if c < s.cycle ∧ !s.allSaved p.1 then some (s.preemptLate p.1) else none
    | none => none)

/-- PIGEONHOLE_AGE_RELEASE (R69 (b)): whether a pigeonhole has reached its age. -/
def State.aged (s : State) (x : Hole) : Bool :=
  let age := (s.la (s.tm x.team).lid).hdr.reform
  x.live && x.order == none && age != 0 && !x.ths.isEmpty && decide (x.born + age ≤ s.cycle)

/-- An aged pigeonhole, in ascending number (R69, R72). -/
def State.dueHole (s : State) : Option State :=
  s.cores.findSome? (fun c => (List.range 16).findSome? (fun h =>
    if s.aged (tget c.2.holes h) then some (s.releaseHole c.1 2 h) else none))

/-- A core whose released pigeonholes find a free slot, once every release of the cycle is known (R72). -/
def State.dueGrant (s : State) : Option State :=
  s.cores.findSome? (fun c =>
    if (s.waitingHoles c.1).any (fun p => (s.freeSlot (tget c.2.holes p.2).team c.1).isSome) then some (s.grantHoles c.1) else none)

/-- An agent at a safe point its team has been asked to stop at (R79). -/
def State.dueStop (s : State) : Option State :=
  s.agents.findSome? (fun p =>
    if s.mayRun p.2 && (p.2.wait != .none || decide (p.2.ready ≤ s.cycle)) && (s.safeIdx p.1).isSome then
      (match s.safeStop p.1 with | .next u => if u.missed then none else some u | _ => none)
    else none)

/-- The place of a word among those that issue in one cycle: what its postbox unit applies first goes first (R233). -/
def pbxRank : Instr → Nat
  | .pbinit .. => 0
  | .pbexpect .. => 1
  | .pbarrive .. => 3
  | _ => 2

/-- The place in its cycle's order of the word an agent issues next. -/
def State.wordRank (s : State) (a : Agent) : Nat :=
  match (s.fetch a a.pc).1 with | .ok i => pbxRank i | .error _ => 2

/-- What an issue opportunity of a pipe leaves, with its place in the cycle's order: rank, core, then slot with the courier last. -/
def State.tryPipe (s : State) (ck pipe : Nat) : Option ((Nat × Nat × Nat) × State) :=
  if s.canIssue ck pipe then
    let u := s.issueOpp ck pipe
    some (if u.go then (u.wordRank u.me, ck, u.cur % 64 + 1) else (0, ck, 0), u)
  else none

/-- The issue opportunity that comes first in this cycle: words that issue in one cycle do so in the order of the postbox unit's kinds, then of
core and slot, the courier's last (R41, R233, R252). A firmware controller's word comes after the groups' and couriers'. -/
def State.dueIssue (s : State) : Option State :=
  let us := s.liveCores.flatMap (fun ck => (List.range 5).filterMap (s.tryPipe ck))
  let le (p q : (Nat × Nat × Nat) × State) : Bool :=
    p.1.1 < q.1.1 || (p.1.1 == q.1.1 && (p.1.2.1 < q.1.2.1 || (p.1.2.1 == q.1.2.1 && p.1.2.2 ≤ q.1.2.2)))
  ((us.insertionSort (fun p q => le p q)).head?.map (·.2)).or
    (s.agents.findSome? (fun p => if p.2.kind == .firmware && s.isReady p.2 then some { s with cur := p.1, go := true } else none))

/-- A word that issued and had to wait, whose wait has ended: it runs now, in the order the core accepted such words (R213, R252). -/
def State.dueTile (s : State) : Option State :=
  let ws := s.agents.filterMap (fun p => match p.2.wait with
    | .tile (some c) => if c ≤ s.cycle ∧ s.mayRun p.2 then some (((p.2.held.map (·.1)).getD 0, p.2.slot), p) else none
    | _ => none)
  match ws.insertionSort (fun p q => p.1.1 < q.1.1 || (p.1.1 == q.1.1 && p.1.2 ≤ q.1.2)) with
  | [] => none
  | (_, (k, a)) :: _ => some { s.setAg k { a with wait := .none } with cur := k, go := true }

/-- The next step of a core's matrix engine that is due (R251). -/
def State.dueMma (s : State) : Option State :=
  s.cores.findSome? (fun c => match c.2.mmas with
    | [] => none
    | q :: _ =>
      if (s.no (ckDie c.1)).fenced then none
      else if !q.started then
        if q.due ≤ s.cycle ∧ (s.ag q.lead).wait = .engine then some (s.mmaStart (ckDie c.1) (c.1 % 16)) else none
      else if q.abuf.length < 1024 * q.size ∧ q.begun + q.abuf.length / 512 ≤ s.cycle then some (s.mmaRead c.1)
      else if q.last ≤ s.cycle then some (s.mmaWrite (ckDie c.1) (c.1 % 16)) else none)

/-- A group the crossbar has filled becomes ready (R72). -/
def State.dueMove (s : State) : Option State :=
  s.cores.findSome? (fun c => match c.2.xbar with | p :: _ => if p.1 ≤ s.cycle then some (s.moveXbar c.1) else none | [] => none)

/-- A distributor whose placement step or steal has ended: the distributors look again for what they may place (R409, R411, R412). -/
def State.dueDist (s : State) : Option State :=
  if s.distFree.any (fun d => decide (d.2 ≤ s.cycle)) then
    some { s with distFree := s.distFree.filter (fun d => decide (s.cycle < d.2)), todo := s.todo ++ [.placement] }
  else none

/-- Deliver the messages in flight that may be delivered now, oldest first (R381–R383). -/
def State.deliverAll (s : State) : State := s.net.foldl (fun s m => if s.net.contains m && s.ripe m then s.deliver m else s) s

/-- A cycle of the cores' own queues: commands that start, copy-engine lines, one store of each queue, dividers (R164, R220, R286). -/
def State.coreTick (s : State) : State :=
  let s := s.startDue
  let s := s.copyCores.foldl (fun s ck => s.orMiss (s.copyStep (ckDie ck) (ck - 16 * ckDie ck))) s
  let s := s.agents.foldl (fun s p => if p.2.live && !p.2.sq.isEmpty then s.orMiss (s.drainOne p.1) else s) s
  let s := s.cores.foldl (fun s c => c.2.divFree.foldl (fun s d => s.divDone c.1 d.1) s) s
  s.deliverAll

/-- The exchange with other packages (R230, R430, R433): request slots return, tags and kept results age, requests are sent again or end
INDETERMINATE, held releases go out. -/
def State.remoteTick (s : State) : State :=
  let s := s.cores.foldl (fun s c => c.2.slots.foldl (fun s p => if p.2 = 0 then s else s.credit (c.1 / 16) (c.1 % 16) p.1) s) s
  let s := s.recent.foldl (fun s r => s.tagAge (r.1 / 2 ^ 14 / 16) (r.1 / 2 ^ 14 % 16) (r.1 % 2 ^ 14)) s
  let s := s.window.foldl (fun s k => s.windowExpiry k.pkg k.die k.core k.tag) s
  let s := s.reqs.foldl (fun s q => ((s.indeterminate q.id).reqTimeout q.id).resend q.id) s
  s.held.foldl (fun s h => s.releaseOut h.pkg) s

/-- The I/O die (R326, R423, R424, R439, R441, R460): the time code, events and acknowledgements, steps 1 and 2 of a redirection. -/
def State.ioTick (s : State) : State :=
  let s := (if s.codeTime / 10 < s.ptb / 10 then s.timeCode else s).lockLoss
  let s := s.ctxs.foldl (fun s c => if c.2.evq.isEmpty then s else s.eventSend c.1) s
  let s := s.sessions.foldl (fun s k => (k.2.unacked.foldl (fun s u => s.eventResend k.1 u.2.seq) s).ackTimer k.1) s
  let s := s.redirWatch.drainGo
  if s.redir.step = 1 ∨ s.redir.step = 2 then s.redirGo else s

/-- The homes (R387, R388, R390): the boundary of each re-hash in progress reaches the dies, or its unit moves; and the moves in progress. -/
def State.homeTick (s : State) : State :=
  let s := homes.foldl (fun s h =>
    if !(s.no h).rehash then s else if s.boundSeen h then (s.unitMove h).boundaryAdvance h else s.boundOut h) s
  s.moving.foldl (fun s m => s.migEnd m) s

/-- Teams asked to stop that have (R79 step 4). -/
def State.saveTick (s : State) : State :=
  s.teams.foldl (fun s p => match p.2.pre with | .asked _ => s.teamSave p.1 | _ => s) s

/-- One cycle in which no agent issues. -/
def State.tick (s : State) : State :=
  let s : State := { s with todo := s.todo ++ s.later, later := [] }
  (s.coreTick.pbxTests.remoteTick.ioTick.homeTick.saveTick).advance 1

/-- What happens when no step is due and no word has been chosen: a timetable slot, a timeout, a distributor's next step, a group out of the
crossbar, a step of a matrix engine and the words that waited for it, a stop at a safe point, an issue opportunity, and after the words of the
cycle an aged pigeonhole, the slots of the released ones (R72) and a slot of an entry that still runs an instance (R416); else a cycle passes. -/
def State.idle (s : State) : State :=
  ((((((((((s.dueSlot.or s.dueTimeout).or s.dueDist).or s.dueMove).or s.dueTile).or s.dueMma).or s.dueStop).or s.dueIssue).or s.dueHole).or s.dueGrant).or (s.slotOf true)).getD s.tick

/-! ## The steps -/

/-- ISSUE_OPPORTUNITY (R62). -/
def execIssueOpportunity (die core pipe : Nat) (s : State) : Host.Outcome State Fault Refusal := .next (s.issueOpp (coreKey die core) pipe)
/-- YIELD_REJOIN (R179). -/
def execYieldRejoin (agent : Nat) (s : State) : Host.Outcome State Fault Refusal := .next (s.yieldBack agent)

/-! ## Fetching the chosen word -/

/-- Whether a decision has been made that the next step runs an agent's word (R62). -/
def State.fetchNow (s : State) : Except Trap Instr × State := s.fetch (s.ag s.cur) (s.ag s.cur).pc

end Sys2Proof.Machine
end

