-- ==== Sys2Proof/Machine/Dispatch.lean ====
section
/-! DEFINITION. The meaning of every instruction and event: one arm per constructor. -/

namespace Sys2Proof.Machine

/-- The meaning of an instruction. -/
def exec (i : Instr) (s : State) : Host.Outcome State Fault Refusal :=
  match i with
  | .nop c => Sys2Proof.Machine.execNop c s
  | .exit c => Sys2Proof.Machine.execExit c s
  | .yield c => Sys2Proof.Machine.execYield c s
  | .reform c va => Sys2Proof.Machine.execReform c va s
  | .bra c t => Sys2Proof.Machine.execBra c t s
  | .brs c z sa t => Sys2Proof.Machine.execBrs c z sa t s
  | .brk c ka t => Sys2Proof.Machine.execBrk c ka t s
  | .join c => Sys2Proof.Machine.execJoin c s
  | .call c d t => Sys2Proof.Machine.execCall c d t s
  | .ret c sa => Sys2Proof.Machine.execRet c sa s
  | .jmpr c sa => Sys2Proof.Machine.execJmpr c sa s
  | .loop c sa t => Sys2Proof.Machine.execLoop c sa t s
  | .movi c w64 d b => Sys2Proof.Machine.execMovi c w64 d b s
  | .sadd c o => Sys2Proof.Machine.execSadd c o s
  | .ssub c o => Sys2Proof.Machine.execSsub c o s
  | .smul c o => Sys2Proof.Machine.execSmul c o s
  | .smulh c sgn o => Sys2Proof.Machine.execSmulh c sgn o s
  | .sdivu c o => Sys2Proof.Machine.execSdivu c o s
  | .sand c o => Sys2Proof.Machine.execSand c o s
  | .sor c o => Sys2Proof.Machine.execSor c o s
  | .sxor c o => Sys2Proof.Machine.execSxor c o s
  | .sshl c o => Sys2Proof.Machine.execSshl c o s
  | .sshr c o => Sys2Proof.Machine.execSshr c o s
  | .ssra c o => Sys2Proof.Machine.execSsra c o s
  | .smin c sgn o => Sys2Proof.Machine.execSmin c sgn o s
  | .smax c sgn o => Sys2Proof.Machine.execSmax c sgn o s
  | .sclz c o => Sys2Proof.Machine.execSclz c o s
  | .spopc c o => Sys2Proof.Machine.execSpopc c o s
  | .sbfe c o => Sys2Proof.Machine.execSbfe c o s
  | .sbfi c o sc => Sys2Proof.Machine.execSbfi c o sc s
  | .slea c sh o sc => Sys2Proof.Machine.execSlea c sh o sc s
  | .ssel c o kc => Sys2Proof.Machine.execSsel c o kc s
  | .scmp c cc w64 kd sa b => Sys2Proof.Machine.execScmp c cc w64 kd sa b s
  | .movs c sel d => Sys2Proof.Machine.execMovs c sel d s
  | .ptbLoLatch agent => Sys2Proof.Machine.execPtbLoLatch agent s
  | .kand c kd ka kb => Sys2Proof.Machine.execKand c kd ka kb s
  | .kor c kd ka kb => Sys2Proof.Machine.execKor c kd ka kb s
  | .kxor c kd ka kb => Sys2Proof.Machine.execKxor c kd ka kb s
  | .knot c kd ka => Sys2Proof.Machine.execKnot c kd ka s
  | .kmov c kd ka => Sys2Proof.Machine.execKmov c kd ka s
  | .kpopc c d ka => Sys2Proof.Machine.execKpopc c d ka s
  | .kfirst c d ka => Sys2Proof.Machine.execKfirst c d ka s
  | .kany c d ka => Sys2Proof.Machine.execKany c d ka s
  | .kall c d ka => Sys2Proof.Machine.execKall c d ka s
  | .vadd c sat o => Sys2Proof.Machine.execVadd c sat o s
  | .vsub c sat o => Sys2Proof.Machine.execVsub c sat o s
  | .vmul c sat o => Sys2Proof.Machine.execVmul c sat o s
  | .vmulh c sgn o => Sys2Proof.Machine.execVmulh c sgn o s
  | .vmad c sat o vc => Sys2Proof.Machine.execVmad c sat o vc s
  | .vand c o => Sys2Proof.Machine.execVand c o s
  | .vor c o => Sys2Proof.Machine.execVor c o s
  | .vxor c o => Sys2Proof.Machine.execVxor c o s
  | .vnot c o => Sys2Proof.Machine.execVnot c o s
  | .vshl c o => Sys2Proof.Machine.execVshl c o s
  | .vshr c sgn o => Sys2Proof.Machine.execVshr c sgn o s
  | .vsra c o => Sys2Proof.Machine.execVsra c o s
  | .vmin c sgn o => Sys2Proof.Machine.execVmin c sgn o s
  | .vmax c sgn o => Sys2Proof.Machine.execVmax c sgn o s
  | .vabs c o => Sys2Proof.Machine.execVabs c o s
  | .vclz c o => Sys2Proof.Machine.execVclz c o s
  | .vpopc c o => Sys2Proof.Machine.execVpopc c o s
  | .vbrev c o => Sys2Proof.Machine.execVbrev c o s
  | .vbfe c sgn o vc => Sys2Proof.Machine.execVbfe c sgn o vc s
  | .vbfi c o vc => Sys2Proof.Machine.execVbfi c o vc s
  | .vsat c t sgn o => Sys2Proof.Machine.execVsat c t sgn o s
  | .vcmp c cc w64 kd va b => Sys2Proof.Machine.execVcmp c cc w64 kd va b s
  | .vsel c o kc => Sys2Proof.Machine.execVsel c o kc s
  | .faddF32 c rnd o => Sys2Proof.Machine.execFaddF32 c rnd o s
  | .fsubF32 c rnd o => Sys2Proof.Machine.execFsubF32 c rnd o s
  | .fmulF32 c rnd o => Sys2Proof.Machine.execFmulF32 c rnd o s
  | .fmaF32 c rnd o vc => Sys2Proof.Machine.execFmaF32 c rnd o vc s
  | .fminF32 c o => Sys2Proof.Machine.execFminF32 c o s
  | .fmaxF32 c o => Sys2Proof.Machine.execFmaxF32 c o s
  | .fabsF32 c o => Sys2Proof.Machine.execFabsF32 c o s
  | .fnegF32 c o => Sys2Proof.Machine.execFnegF32 c o s
  | .fcmpF32 c cc kd va b => Sys2Proof.Machine.execFcmpF32 c cc kd va b s
  | .fclassF32 c o => Sys2Proof.Machine.execFclassF32 c o s
  | .faddF64 c rnd o => Sys2Proof.Machine.execFaddF64 c rnd o s
  | .fsubF64 c rnd o => Sys2Proof.Machine.execFsubF64 c rnd o s
  | .fmulF64 c rnd o => Sys2Proof.Machine.execFmulF64 c rnd o s
  | .fmaF64 c rnd o vc => Sys2Proof.Machine.execFmaF64 c rnd o vc s
  | .fminF64 c o => Sys2Proof.Machine.execFminF64 c o s
  | .fmaxF64 c o => Sys2Proof.Machine.execFmaxF64 c o s
  | .fabsF64 c o => Sys2Proof.Machine.execFabsF64 c o s
  | .fnegF64 c o => Sys2Proof.Machine.execFnegF64 c o s
  | .fcmpF64 c cc kd va b => Sys2Proof.Machine.execFcmpF64 c cc kd va b s
  | .fclassF64 c o => Sys2Proof.Machine.execFclassF64 c o s
  | .hadd2 c bf rnd o => Sys2Proof.Machine.execHadd2 c bf rnd o s
  | .hmul2 c bf rnd o => Sys2Proof.Machine.execHmul2 c bf rnd o s
  | .hfma2 c bf rnd o vc => Sys2Proof.Machine.execHfma2 c bf rnd o vc s
  | .hmin2 c bf o => Sys2Proof.Machine.execHmin2 c bf o s
  | .hmax2 c bf o => Sys2Proof.Machine.execHmax2 c bf o s
  | .frcp c o => Sys2Proof.Machine.execFrcp c o s
  | .frsq c o => Sys2Proof.Machine.execFrsq c o s
  | .fsqrt c o => Sys2Proof.Machine.execFsqrt c o s
  | .fexp2 c o => Sys2Proof.Machine.execFexp2 c o s
  | .flog2 c o => Sys2Proof.Machine.execFlog2 c o s
  | .fsin c o => Sys2Proof.Machine.execFsin c o s
  | .fcos c o => Sys2Proof.Machine.execFcos c o s
  | .ftanh c o => Sys2Proof.Machine.execFtanh c o s
  | .cvt c o => Sys2Proof.Machine.execCvt c o s
  | .p4pack c o => Sys2Proof.Machine.execP4pack c o s
  | .p4unpack c rnd d va vb => Sys2Proof.Machine.execP4unpack c rnd d va vb s
  | .vnbr c right wrap o => Sys2Proof.Machine.execVnbr c right wrap o s
  | .vshfl c m o => Sys2Proof.Machine.execVshfl c m o s
  | .vbcast c o => Sys2Proof.Machine.execVbcast c o s
  | .vred c op o => Sys2Proof.Machine.execVred c op o s
  | .vscan c op excl o => Sys2Proof.Machine.execVscan c op excl o s
  | .vflags c d => Sys2Proof.Machine.execVflags c d s
  | .hWord ha hb => Sys2Proof.Machine.execHWord ha hb s
  | .ldB8 c o => Sys2Proof.Machine.execLdB8 c o s
  | .ldB16 c o => Sys2Proof.Machine.execLdB16 c o s
  | .ldB32 c o => Sys2Proof.Machine.execLdB32 c o s
  | .ldB64 c o => Sys2Proof.Machine.execLdB64 c o s
  | .ldB128 c o => Sys2Proof.Machine.execLdB128 c o s
  | .stB8 c o => Sys2Proof.Machine.execStB8 c o s
  | .stB16 c o => Sys2Proof.Machine.execStB16 c o s
  | .stB32 c o => Sys2Proof.Machine.execStB32 c o s
  | .stB64 c o => Sys2Proof.Machine.execStB64 c o s
  | .stB128 c o => Sys2Proof.Machine.execStB128 c o s
  | .lduB32 c o => Sys2Proof.Machine.execLduB32 c o s
  | .lduB64 c o => Sys2Proof.Machine.execLduB64 c o s
  | .prefetch c h m => Sys2Proof.Machine.execPrefetch c h m s
  | .clean c m => Sys2Proof.Machine.execClean c m s
  | .inval c m => Sys2Proof.Machine.execInval c m s
  | .lineset c m => Sys2Proof.Machine.execLineset c m s
  | .atom c o => Sys2Proof.Machine.execAtom c o s
  | .red c o => Sys2Proof.Machine.execRed c o s
  | .fenceAcq c sc => Sys2Proof.Machine.execFenceAcq c sc s
  | .fenceRel c sc => Sys2Proof.Machine.execFenceRel c sc s
  | .fenceAr c sc => Sys2Proof.Machine.execFenceAr c sc s
  | .fenceSc c sc => Sys2Proof.Machine.execFenceSc c sc s
  | .pbinit c sc sa b => Sys2Proof.Machine.execPbinit c sc sa b s
  | .pbexpect c sa b => Sys2Proof.Machine.execPbexpect c sa b s
  | .pbarrive c sa => Sys2Proof.Machine.execPbarrive c sa s
  | .pbwait c sa b => Sys2Proof.Machine.execPbwait c sa b s
  | .pbtest c d sa => Sys2Proof.Machine.execPbtest c d sa s
  | .barArrive c b cnt => Sys2Proof.Machine.execBarArrive c b cnt s
  | .barSync c b cnt => Sys2Proof.Machine.execBarSync c b cnt s
  | .gbar c => Sys2Proof.Machine.execGbar c s
  | .discard c sa b => Sys2Proof.Machine.execDiscard c sa b s
  | .pgclass c sa b => Sys2Proof.Machine.execPgclass c sa b s
  | .tlbiPage c sa => Sys2Proof.Machine.execTlbiPage c sa s
  | .tlbiCtx c => Sys2Proof.Machine.execTlbiCtx c s
  | .tlbiAll c => Sys2Proof.Machine.execTlbiAll c s
  | .gangSet c sa => Sys2Proof.Machine.execGangSet c sa s
  | .mma c acc fmt zd ta vb => Sys2Proof.Machine.execMma c acc fmt zd ta vb s
  | .mmaEngineStart die core => Sys2Proof.Machine.execMmaEngineStart die core s
  | .mmaTileWrite die core => Sys2Proof.Machine.execMmaTileWrite die core s
  | .zclr c z => Sys2Proof.Machine.execZclr c z s
  | .zwr c z va row => Sys2Proof.Machine.execZwr c z va row s
  | .zrd c o => Sys2Proof.Machine.execZrd c o s
  | .epi c o => Sys2Proof.Machine.execEpi c o s
  | .ttset c td sa sel => Sys2Proof.Machine.execTtset c td sa sel s
  | .ttld c td sa => Sys2Proof.Machine.execTtld c td sa s
  | .ttst c ta sb => Sys2Proof.Machine.execTtst c ta sb s
  | .ttidx c wr d ta ax => Sys2Proof.Machine.execTtidx c wr d ta ax s
  | .tewAdd c o tb => Sys2Proof.Machine.execTewAdd c o tb s
  | .tewSub c o tb => Sys2Proof.Machine.execTewSub c o tb s
  | .tewMul c o tb => Sys2Proof.Machine.execTewMul c o tb s
  | .tewFma c o tb tc => Sys2Proof.Machine.execTewFma c o tb tc s
  | .tewMin c o tb => Sys2Proof.Machine.execTewMin c o tb s
  | .tewMax c o tb => Sys2Proof.Machine.execTewMax c o tb s
  | .tewScale c o sb => Sys2Proof.Machine.execTewScale c o sb s
  | .tewCvt c o => Sys2Proof.Machine.execTewCvt c o s
  | .tewExp2 c o => Sys2Proof.Machine.execTewExp2 c o s
  | .tewRelu c o => Sys2Proof.Machine.execTewRelu c o s
  | .tewSelect c o tb tc => Sys2Proof.Machine.execTewSelect c o tb tc s
  | .tewCopy c o => Sys2Proof.Machine.execTewCopy c o s
  | .tewRrow c r o => Sys2Proof.Machine.execTewRrow c r o s
  | .tewRcol c r o => Sys2Proof.Machine.execTewRcol c r o s
  | .copy c o => Sys2Proof.Machine.execCopy c o s
  | .copyDl c o list => Sys2Proof.Machine.execCopyDl c o list s
  | .copySeal c o => Sys2Proof.Machine.execCopySeal c o s
  | .layout c o => Sys2Proof.Machine.execLayout c o s
  | .qwait c mask => Sys2Proof.Machine.execQwait c mask s
  | .qfence c mask => Sys2Proof.Machine.execQfence c mask s
  | .qstat c d q => Sys2Proof.Machine.execQstat c d q s
  | .dlchk c d list => Sys2Proof.Machine.execDlchk c d list s
  | .coll c o => Sys2Proof.Machine.execColl c o s
  | .cgmem c d sb => Sys2Proof.Machine.execCgmem c d sb s
  | .trap c code => Sys2Proof.Machine.execTrap c code s
  | .eret c => Sys2Proof.Machine.execEret c s
  | .mfs c sel d => Sys2Proof.Machine.execMfs c sel d s
  | .mts c sel sb => Sys2Proof.Machine.execMts c sel sb s
  | .sysSpoorClear ctx => Sys2Proof.Machine.execSysSpoorClear ctx s
  | .sliceRetire die mask => Sys2Proof.Machine.execSliceRetire die mask s
  | .hashVariantWrite die variant => Sys2Proof.Machine.execHashVariantWrite die variant s
  | .mxchkIntervalWrite die n => Sys2Proof.Machine.execMxchkIntervalWrite die n s
  | .launch c sa sb sc => Sys2Proof.Machine.execLaunch c sa sb sc s
  | .capq c d sel => Sys2Proof.Machine.execCapq c d sel s
  | .ptbrd c d => Sys2Proof.Machine.execPtbrd c d s
  | .evsig c code => Sys2Proof.Machine.execEvsig c code s
  | .ctxsave c sa => Sys2Proof.Machine.execCtxsave c sa s
  | .ctxrest c sa => Sys2Proof.Machine.execCtxrest c sa s
  | .safepoint c => Sys2Proof.Machine.execSafepoint c s
  | .wsld c sa sb sc => Sys2Proof.Machine.execWsld c sa sb sc s
  | .issueOpportunity die core pipe => Sys2Proof.Machine.execIssueOpportunity die core pipe s
  | .resultLand agent => Sys2Proof.Machine.execResultLand agent s
  | .storeQueueDrain agent => Sys2Proof.Machine.execStoreQueueDrain agent s
  | .dividerFree die core pipe => Sys2Proof.Machine.execDividerFree die core pipe s
  | .yieldRejoin agent => Sys2Proof.Machine.execYieldRejoin agent s
  | .pigeonholeAgeRelease die core hole => Sys2Proof.Machine.execPigeonholeAgeRelease die core hole s
  | .pigeonholeSlotGrant die core hole => Sys2Proof.Machine.execPigeonholeSlotGrant die core hole s
  | .crossbarMove die core => Sys2Proof.Machine.execCrossbarMove die core s
  | .preemptRequest team => Sys2Proof.Machine.execPreemptRequest team s
  | .safePointStop agent => Sys2Proof.Machine.execSafePointStop agent s
  | .teamSaveComplete team => Sys2Proof.Machine.execTeamSaveComplete team s
  | .preemptTimeout team => Sys2Proof.Machine.execPreemptTimeout team s
  | .teamResume team die core => Sys2Proof.Machine.execTeamResume team die core s
  | .contextKill ctx => Sys2Proof.Machine.execContextKill ctx s
  | .homeGenerationRaise home ctx => Sys2Proof.Machine.execHomeGenerationRaise home ctx s
  | .killResourcesFree ctx => Sys2Proof.Machine.execKillResourcesFree ctx s
  | .teamEnd team => Sys2Proof.Machine.execTeamEnd team s
  | .admissionDecision => Sys2Proof.Machine.execAdmissionDecision s
  | .placementStep die => Sys2Proof.Machine.execPlacementStep die s
  | .steal launch thief => Sys2Proof.Machine.execSteal launch thief s
  | .priorityPreemption launch => Sys2Proof.Machine.execPriorityPreemption launch s
  | .timetableSlot entry => Sys2Proof.Machine.execTimetableSlot entry s
  | .heldInstanceSubmit entry => Sys2Proof.Machine.execHeldInstanceSubmit entry s
  | .weightStoreZero die ctx => Sys2Proof.Machine.execWeightStoreZero die ctx s
  | .wsRefreshWindow die bank => Sys2Proof.Machine.execWsRefreshWindow die bank s
  | .commandStart agent queue => Sys2Proof.Machine.execCommandStart agent queue s
  | .copyEngineLine die core => Sys2Proof.Machine.execCopyEngineLine die core s
  | .layoutEngineCommand die cluster => Sys2Proof.Machine.execLayoutEngineCommand die cluster s
  | .epilogueStart die core => Sys2Proof.Machine.execEpilogueStart die core s
  | .commandFaultResume agent queue => Sys2Proof.Machine.execCommandFaultResume agent queue s
  | .commandComplete agent queue => Sys2Proof.Machine.execCommandComplete agent queue s
  | .collRestart ctx group => Sys2Proof.Machine.execCollRestart ctx group s
  | .memberLivenessLoss pkg => Sys2Proof.Machine.execMemberLivenessLoss pkg s
  | .collTableWrite ctx group mask => Sys2Proof.Machine.execCollTableWrite ctx group mask s
  | .dcTrapEntry die => Sys2Proof.Machine.execDcTrapEntry die s
  | .tlbEntryDrop die index => Sys2Proof.Machine.execTlbEntryDrop die index s
  | .reads die line => Sys2Proof.Machine.execReads die line s
  | .readm die line => Sys2Proof.Machine.execReadm die line s
  | .upgrade die line => Sys2Proof.Machine.execUpgrade die line s
  | .writeBack die line => Sys2Proof.Machine.execWriteBack die line s
  | .cleanEvict die line => Sys2Proof.Machine.execCleanEvict die line s
  | .inv die line => Sys2Proof.Machine.execInv die line s
  | .fwdS die line => Sys2Proof.Machine.execFwdS die line s
  | .fwdI die line => Sys2Proof.Machine.execFwdI die line s
  | .snoopAck die line => Sys2Proof.Machine.execSnoopAck die line s
  | .grant die line => Sys2Proof.Machine.execGrant die line s
  | .readrc die line => Sys2Proof.Machine.execReadrc die line s
  | .dirtynotice die line => Sys2Proof.Machine.execDirtynotice die line s
  | .mergeWriteBack die line => Sys2Proof.Machine.execMergeWriteBack die line s
  | .recall die line => Sys2Proof.Machine.execRecall die line s
  | .remoteAtomicRequest r => Sys2Proof.Machine.execRemoteAtomicRequest r s
  | .remoteAtomicResend request => Sys2Proof.Machine.execRemoteAtomicResend request s
  | .atomIndeterminate request => Sys2Proof.Machine.execAtomIndeterminate request s
  | .replayWindowExpiry pkg die core tag => Sys2Proof.Machine.execReplayWindowExpiry pkg die core tag s
  | .responseArrive request data abort => Sys2Proof.Machine.execResponseArrive request data abort s
  | .requestTimeout request => Sys2Proof.Machine.execRequestTimeout request s
  | .creditReturn die core pkg => Sys2Proof.Machine.execCreditReturn die core pkg s
  | .syncReleaseForward pkg => Sys2Proof.Machine.execSyncReleaseForward pkg s
  | .flitReceive x y h => Sys2Proof.Machine.execFlitReceive x y h s
  | .ptbCode => Sys2Proof.Machine.execPtbCode s
  | .timeBeacon value => Sys2Proof.Machine.execTimeBeacon value s
  | .ptpMessage value locked => Sys2Proof.Machine.execPtpMessage value locked s
  | .timeLockLoss => Sys2Proof.Machine.execTimeLockLoss s
  | .aflFrame port seq bulk crcOk => Sys2Proof.Machine.execAflFrame port seq bulk crcOk s
  | .laneRetrain port lane => Sys2Proof.Machine.execLaneRetrain port lane s
  | .ucieModuleRemove node module => Sys2Proof.Machine.execUcieModuleRemove node module s
  | .nodeFence node => Sys2Proof.Machine.execNodeFence node s
  | .watchdogFence node => Sys2Proof.Machine.execWatchdogFence node s
  | .fenceNotice die => Sys2Proof.Machine.execFenceNotice die s
  | .homeFenceMark home die => Sys2Proof.Machine.execHomeFenceMark home die s
  | .fenceCapacityUpdate die => Sys2Proof.Machine.execFenceCapacityUpdate die s
  | .fenceLaunchHandling die => Sys2Proof.Machine.execFenceLaunchHandling die s
  | .spareJoinStart die => Sys2Proof.Machine.execSpareJoinStart die s
  | .dieSelfTest die badCores slices => Sys2Proof.Machine.execDieSelfTest die badCores slices s
  | .rejoinNotice home die => Sys2Proof.Machine.execRejoinNotice home die s
  | .joinComplete die => Sys2Proof.Machine.execJoinComplete die s
  | .errorDetected e corrected => Sys2Proof.Machine.execErrorDetected e corrected s
  | .errorRetry e again => Sys2Proof.Machine.execErrorRetry e again s
  | .healthClear node => Sys2Proof.Machine.execHealthClear node s
  | .registerWrite node thresh => Sys2Proof.Machine.execRegisterWrite node thresh s
  | .sliceFailure die slice => Sys2Proof.Machine.execSliceFailure die slice s
  | .stackLoss stack => Sys2Proof.Machine.execStackLoss stack s
  | .channelLoss home channel => Sys2Proof.Machine.execChannelLoss home channel s
  | .rehashUnitMove home => Sys2Proof.Machine.execRehashUnitMove home s
  | .boundaryAdvance home => Sys2Proof.Machine.execBoundaryAdvance home s
  | .requestRetry request => Sys2Proof.Machine.execRequestRetry request s
  | .tierMigration m => Sys2Proof.Machine.execTierMigration m s
  | .ethFrame fcsOk kind typ m => Sys2Proof.Machine.execEthFrame fcsOk kind typ m s
  | .dhpRead m => Sys2Proof.Machine.execDhpRead m s
  | .dhpWrite m => Sys2Proof.Machine.execDhpWrite m s
  | .dhpLaunch m => Sys2Proof.Machine.execDhpLaunch m s
  | .dhpTtset m => Sys2Proof.Machine.execDhpTtset m s
  | .dhpTtsetRead m => Sys2Proof.Machine.execDhpTtsetRead m s
  | .dhpCapq m => Sys2Proof.Machine.execDhpCapq m s
  | .dhpRedirect m => Sys2Proof.Machine.execDhpRedirect m s
  | .dhpAckonly session ack => Sys2Proof.Machine.execDhpAckonly session ack s
  | .dhpAckTimer session => Sys2Proof.Machine.execDhpAckTimer session s
  | .eventSend ctx => Sys2Proof.Machine.execEventSend ctx s
  | .eventResend session seq => Sys2Proof.Machine.execEventResend session seq s
  | .redirectStream bytes => Sys2Proof.Machine.execRedirectStream bytes s
  | .routeDrain peer => Sys2Proof.Machine.execRouteDrain peer s
  | .unlatchPermitted => Sys2Proof.Machine.execUnlatchPermitted s
  | .redirectFailure => Sys2Proof.Machine.execRedirectFailure s
  | .i3cEntdaa addr => Sys2Proof.Machine.execI3cEntdaa addr s
  | .identityRomRead offset len => Sys2Proof.Machine.execIdentityRomRead offset len s
  | .getId => Sys2Proof.Machine.execGetId s
  | .getCap sel => Sys2Proof.Machine.execGetCap sel s
  | .getHealth node seq => Sys2Proof.Machine.execGetHealth node seq s
  | .getThermal => Sys2Proof.Machine.execGetThermal s
  | .setPower state cap => Sys2Proof.Machine.execSetPower state cap s
  | .mgmtRedirect neighbour => Sys2Proof.Machine.execMgmtRedirect neighbour s
  | .getAttest nonce => Sys2Proof.Machine.execGetAttest nonce s
  | .getStatus => Sys2Proof.Machine.execGetStatus s
  | .mainPowerOn => Sys2Proof.Machine.execMainPowerOn s
  | .bootImageCheck slot rollback hashOk rsaOk slhOk => Sys2Proof.Machine.execBootImageCheck slot rollback hashOk rsaOk slhOk s
  | .mainPowerOff => Sys2Proof.Machine.execMainPowerOff s
  | .thermalSample node temp => Sys2Proof.Machine.execThermalSample node temp s
  | .remoteTagAgeOut die core home => Sys2Proof.Machine.execRemoteTagAgeOut die core home s
  | .atomicAtHome die pa w64 op b cmp => Sys2Proof.Machine.execAtomicAtHome die pa w64 op b cmp s
  | .wsPvLineRead die line => Sys2Proof.Machine.execWsPvLineRead die line s
  | .wsPvWriteBack die line => Sys2Proof.Machine.execWsPvWriteBack die line s
  | .linesetAtHome die line => Sys2Proof.Machine.execLinesetAtHome die line s
  | .aflPortUp port => Sys2Proof.Machine.execAflPortUp port s
  | .mctpMessage vendor cmd payload => Sys2Proof.Machine.execMctpMessage vendor cmd payload s

end Sys2Proof.Machine
end

