-- ==== Sys2Proof/Machine/Place.lean ====
section
/-! DEFINITION. Placing one instruction where the next step fetches (log 4): a context with one mapped page, a team with one agent whose
program counter is the page's first address, and the instruction's bytes there. -/

namespace Sys2Proof.Machine

/-- The translation of virtual page 0 of context 0 to frame 0: valid, RC, writable, executable, accessed, dirty (R391, R392). -/
def placeTlb : Tlb := { ctx := 0, vpage := 0, large := false, pte := 0x7B, ptePa := 0x10000 }

/-- The kernel the placed instruction belongs to: width 16, every register allocated, its group of the matrix role. -/
def placeHdr : Hdr := { width := 16, nv := 256, ns := 64, teamg := 1, roles := 1, spad := 65536, stack := 4096 }

/-- The placed group of slot 0, or courier context 0, of core 0 of die 0. -/
def placeAgent (k : Kind) : Agent :=
  { live := true, kind := k, team := 1, width := if k = .courier then 1 else 16, nv := if k = .courier then 0 else 256, ns := 64,
    matrix := true, act := if k = .courier then 1 else 0xFFFF, pres := if k = .courier then 1 else 0xFFFF,
    tids := (List.range 16).map (fun i => (i, i)) }

/-- The agent that runs an instruction: firmware for one that is privileged, a courier context for one only couriers run, else a
group. -/
def placeKind (i : Option Instr) : Kind :=
  match i with
  | none => .group
  | some i => if (shape 16 i).priv then .firmware else if (shape 16 i).courier then .courier else .group

/-- The state with an agent ready to fetch the bytes `bs` as its next word, the issue opportunity taken. -/
def State.place (s : State) (k : Kind) (bs : List Byte) : State :=
  let n := s.no 0
  let s : State := { s with go := true, power := .run, fatal := false }
  match k with
  | .firmware =>
    let s := s.setNo 0 { n with fenced := false, powered := true, priv := memPutBytes n.priv 0 bs }
    { s.setAg (fwKey 0) { fwAtReset 0 with wait := .none } with cur := fwKey 0 }
  | _ =>
    let key := if k = .courier then courierKey 0 0 0 else groupKey 0 0 0
    let h := s.homeOf 0
    let s := s.setDi 0 { s.di 0 with tlb := placeTlb :: (s.di 0).tlb, l2 := (s.di 0).l2.filter (fun x => x.line != 0) }
    let s := s.setNo h { s.no h with fenced := false }
    let s := s.setAg key (placeAgent k)
    let s := if k = .courier then s.setCc key {} else s
    let s := s.setTm 1 { live := true, lid := 1, ctx := 0, teamId := 0, die := 0, core := 0, spad := 65536, stack := 4096, slots0 := [0] }
    let s := s.setCo 0 { s.co 0 with zteam := some 1 }
    let s := s.setLa 1 { live := true, lid := 1, ctx := 0, hdr := placeHdr }
    let s := s.setCx 0 { s.cx 0 with live := true }
    { s with cur := key, mem := memPutBytes s.mem 0 bs, classes := tput s.classes 0 .rc, dirs := tdel s.dirs 0, losses := [],
             domain := if s.domain.contains Config.pkg then s.domain else Config.pkg :: s.domain }

end Sys2Proof.Machine
end

