-- ==== Sys2Proof/Machine/Step.lean ====
section
/-! DEFINITION. One step of the package, and where an instruction is placed for the next one. -/

namespace Sys2Proof.Machine

/-- Run the word an issue opportunity has chosen: fetch it at its agent's PC and execute it, or take the trap its fetch met; an error that its replay did not
show again is settled first (R447). -/
def State.runWord (s : State) : Host.Outcome State Fault Refusal :=
  match s.retryEnd.fetchNow with
  | (.ok i, s) => exec i s
  | (.error t, s) => s.takeTrap s.cur t

/-- A word of a die that missed in an L2 holding its misses back has no effect: it is run again in the next cycle (R378). -/
def State.orAgain (s : State) : Host.Outcome State Fault Refusal → Host.Outcome State Fault Refusal
  | .next u =>
    if u.missed then .next (s.setAg s.cur { s.me with ready := max s.me.ready (s.cycle + 1) })
    else .next { u with missed := false }
  | r => r

/-- A step of an engine that missed in such an L2 has no effect either: it is taken again in the next cycle (R378). -/
def State.orLater (s : State) (t : Todo) (u : State) : State := if u.missed then { s with later := s.later ++ [t] } else u

/-- An arriving message that enters a launch request; a timetable slot of the same cycle enters its queue ahead of it (R416). -/
def startsLaunch : Instr → Bool
  | .dhpLaunch _ => true
  | .ethFrame _ .dhp 3 _ => true
  | _ => false

/-- What still has an effect without main power: the identity ROM, and the board's switch (R463, R471). -/
def standby : Instr → Bool
  | .identityRomRead _ _ => true
  | .mainPowerOn => true
  | .mainPowerOff => true
  | _ => false

/-- A step of a package whose rails are off: nothing of it runs, and of what comes from outside only `standby` counts (R471, R472). -/
def State.darkStep (s : State) : Host.Outcome State Fault Refusal :=
  match s.inbox with
  | [] => .next s
  | i :: is => if standby i then exec i { s with inbox := is } else .next { s with inbox := is }

/-- One step: the chosen word; else the oldest step the machine owes itself; else the oldest thing firmware has decided; else the oldest event
from outside; else what the hardware's own timing brings (log 6, log 92). -/
def step (s : State) : Host.Outcome State Fault Refusal :=
  let s := { s with missed := false }
  if s.go then State.orAgain { s with go := false } (State.runWord { s with go := false })
  else if s.dark then s.darkStep
  else match s.todo with
  | t :: ts => .next (State.orLater { s with todo := ts } t (State.runTodo { s with todo := ts } t))
  | [] => match s.fw with
    | f :: fs => .next (State.runFw { s with fw := fs } f)
    | [] => match s.inbox with
      | i :: is => match (if startsLaunch i then s.dueSlot else none) with
        | some u => .next u
        | none => exec i { s with inbox := is }
      | [] => .next s.idle

/-- The state whose next step fetches and runs the instruction with bits `w`: its bytes, each word little-endian (R113), where an agent
that may run it fetches next (log 4). -/
def State.withFetchWord (s : State) (nbits w : Nat) : State :=
  s.place (placeKind (Sys2Proof.decodeTableWord nbits w)) (leBytes 16 (w % 2 ^ nbits))

end Sys2Proof.Machine
end

