-- ==== Sys2Proof/Safety.lean ====
section
/-! DEFINITION. What the claims about the machine are stated in: when a word runs its own effect, what completing means, and what a
step leaves as it was. -/

namespace Sys2Proof.Machine

/-- The word `i` of the current agent runs its own effect: the agent is live, the word passes steps 2 to 5 of R155, the checking
scoreboard (R128) finds nothing, and a lane is active or the word acts without one (R55). -/
def State.ready (s : State) (i : Instr) : Bool :=
  s.me.live && i.wf && (s.me.issueTrap (s.shapeOf i)).isNone && (s.tooEarly i).isNone && s.effective i

/-- The instruction answers a next state, and it has the property `p`. -/
def Completes (i : Instr) (s : State) (p : State → Prop) : Prop := ∃ t, exec i s = .next t ∧ p t

/-- The instruction stops with a fault. -/
def Stops (i : Instr) (s : State) : Prop := ∃ f, exec i s = .fault f

/-- A step that meets no fault. -/
def SafeStep (s : State) : Prop := ∀ f, step s ≠ .fault f

/-- A state without its clocks, its count of free values and its agents. -/
def State.rest (s : State) : State :=
  { s with cycle := 0, ptb := 0, frac := 0, slew := 0, slewFrac := 0, fresh := 0, agents := [] }

/-- Nothing but the clocks, the count of free values and the running agent has changed: every other agent, every byte of memory, every
cache line, queue, table and unit is as it was. -/
def KeptButMe (s t : State) : Prop := t.rest = s.rest ∧ ∀ k, k ≠ s.cur → t.ag k = s.ag k

/-- An agent without its registers, its flags, its program counter and what the issue of a word moves: readiness, results under way,
the place it waits at, lines that have come for a load, a word that issued and waits, and the end of a restore routine. -/
def Agent.rest (a : Agent) : Agent :=
  { a with sreg := [], vreg := [], kreg := [], flags := 0, pc := 0, wpc := 0, wait := .none, ready := 0, since := 0, filed := false, woken := false, pend := [], inflight := [], lands := [],
           inRestore := false, arrived := [], held := none, sview := [] }

/-- The registers and flags of two agents agree. -/
def SameRegs (a b : Agent) : Prop :=
  (∀ r, b.s32 r = a.s32 r) ∧ (∀ r l, b.v32 r l = a.v32 r l) ∧ (∀ r, b.k r = a.k r) ∧ b.flags = a.flags

/-- A 64-bit value kept at an operand's width. -/
def atWidth (w64 : Bool) (x : W64) : W64 := if w64 then x else (x.setWidth 32).setWidth 64

/-- A value read as a signed integer at an operand's width. -/
def signedAt (w64 : Bool) (x : W64) : Int := if w64 then x.toInt else (x.setWidth 32).toInt

/-- The width of an operand in bits. -/
def bitsAt (w64 : Bool) : Nat := if w64 then 64 else 32

/-- What every word that writes registers alone does: it answers a next state in which nothing but the clocks, the count of free values
and its own agent has changed, that agent's program counter is past the word, and what it holds besides registers, flags and issue times
is as it was. -/
def RegisterWord (i : Instr) (s : State) (p : State → Prop) : Prop :=
  Completes i s (fun t => KeptButMe s t ∧ t.cur = s.cur ∧ t.me.pc = s.me.pc + BitVec.ofNat 64 i.size ∧ t.me.rest = s.me.rest ∧ p t)

/-- The word writes `x` to scalar register `d`, a pair when `w64`; every other register and the flags stay. -/
def WritesScalar (i : Instr) (s : State) (w64 : Bool) (d : BitVec 6) (x : W64) : Prop :=
  RegisterWord i s (fun t => t.me.sw w64 d.toNat = atWidth w64 x ∧
    (∀ q, q ≠ d.toNat → (w64 = true → q ≠ d.toNat + 1) → t.me.s32 q = s.me.s32 q) ∧
    t.me.vreg = s.me.vreg ∧ t.me.kreg = s.me.kreg ∧ t.me.flags = s.me.flags)

/-- The word writes `f l` to vector register `d`, a pair when `w64`, in each active lane `l`, and raises the flags `fl`; every other
register and the other lanes of that one stay. -/
def WritesLanes (i : Instr) (s : State) (w64 : Bool) (d : BitVec 8) (f : Nat → W64) (fl : BitVec 6) : Prop :=
  RegisterWord i s (fun t => (∀ l, (s.lanes i).getLsbD l = true → t.me.vw w64 d.toNat l = atWidth w64 (f l)) ∧
    (∀ q l, l < 64 → ¬ ((s.lanes i).getLsbD l = true ∧ (q = d.toNat ∨ w64 = true ∧ q = d.toNat + 1)) → t.me.v32 q l = s.me.v32 q l) ∧
    t.me.sreg = s.me.sreg ∧ t.me.kreg = s.me.kreg ∧ t.me.flags = s.me.flags ||| fl)

/-- The word writes `p l` to the bit of predicate register `kd` of each active lane `l` and raises the flags `fl`; a write to k0 is
discarded (R18); every other register and the other bits of that one stay. -/
def WritesMask (i : Instr) (s : State) (kd : BitVec 3) (p : Nat → Bool) (fl : BitVec 6) : Prop :=
  RegisterWord i s (fun t => (∀ l, (s.lanes i).getLsbD l = true → kd ≠ 0 → (t.me.k kd.toNat).getLsbD l = p l) ∧
    (∀ q l, ¬ ((s.lanes i).getLsbD l = true ∧ q = kd.toNat ∧ kd ≠ 0) → (t.me.k q).getLsbD l = (s.me.k q).getLsbD l) ∧
    t.me.sreg = s.me.sreg ∧ t.me.vreg = s.me.vreg ∧ t.me.flags = s.me.flags ||| fl)

/-! ## Forms of words, by shape -/

/-- Flags the active lanes of a word raise together (R188). -/
def lanesFlags (act : LaneMask) (g : Nat → BitVec 6) : BitVec 6 := (lanesOf act).foldl (fun fl l => fl ||| g l) 0

/-- A scalar `sD, sA, b` word writes `f a b` (R163); an 8-bit immediate is sign-extended when `sgn` (R160). -/
def ScalarForm (i : Instr) (s : State) (o : SBin) (sgn : Bool) (f : W64 → W64 → W64) : Prop :=
  s.ready i = true → WritesScalar i s o.w64 o.d (f ((s.sees i).sw o.w64 o.a.toNat) ((s.sees i).ssrc o.w64 sgn o.b))

/-- A scalar `sD, sA` word writes `f a`. -/
def ScalarUnaryForm (i : Instr) (s : State) (o : SUn) (f : W64 → W64) : Prop :=
  s.ready i = true → WritesScalar i s o.w64 o.d (f ((s.sees i).sw o.w64 o.a.toNat))

/-- A vector `vD, vA, b` word writes `f a b` in each active lane and raises the flags of all of them (R184, R188). -/
def VectorForm (i : Instr) (s : State) (o : VBin) (sgn : Bool) (f : W64 → W64 → W64 × BitVec 6) : Prop :=
  s.ready i = true → s.me.kind = .group →
    let r (l : Nat) := f ((s.sees i).vw o.w64 o.a.toNat l) ((s.sees i).vsrc o.w64 sgn l o.b)
    WritesLanes i s o.w64 o.d (fun l => (r l).1) (lanesFlags (s.lanes i) (fun l => (r l).2))

/-- A vector `vD, vA` word writes `f a` in each active lane. -/
def VectorUnaryForm (i : Instr) (s : State) (o : VUn) (f : W64 → W64 × BitVec 6) : Prop :=
  s.ready i = true → s.me.kind = .group →
    let r (l : Nat) := f ((s.sees i).vw o.w64 o.a.toNat l)
    WritesLanes i s o.w64 o.d (fun l => (r l).1) (lanesFlags (s.lanes i) (fun l => (r l).2))

/-- A vector `vD, vA, b, vC` word writes `f a b c` in each active lane. -/
def VectorTernaryForm (i : Instr) (s : State) (o : VBin) (sgn : Bool) (vc : BitVec 8) (f : W64 → W64 → W64 → W64 × BitVec 6) : Prop :=
  s.ready i = true → s.me.kind = .group →
    let r (l : Nat) := f ((s.sees i).vw o.w64 o.a.toNat l) ((s.sees i).vsrc o.w64 sgn l o.b) ((s.sees i).vw o.w64 vc.toNat l)
    WritesLanes i s o.w64 o.d (fun l => (r l).1) (lanesFlags (s.lanes i) (fun l => (r l).2))

/-- A floating `vD, vA, b[, vC]` word of a format writes `f a b c` of the patterns in each active lane; `checked` words complete so
when no fault upsets their pipe: the shadow check never fails a working datapath (R109). -/
def FloatForm (i : Instr) (s : State) (g : FF) (pk : Bool) (o : FBin) (vc : Option (BitVec 8)) (checked : Bool) (f : Nat → Nat → Nat → Nat × BitVec 6) : Prop :=
  s.ready i = true → s.me.kind = .group → (checked = true → s.upsetAt s.me (s.lanes i) = none) →
    let r (l : Nat) := f ((s.sees i).vw g.wide o.a.toNat l).toNat ((s.sees i).fsrc g pk l o.b).toNat
      (match vc with | some c => ((s.sees i).vw g.wide c.toNat l).toNat | none => 0)
    WritesLanes i s g.wide o.d (fun l => BitVec.ofNat 64 (r l).1) (lanesFlags (s.lanes i) (fun l => (r l).2))

/-- A floating `vD, vA` word; `wd` is the width of its result. -/
def FloatUnaryForm (i : Instr) (s : State) (g : FF) (wd : Bool) (o : FUn) (f : Nat → Nat × BitVec 6) : Prop :=
  s.ready i = true → s.me.kind = .group →
    let r (l : Nat) := f ((s.sees i).vw g.wide o.a.toNat l).toNat
    WritesLanes i s wd o.d (fun l => BitVec.ofNat 64 (r l).1) (lanesFlags (s.lanes i) (fun l => (r l).2))

/-- An integer kept at a width, or with `sat` clamped to the signed range of the width under SAT (R90, R189). -/
def keptAt (w64 sat : Bool) (z : Int) : W64 × BitVec 6 :=
  let top : Int := 2 ^ (bitsAt w64 - 1)
  if sat ∧ z < -top then (BitVec.ofInt 64 (-top), flSAT)
  else if sat ∧ top ≤ z then (BitVec.ofInt 64 (top - 1), flSAT)
  else (BitVec.ofInt 64 z, 0)

/-- The integer conditions of R147 at a width. -/
def iccMeans (cc : ICC) (w64 : Bool) (a b : W64) : Bool :=
  match cc with
  | .eq => a == b
  | .ne => a != b
  | .lt => signedAt w64 a < signedAt w64 b
  | .le => signedAt w64 a ≤ signedAt w64 b
  | .gt => signedAt w64 b < signedAt w64 a
  | .ge => signedAt w64 b ≤ signedAt w64 a
  | .ltu => a.toNat < b.toNat
  | .leu => a.toNat ≤ b.toNat
  | .gtu => b.toNat < a.toNat
  | .geu => b.toNat ≤ a.toNat

/-- The word completes with the agent's program counter at `pc`; nothing but the clocks, the count of free values and the running agent
has changed. -/
def Goes (i : Instr) (s : State) (pc : W64) (p : State → Prop) : Prop :=
  Completes i s (fun t => KeptButMe s t ∧ t.cur = s.cur ∧ t.me.pc = pc ∧ p t)

/-- The address of the word after `i`. -/
def State.after (s : State) (i : Instr) : W64 := s.me.pc + BitVec.ofNat 64 i.size

/-- The word takes the trap `t` at step 6 of R155, in place of completing. -/
def Traps (i : Instr) (s : State) (t : Trap) : Prop := exec i s = (s.begun i).takeTrap s.cur t

/-- A step of the hardware that is no word: it answers a next state with the property `p`. -/
def Steps (i : Instr) (s : State) (p : State → Prop) : Prop := Completes i s p

/-- The word completes (R155) with the state, the register writes, the flags, the next program counter and the wait of `d`. -/
def Ends (i : Instr) (s : State) (d : Done) : Prop :=
  exec i s = .next (State.complete s.cur (s.shapeOf i) (s.startOf i) i.size d)

/-- A generic address names `n` aligned bytes of the agent's scratchpad allocation, at byte `o` of core `ck` (R40, R217). -/
def State.AtSpad (s : State) (ea : W64) (n ck o : Nat) : Prop :=
  aperOf ea = .spad ∧ ea.toNat % n = 0 ∧ (s.teamOf s.me).spadPlace (aperOff ea) = some (.spad ck o)

/-- The same, and no word among the bytes holds an uncorrectable error (R448). -/
def State.ReadsSpad (s : State) (ea : W64) (n ck o : Nat) : Prop := s.AtSpad ea n ck o ∧ (s.co ck).badAt o n = false

/-- The `n` bytes an agent reads at a scratchpad place: for each byte its youngest own store, else what the scratchpad holds (R220). -/
def State.spadValue (s : State) (n ck o : Nat) : Nat :=
  leNat ((List.range n).map (fun j => (fwdByte s.me.sq (.spad ck o) j).getD (memGet (s.co ck).scratch (o + j))))

/-- The word writes the low `k` words of `val l` to registers from `d` up in each active lane, in the register class of its agent (R14, R215,
R219); every other register and lane, and the flags, stay. -/
def LoadsLanes (i : Instr) (s : State) (k : Nat) (d : BitVec 8) (val : Nat → Nat) : Prop :=
  RegisterWord i s (fun t =>
    (∀ l j, (s.lanes i).getLsbD l = true → j < k → t.me.v32 (d.toNat + j) l = BitVec.ofNat 32 (val l / 2 ^ (32 * j))) ∧
    (s.me.kind = .group → t.me.sreg = s.me.sreg ∧
      ∀ q l, l < 64 → ¬ ((s.lanes i).getLsbD l = true ∧ d.toNat ≤ q ∧ q < d.toNat + k) → t.me.v32 q l = s.me.v32 q l) ∧
    (s.me.kind ≠ .group → ∀ q, ¬ (d.toNat ≤ q ∧ q < d.toNat + k) → t.me.s32 q = s.me.s32 q) ∧
    t.me.kreg = s.me.kreg ∧ t.me.flags = s.me.flags)

/-- A load of `n` bytes into `k` registers at places `ck l`, `o l` of the scratchpad. -/
def SpadLoad (i : Instr) (s : State) (n k : Nat) (o : MemOp) (ck off : Nat → Nat) : Prop :=
  s.ready i = true → s.owes s.cur = false → o.ord = none →
  (∀ l, (s.lanes i).getLsbD l = true → s.ReadsSpad ((s.sees i).ea o.addr l) n (ck l) (off l)) →
    LoadsLanes i s k o.d (fun l => s.spadValue n (ck l) (off l))

/-- A store of `n` bytes at places `ck l`, `o l` of the scratchpad, no armed postbox among them: each active lane's entries, two of 8
bytes for 16, enter the store queue in ascending lanes, and nothing else changes (R219, R220, R332). -/
def SpadStore (i : Instr) (s : State) (n : Nat) (o : MemOp) (ck off : Nat → Nat) : Prop :=
  s.ready i = true → s.owes s.cur = false → o.ord = none →
  (∀ l, (s.lanes i).getLsbD l = true → s.AtSpad ((s.sees i).ea o.addr l) n (ck l) (off l)) →
    (s.teamOf s.me).pbx = [] →
    let entries (l : Nat) : List SqEntry := storeEntries ((s.sees i).ea o.addr l) (.spad (ck l) (off l)) .pv n ((s.sees i).storeData n o.d.toNat l) .none
    let queue := s.me.sq ++ (lanesOf (s.lanes i)).flatMap entries
    Goes i s (s.after i) (fun t => SameRegs s.me t.me ∧ t.me.rest = ({ s.me with sq := queue } : Agent).rest)

/-- A load of `n` bytes wherever its lanes lie, every lane accessible at the spots `sp`: with no line still to come from another package it reads
`xs` and writes its registers, or traps for the lowest lane that aborts; else it asks for those lines and stays where it is. -/
def AnyLoad (i : Instr) (s : State) (n : Nat) (o : MemOp) : Prop :=
  s.ready i = true → s.owes s.cur = false → ∀ sp u,
    (s.begun i).laneChecks (s.sees i) ((lanesOf (s.lanes i)).map (fun l => (l, (s.sees i).ea o.addr l))) n .read = (.ok sp, u) →
    let misses := u.remoteMisses (s.sees i) n sp
    let got := u.loadGot s.cur (s.sees i) n o.hint sp
    (∀ xs v, misses = [] → got = (.ok xs, v) → Ends i s { s := v.acqOpt s.cur o.ord, ws := wLoad (max 1 (n / 4)) o.d.toNat xs }) ∧
    (∀ e l ea v, misses = [] → got = (.error (e, l, ea), v) → exec i s = v.takeTrap s.cur (loadTrap e l ea)) ∧
    (misses ≠ [] → exec i s = .next (u.askLines s.cur (s.sees i) misses).s)

/-- A store of `n` bytes wherever its lanes lie, its agent owing no store abort and no access in another package: the release of `.rel` first, then one store a lane. -/
def AnyStore (i : Instr) (s : State) (n : Nat) (o : MemOp) : Prop :=
  s.ready i = true → s.me.storeAbort = false → s.owes s.cur = false → ∀ sp u,
    (s.begun i).laneChecks (s.sees i) ((lanesOf (s.lanes i)).map (fun l => (l, (s.sees i).ea o.addr l))) n .write = (.ok sp, u) →
    let u' : State := match o.ord with | none => u | some sc => u.release s.cur sc
    Ends i s { s := sp.foldl (fun u p => u.pushStore s.cur p.2.1 p.2.2 n ((s.sees i).storeData n o.d.toNat p.1) o.hint) u' }

/-- An access of `n` bytes at the lanes' addresses `ea` stops on the first condition of R217 any lane meets, its lowest lane named: a refused
aperture, else a misaligned address. -/
def AccessStops (i : Instr) (s : State) (ea : Nat → W64) (n : Nat) (kind : AKind) : Prop :=
  s.ready i = true → s.owes s.cur = false → ∀ l, (s.lanes i).getLsbD l = true →
    (addrBad s s.me (ea l) kind = true → (∀ q, q < l → (s.lanes i).getLsbD q = true → addrBad s s.me (ea q) kind = false) →
      Traps i s { cause := .addr, addr := ea l, lane := l }) ∧
    ((∀ q, (s.lanes i).getLsbD q = true → addrBad s s.me (ea q) kind = false) → (ea l).toNat % n ≠ 0 →
      (∀ q, q < l → (s.lanes i).getLsbD q = true → (ea q).toNat % n = 0) → Traps i s { cause := .align, addr := ea l, lane := l })

/-- The address `ea` names the postbox at offset `off` of the agent's team, byte `o` of core `ck` (R32, R233). -/
def State.PbxAt (s : State) (ea : W64) (off ck o : Nat) : Prop :=
  pbxArg (s.teamOf s.me) ea = .ok off ∧ (s.teamOf s.me).pbxPlace off = some (ck, o) ∧ Mem.wf (s.co ck).scratch = true

/-- A postbox word ends with the postbox at byte `o` of core `ck` holding `p` and the team's armed postboxes `tab`; registers, every other byte
of memory and every other agent stay. -/
def PbxEnds (i : Instr) (s : State) (ck o : Nat) (p : Pbx) (tab : Tab Scope) : Prop :=
  Completes i s (fun u => u.cur = s.cur ∧ u.pbxAt ck o = p ∧ (u.tm s.me.team).pbx = tab ∧ u.me.pc = s.after i ∧ SameRegs s.me u.me ∧ u.mem = s.mem ∧ u.dies = s.dies ∧
    (∀ a, ¬ (o ≤ a ∧ a < o + 16) → memGet (u.co ck).scratch a = memGet (s.co ck).scratch a) ∧ (∀ k, k ≠ ck → u.co k = s.co k) ∧
    ∀ k, k ≠ s.cur → u.ag k = s.ag k)

/-- A sweep of a `tew` word over the entries `src` (R265–R270): a check that fails traps; a sweep that meets nothing writes every element from the
counters on, clears them and raises its flags; one that stops keeps its place in the counters and traps, its flags raised on a page fault
alone. -/
def SweepForm (i : Instr) (s : State) (o : TewC) (src : List (BitVec 6)) (ok : Tens → List Tens → Bool × Bool)
    (comp : List Tens → Nat → Nat → State → List Nat → Except TStop (Ex × BitVec 6) × State) (conv : Tens → List Tens → Ex → Nat → Nat × BitVec 6) : Prop :=
  let d := s.entry s.me o.td
  let es := src.map (s.entry s.me)
  let ts := es.map TEntry.t
  let lane := (lanesOf (s.lanes i)).headD 0
  let u := d.t.unit
  let left := d.t.count - d.start
  let b := (s.begun i).drainAll s.cur
  let run := sweepFrom (sweepUnit s.cur lane s.me.width true d.t o.rnd (comp ts s.cur lane) (conv d.t ts)) u ((left + u - 1) / u) d.start ⟨b, (b.ag s.cur).rng, 0⟩
  let kept (z : Sweep) : State := z.s.setAg s.cur { z.s.ag s.cur with rng := z.rng }
  let check := tewCheck d es (ok d.t ts).1 (ok d.t ts).2
  s.ready i = true →
  (∀ t, check = some t → Traps i s t) ∧
  (check = none → s.owes s.cur = false → ∀ z, run = (z, none) → Ends i s { s := ((kept z).putIdx s.me.team o.td.toNat []).advance ((left + 15) / 16), fl := z.fl }) ∧
  (check = none → s.owes s.cur = false → ∀ z k e, run = (z, some (k, e)) →
    let r := (kept z).putIdx s.me.team o.td.toNat (d.t.counters k)
    exec i s = (r.setAg s.cur { r.ag s.cur with flags := (r.ag s.cur).flags ||| e.flags z.fl }).takeTrap s.cur (e.trap 0xFF))

/-- A `tew` form over FP32 patterns whose elements `f` gives. -/
def MapForm (i : Instr) (s : State) (o : TewC) (src : List (BitVec 6)) (f : List Nat → Ex × BitVec 6) : Prop :=
  SweepForm i s o src mapOk (mapElem (fun _ _ xs => f xs) (s.sees i)) (tewConv o)

/-- A courier word that places the command `x` in queue `q` with room for it (R274): its receipt is named, the command stands last in the queue, and
what `upd` changes of the context changes; nothing else does. No earlier access of the context to another package is under way (R334). -/
def Places (i : Instr) (s : State) (q : Nat) (x : Cmd) (upd : CCtx → CCtx) : Prop :=
  s.me.sq = [] → s.owes s.cur = false → (s.cc s.cur).staged = none → ((s.cc s.cur).rcpt x.rcpt).count < 255 → ((s.cc s.cur).queue q).length < qDepth q →
  Completes i s (fun u => u.cc s.cur = upd (((s.cc s.cur).name x.rcpt).push q { x with placed := (s.begun i).cycle }) ∧ (∀ k, k ≠ s.cur → u.cc k = s.cc k) ∧
    u.todo = s.todo ++ [.commandStart s.cur q] ∧ u.me.pc = s.after i ∧ SameRegs s.me u.me ∧ u.mem = s.mem ∧ u.dies = s.dies ∧ u.cores = s.cores ∧
    u.teams = s.teams ∧ ∀ k, k ≠ s.cur → u.ag k = s.ag k)

end Sys2Proof.Machine
end

