-- ==== Sys2Proof/Certificates/Slice0/Obligations.lean ====
section
/-! DEFINITION. The statements about the machine, one `Prop` each; each docstring names the rules of spec/ it states. -/

open Sys2Proof Sys2Proof.Machine

/-! ## Scalar words (R161–R170) -/

/-- R163: the two-operand scalar instructions at width n, wrapping, with the frame of a word that writes one scalar result. -/
def Sys2Proof.Claims.ScalarArithmetic : Prop := ∀ (s : State) (c : Ctl) (sgn : Bool) (o : SBin),
  let n := bitsAt o.w64
  ScalarForm (.sadd c o) s o true (fun a b => a + b) ∧
  ScalarForm (.ssub c o) s o true (fun a b => a - b) ∧
  ScalarForm (.smul c o) s o true (fun a b => a * b) ∧
  ScalarForm (.smulh c sgn o) s o false (fun a b => if sgn then BitVec.ofInt 64 (signedAt o.w64 a * signedAt o.w64 b / 2 ^ n) else BitVec.ofNat 64 (a.toNat * b.toNat / 2 ^ n)) ∧
  ScalarForm (.sand c o) s o false (fun a b => a &&& b) ∧
  ScalarForm (.sor c o) s o false (fun a b => a ||| b) ∧
  ScalarForm (.sxor c o) s o false (fun a b => a ^^^ b) ∧
  ScalarForm (.sshl c o) s o false (fun a b => a <<< (b.toNat % n)) ∧
  ScalarForm (.sshr c o) s o false (fun a b => a >>> (b.toNat % n)) ∧
  ScalarForm (.ssra c o) s o false (fun a b => BitVec.ofInt 64 (signedAt o.w64 a / 2 ^ (b.toNat % n))) ∧
  ScalarForm (.smin c sgn o) s o true (fun a b =>
    if (if sgn then signedAt o.w64 b < signedAt o.w64 a else b.toNat < a.toNat) then b else a) ∧
  ScalarForm (.smax c sgn o) s o true (fun a b =>
    if (if sgn then signedAt o.w64 a < signedAt o.w64 b else a.toNat < b.toNat) then b else a)

/-- R163: counts of leading zeros and of ones. -/
def Sys2Proof.Claims.ScalarCounts : Prop := ∀ (s : State) (c : Ctl) (o : SUn),
  ScalarUnaryForm (.sclz c o) s o (fun a => a.clz - BitVec.ofNat 64 (64 - bitsAt o.w64)) ∧
  ScalarUnaryForm (.spopc c o) s o (fun a => a.cpop)

/-- R164: the unsigned quotient, all ones for a zero divisor; the pipe's one divider is taken from the word's first pass for 20 or 36
cycles, and the result lands then. -/
def Sys2Proof.Claims.ScalarDivide : Prop := ∀ (s : State) (c : Ctl) (o : SBin), s.ready (.sdivu c o) = true → s.me.held = none →
  let v := s.sees (.sdivu c o)
  let a := v.sw o.w64 o.a.toNat
  let b := v.ssrc o.w64 false o.b
  let start := s.startOf (.sdivu c o)
  let t20 := if o.w64 then 36 else 20
  Completes (.sdivu c o) s (fun t =>
    t.me.sw o.w64 o.d.toNat = (if b = 0 then atWidth o.w64 (BitVec.allOnes 64) else a / b) ∧
    (∀ q, q ≠ o.d.toNat → (o.w64 = true → q ≠ o.d.toNat + 1) → t.me.s32 q = s.me.s32 q) ∧
    t.me.vreg = s.me.vreg ∧ t.me.kreg = s.me.kreg ∧ t.me.flags = s.me.flags ∧ t.me.pc = s.me.pc + BitVec.ofNat 64 (Instr.size (.sdivu c o)) ∧
    tget (s.co s.me.ck).divFree s.me.pipe ≤ start ∧ tget (t.co s.me.ck).divFree s.me.pipe = start + t20 ∧
    (⟨.s, o.d.toNat, start + t20⟩ : InFlight) ∈ t.me.inflight ∧
    t.mem = s.mem ∧ ∀ k, k ≠ s.cur → t.ag k = s.ag k)

/-- R163, R164: the scalar arithmetic and division words, their results and their frame. -/
def Obligations.ScalarOperations : Prop := Claims.ScalarArithmetic ∧ Claims.ScalarDivide

/-- R165 to R167: bit fields, the address sum and the select. -/
def Sys2Proof.Claims.ScalarFields : Prop := ∀ (s : State) (c : Ctl) (o : SBin) (sc : BitVec 6) (sh : BitVec 4) (kc : BitVec 3),
  let n := bitsAt o.w64
  let pos (b : W64) : Nat := b.toNat % 128
  let len (b : W64) : Nat := min (b.toNat / 256 % 128) n
  ScalarForm (.sbfe c o) s o false (fun a b => (a >>> pos b) &&& BitVec.ofNat 64 (2 ^ len b - 1)) ∧
  ScalarForm (.sbfi c o sc) s o false (fun a b =>
    let m : W64 := BitVec.ofNat 64 (2 ^ len b - 1) <<< pos b
    ((s.sees (.sbfi c o sc)).sw o.w64 sc.toNat &&& ~~~ m) ||| ((a <<< pos b) &&& m)) ∧
  (s.ready (.slea c sh o sc) = true →
    let v := s.sees (.slea c sh o sc)
    let i : W64 := match o.b with
      | .reg r => if o.w64 then v.s64 r.toNat else (v.s32 r.toNat).signExtend 64
      | .imm x => x.setWidth 64
      | .lit l => litVal o.w64 l
    WritesScalar (.slea c sh o sc) s true o.d (v.s64 o.a.toNat + (i <<< sh.toNat) + (v.s32 sc.toNat).signExtend 64)) ∧
  (s.ready (.ssel c o kc) = true → ∀ l, (s.lanes (.ssel c o kc)).getLsbD l = true → (∀ m, m < l → (s.lanes (.ssel c o kc)).getLsbD m = false) →
    let v := s.sees (.ssel c o kc)
    WritesScalar (.ssel c o kc) s o.w64 o.d (if (v.k kc.toNat).getLsbD l then v.sw o.w64 o.a.toNat else v.ssrc o.w64 false o.b))

/-- R163, R165–R167: counts, bit fields, the address sum and the select. -/
def Obligations.ScalarBitFields : Prop := Claims.ScalarCounts ∧ Claims.ScalarFields

/-- R161: a move to a scalar register, or to every active lane of a vector register. -/
def Sys2Proof.Claims.Moves : Prop := ∀ (s : State) (c : Ctl) (w64 : Bool) (b : SSrc) (ds : BitVec 6) (dv : BitVec 8),
  (s.ready (.movi c w64 (.s ds) b) = true → WritesScalar (.movi c w64 (.s ds) b) s w64 ds ((s.sees (.movi c w64 (.s ds) b)).ssrc w64 true b)) ∧
  (s.ready (.movi c w64 (.v dv) b) = true → s.me.kind = .group →
    WritesLanes (.movi c w64 (.v dv) b) s w64 dv (fun l => (s.sees (.movi c w64 (.v dv) b)).ssrcAt w64 true l b) 0)

/-- R168: the comparison's result goes to every active lane of kD and to no other. -/
def Sys2Proof.Claims.ScalarCompare : Prop := ∀ (s : State) (c : Ctl) (cc : ICC) (w64 : Bool) (kd : BitVec 3) (sa : BitVec 6) (b : SSrc),
  s.ready (.scmp c cc w64 kd sa b) = true →
  let v := s.sees (.scmp c cc w64 kd sa b)
  WritesMask (.scmp c cc w64 kd sa b) s kd (fun _ => iccMeans cc w64 (v.sw w64 sa.toNat) (v.ssrc w64 true b)) 0

/-- R169: the predicate operations lane by lane. -/
def Sys2Proof.Claims.Predicates : Prop := ∀ (s : State) (c : Ctl) (kd ka kb : BitVec 3),
  let bit (i : Instr) (k : BitVec 3) (l : Nat) : Bool := ((s.sees i).k k.toNat).getLsbD l
  (s.ready (.kand c kd ka kb) = true → WritesMask (.kand c kd ka kb) s kd (fun l => bit (.kand c kd ka kb) ka l && bit (.kand c kd ka kb) kb l) 0) ∧
  (s.ready (.kor c kd ka kb) = true → WritesMask (.kor c kd ka kb) s kd (fun l => bit (.kor c kd ka kb) ka l || bit (.kor c kd ka kb) kb l) 0) ∧
  (s.ready (.kxor c kd ka kb) = true → WritesMask (.kxor c kd ka kb) s kd (fun l => bit (.kxor c kd ka kb) ka l != bit (.kxor c kd ka kb) kb l) 0) ∧
  (s.ready (.knot c kd ka) = true → WritesMask (.knot c kd ka) s kd (fun l => !bit (.knot c kd ka) ka l) 0) ∧
  (s.ready (.kmov c kd ka) = true → WritesMask (.kmov c kd ka) s kd (fun l => bit (.kmov c kd ka) ka l) 0)

/-- R170: the mask reductions over the active lanes whose bit of kA is set. -/
def Sys2Proof.Claims.MaskReductions : Prop := ∀ (s : State) (c : Ctl) (d : BitVec 6) (ka : BitVec 3),
  let m (i : Instr) : LaneMask := s.lanes i &&& (s.sees i).k ka.toNat
  (s.ready (.kpopc c d ka) = true → WritesScalar (.kpopc c d ka) s false d (m (.kpopc c d ka)).cpop) ∧
  (s.ready (.kfirst c d ka) = true →
    (m (.kfirst c d ka) = 0 → WritesScalar (.kfirst c d ka) s false d 0xFFFFFFFF) ∧
    ∀ l, (m (.kfirst c d ka)).getLsbD l = true → (∀ q, q < l → (m (.kfirst c d ka)).getLsbD q = false) →
      WritesScalar (.kfirst c d ka) s false d (BitVec.ofNat 64 l)) ∧
  (s.ready (.kany c d ka) = true → WritesScalar (.kany c d ka) s false d (if m (.kany c d ka) = 0 then 0 else 1)) ∧
  (s.ready (.kall c d ka) = true → WritesScalar (.kall c d ka) s false d (if m (.kall c d ka) = s.lanes (.kall c d ka) then 1 else 0))

/-- R161, R168–R170: moves, scalar compares, predicate operations and mask reductions. -/
def Obligations.MovesComparesAndMasks : Prop := Claims.Moves ∧ Claims.ScalarCompare ∧ Claims.Predicates ∧ Claims.MaskReductions

/-! ## Vector words (R184–R213) -/

/-- R189, R190, R193: the two- and three-operand integer instructions in each active lane; a `.sat` result is the exact one clamped to the
signed range, under SAT. -/
def Obligations.VectorInteger : Prop := ∀ (s : State) (c : Ctl) (sat sgn : Bool) (o : VBin) (vc : BitVec 8),
  let n := bitsAt o.w64
  let z (x : W64) : Int := signedAt o.w64 x
  VectorForm (.vadd c sat o) s o false (fun a b => keptAt o.w64 sat (z a + z b)) ∧
  VectorForm (.vsub c sat o) s o false (fun a b => keptAt o.w64 sat (z a - z b)) ∧
  VectorForm (.vmul c sat o) s o false (fun a b => keptAt o.w64 sat (z a * z b)) ∧
  VectorTernaryForm (.vmad c sat o vc) s o false vc (fun a b x => keptAt o.w64 sat (z a * z b + z x)) ∧
  VectorForm (.vmulh c sgn o) s o sgn (fun a b => (if sgn then BitVec.ofInt 64 (z a * z b / 2 ^ n) else BitVec.ofNat 64 (a.toNat * b.toNat / 2 ^ n), 0)) ∧
  VectorForm (.vand c o) s o false (fun a b => (a &&& b, 0)) ∧
  VectorForm (.vor c o) s o false (fun a b => (a ||| b, 0)) ∧
  VectorForm (.vxor c o) s o false (fun a b => (a ^^^ b, 0)) ∧
  VectorForm (.vshl c o) s o false (fun a b => (a <<< (b.toNat % n), 0)) ∧
  VectorForm (.vshr c false o) s o false (fun a b => (a >>> (b.toNat % n), 0)) ∧
  VectorForm (.vshr c true o) s o true (fun a b =>
    let k := (b.setWidth 8).toInt
    (if (n : Int) ≤ |k| then 0 else if k < 0 then a <<< k.natAbs else a >>> k.natAbs, 0)) ∧
  VectorForm (.vsra c o) s o false (fun a b => (BitVec.ofInt 64 (z a / 2 ^ (b.toNat % n)), 0)) ∧
  VectorForm (.vmin c sgn o) s o sgn (fun a b => (if (if sgn then z b < z a else b.toNat < a.toNat) then b else a, 0)) ∧
  VectorForm (.vmax c sgn o) s o sgn (fun a b => (if (if sgn then z a < z b else a.toNat < b.toNat) then b else a, 0))

/-- R191, R192: the one-source integer instructions in each active lane. -/
def Sys2Proof.Claims.VectorUnary : Prop := ∀ (s : State) (c : Ctl) (o : VUn) (sgn : Bool),
  let n := bitsAt o.w64
  let clamp (lo hi : Int) (a : W64) : W64 × BitVec 6 :=
    let x : Int := if sgn then signedAt o.w64 a else a.toNat
    if x < lo then (BitVec.ofInt 64 lo, flSAT) else if hi < x then (BitVec.ofInt 64 hi, flSAT) else (a, 0)
  VectorUnaryForm (.vnot c o) s o (fun a => (~~~ a, 0)) ∧
  VectorUnaryForm (.vabs c o) s o (fun a => (BitVec.ofInt 64 |signedAt o.w64 a|, 0)) ∧
  VectorUnaryForm (.vclz c o) s o (fun a => (a.clz - BitVec.ofNat 64 (64 - n), 0)) ∧
  VectorUnaryForm (.vpopc c o) s o (fun a => (a.cpop, 0)) ∧
  VectorUnaryForm (.vbrev c o) s o (fun a => (a.reverse >>> (64 - n), 0)) ∧
  VectorUnaryForm (.vsat c .i8 sgn o) s o (clamp (-128) 127) ∧
  VectorUnaryForm (.vsat c .u8 sgn o) s o (clamp 0 255) ∧
  VectorUnaryForm (.vsat c .i16 sgn o) s o (clamp (-32768) 32767) ∧
  VectorUnaryForm (.vsat c .i32 sgn o) s o (clamp (-2147483648) 2147483647)

/-- R193: a field of m bits at pos, zero- or sign-extended, and a field put into vC. -/
def Sys2Proof.Claims.VectorFields : Prop := ∀ (s : State) (c : Ctl) (o : VBin) (vc : BitVec 8),
  let n := bitsAt o.w64
  VectorTernaryForm (.vbfe c false o vc) s o false vc (fun a b x => ((a >>> (b.toNat % 128)) &&& BitVec.ofNat 64 (2 ^ min (x.toNat % 128) n - 1), 0)) ∧
  VectorTernaryForm (.vbfe c true o vc) s o true vc (fun a b x =>
    let m := min (x.toNat % 128) n
    let f : W64 := (a >>> (b.toNat % 128)) &&& BitVec.ofNat 64 (2 ^ m - 1)
    (if m ≠ 0 ∧ f.getLsbD (m - 1) = true then f ||| ~~~ BitVec.ofNat 64 (2 ^ m - 1) else f, 0)) ∧
  VectorTernaryForm (.vbfi c o vc) s o false vc (fun a b x =>
    let m : W64 := BitVec.ofNat 64 (2 ^ min (b.toNat / 256 % 128) n - 1) <<< (b.toNat % 128)
    ((x &&& ~~~ m) ||| ((a <<< (b.toNat % 128)) &&& m), 0))

/-- R194, R195: the compare into a mask and the select by one. -/
def Sys2Proof.Claims.VectorCompareSelect : Prop := ∀ (s : State) (c : Ctl) (cc : ICC) (w64 : Bool) (kd kc : BitVec 3) (va : BitVec 8) (b : VSrc) (o : VBin),
  (s.ready (.vcmp c cc w64 kd va b) = true →
    let v := s.sees (.vcmp c cc w64 kd va b)
    WritesMask (.vcmp c cc w64 kd va b) s kd (fun l => iccMeans cc w64 (v.vw w64 va.toNat l) (v.vsrc w64 true l b)) 0) ∧
  (s.ready (.vsel c o kc) = true → s.me.kind = .group →
    let v := s.sees (.vsel c o kc)
    WritesLanes (.vsel c o kc) s o.w64 o.d (fun l => if (v.k kc.toNat).getLsbD l then v.vw o.w64 o.a.toNat l else v.vsrc o.w64 false l o.b) 0)

/-- R196, R197, R200: the floating two- and three-source instructions of FP32, FP64 and the packed formats: the exact result rounded once
(R97, R101); the shadow check of R109 never stops one whose datapath works. -/
def Sys2Proof.Claims.FloatArithmetic : Prop := ∀ (s : State) (c : Ctl) (rnd : Rnd) (bf : Bool) (o : FBin) (vc : BitVec 8),
  let h := halfFF bf
  FloatForm (.faddF32 c rnd o) s ff32 false o none true (fAdd ff32 rnd) ∧
  FloatForm (.fsubF32 c rnd o) s ff32 false o none true (fSub ff32 rnd) ∧
  FloatForm (.fmulF32 c rnd o) s ff32 false o none true (fMul ff32 rnd) ∧
  FloatForm (.fmaF32 c rnd o vc) s ff32 false o (some vc) true (fFma ff32 rnd) ∧
  FloatForm (.fminF32 c o) s ff32 false o none false (fMinMax ff32 false) ∧
  FloatForm (.fmaxF32 c o) s ff32 false o none false (fMinMax ff32 true) ∧
  FloatForm (.faddF64 c rnd o) s ff64 false o none false (fAdd ff64 rnd) ∧
  FloatForm (.fsubF64 c rnd o) s ff64 false o none false (fSub ff64 rnd) ∧
  FloatForm (.fmulF64 c rnd o) s ff64 false o none false (fMul ff64 rnd) ∧
  FloatForm (.fmaF64 c rnd o vc) s ff64 false o (some vc) false (fFma ff64 rnd) ∧
  FloatForm (.fminF64 c o) s ff64 false o none false (fMinMax ff64 false) ∧
  FloatForm (.fmaxF64 c o) s ff64 false o none false (fMinMax ff64 true) ∧
  FloatForm (.hadd2 c bf rnd o) s h true o none bf (packed (fAdd h rnd)) ∧
  FloatForm (.hmul2 c bf rnd o) s h true o none bf (packed (fMul h rnd)) ∧
  FloatForm (.hfma2 c bf rnd o vc) s h true o (some vc) bf (packed (fFma h rnd)) ∧
  FloatForm (.hmin2 c bf o) s h true o none false (packed (fMinMax h false)) ∧
  FloatForm (.hmax2 c bf o) s h true o none false (packed (fMinMax h true))

/-- R196, R198, R199, R201: |a| and −a, the class mask, the special functions of R202, and the compare. -/
def Sys2Proof.Claims.FloatUnary : Prop := ∀ (s : State) (c : Ctl) (o : FUn) (cc : FCC) (kd : BitVec 3) (va : BitVec 8) (b : VSrc),
  FloatUnaryForm (.fabsF32 c o) s ff32 false o (fAbs ff32) ∧ FloatUnaryForm (.fabsF64 c o) s ff64 true o (fAbs ff64) ∧
  FloatUnaryForm (.fnegF32 c o) s ff32 false o (fNeg ff32) ∧ FloatUnaryForm (.fnegF64 c o) s ff64 true o (fNeg ff64) ∧
  FloatUnaryForm (.fclassF32 c o) s ff32 false o (fun a => (fClass ff32 a, 0)) ∧ FloatUnaryForm (.fclassF64 c o) s ff64 false o (fun a => (fClass ff64 a, 0)) ∧
  FloatUnaryForm (.frcp c o) s ff32 false o (sfu 0) ∧ FloatUnaryForm (.frsq c o) s ff32 false o (sfu 1) ∧
  FloatUnaryForm (.fsqrt c o) s ff32 false o (sfu 2) ∧ FloatUnaryForm (.fexp2 c o) s ff32 false o (sfu 3) ∧
  FloatUnaryForm (.flog2 c o) s ff32 false o (sfu 4) ∧ FloatUnaryForm (.fsin c o) s ff32 false o (sfu 5) ∧
  FloatUnaryForm (.fcos c o) s ff32 false o (sfu 6) ∧ FloatUnaryForm (.ftanh c o) s ff32 false o (sfu 7) ∧
  (s.ready (.fcmpF32 c cc kd va b) = true →
    let v := s.sees (.fcmpF32 c cc kd va b)
    let x (l : Nat) : Ex := ff32.value (v.v32 va.toNat l).toNat
    let y (l : Nat) : Ex := ff32.value (v.fsrc ff32 false l b).toNat
    WritesMask (.fcmpF32 c cc kd va b) s kd (fun l => fccHolds cc (x l) (y l)) (lanesFlags (s.lanes (.fcmpF32 c cc kd va b)) (fun l => flIf ((x l).isSig || (y l).isSig) flNV))) ∧
  (s.ready (.fcmpF64 c cc kd va b) = true →
    let v := s.sees (.fcmpF64 c cc kd va b)
    let x (l : Nat) : Ex := ff64.value (v.v64 va.toNat l).toNat
    let y (l : Nat) : Ex := ff64.value (v.fsrc ff64 false l b).toNat
    WritesMask (.fcmpF64 c cc kd va b) s kd (fun l => fccHolds cc (x l) (y l)) (lanesFlags (s.lanes (.fcmpF64 c cc kd va b)) (fun l => flIf ((x l).isSig || (y l).isSig) flNV)))

/-- R196–R202: the floating words of FP32, FP64 and the packed formats. -/
def Obligations.FloatingPoint : Prop := Claims.FloatArithmetic ∧ Claims.FloatUnary

/-- R204, R205, R207: conversions of one element a lane and the unpacking of P4 codes; a conversion rounded stochastically draws once from the
generator of each active lane (R98). -/
def Sys2Proof.Claims.Conversions : Prop := ∀ (s : State) (c : Ctl) (o : CvtOp) (rnd : Rnd) (d va vb : BitVec 8),
  (s.ready (.cvt c o) = true → s.me.kind = .group →
    let act := s.lanes (.cvt c o)
    let v := s.sees (.cvt c o)
    let x (l : Nat) : Nat := (v.vw o.src.wide o.a.toNat l).toNat % 2 ^ o.src.bits
    let r (l : Nat) : Nat × BitVec 6 := if o.dst = .p4 then cvtP4 o.ty (elemValue o.src (x l) 0) o.rnd (v.drawOf l)
      else convElem o.dst o.src (x l) 0 o.rnd o.sat (v.drawOf l)
    (o.rnd ≠ .sr → WritesLanes (.cvt c o) s o.dst.wide o.d (fun l => BitVec.ofNat 64 (r l).1) (lanesFlags act (fun l => (r l).2))) ∧
    (o.rnd = .sr → Goes (.cvt c o) s (s.after (.cvt c o)) (fun t =>
      (∀ l, act.getLsbD l = true → t.me.vw o.dst.wide o.d.toNat l = atWidth o.dst.wide (BitVec.ofNat 64 (r l).1)) ∧
      (∀ q l, l < 64 → ¬ (act.getLsbD l = true ∧ (q = o.d.toNat ∨ o.dst.wide = true ∧ q = o.d.toNat + 1)) → t.me.v32 q l = s.me.v32 q l) ∧
      t.me.sreg = s.me.sreg ∧ t.me.kreg = s.me.kreg ∧ t.me.flags = s.me.flags ||| lanesFlags act (fun l => (r l).2) ∧
      ∀ l, tget t.me.rng l = if act.getLsbD l = true then (rngDraw (tget s.me.rng l)).2 else tget s.me.rng l))) ∧
  (s.ready (.p4unpack c rnd d va vb) = true → s.me.kind = .group →
    let v := s.sees (.p4unpack c rnd d va vb)
    WritesLanes (.p4unpack c rnd d va vb) s false d (fun l =>
      let word : W32 := if v.pres.getLsbD (l / 8) then v.v32 va.toNat (l / 8) else 0
      BitVec.ofNat 64 (roundTo ff32 (decodeP4 (word.toNat / 16 ^ (l % 8) % 16) ((v.v32 vb.toNat l).toNat % 256)) .rn false 0).1) 0)

/-- R206: `p4pack` packs each 32 lanes into a block: lanes below width / 8 take eight codes each and the scale bytes go to a scalar register; a
group of 16 lanes traps ILLEGAL. -/
def Sys2Proof.Claims.PackBlocks : Prop := ∀ (s : State) (c : Ctl) (o : PackOp), s.ready (.p4pack c o) = true → s.me.kind = .group →
  let i := Instr.p4pack c o
  let v := s.sees i
  let act := s.lanes i
  let block (j : Nat) := packBlock o.ty ((List.range 32).map (fun k => packIn v act o.sat o.a.toNat (32 * j + k))) ((List.range 32).map (fun k => v.drawOf (32 * j + k))) o.rnd
  (s.me.width < 32 → Traps i s { cause := .illegal }) ∧
  (32 ≤ s.me.width → Goes i s (s.after i) (fun t =>
    (∀ l, act.getLsbD l = true → l < s.me.width / 8 → ∀ k, k < 8 →
      (t.me.v32 o.d.toNat l).toNat / 16 ^ k % 16 = (((block (l / 4)).2.1)[8 * (l % 4) + k]?).getD 0 % 16) ∧
    (∀ q l, l < 64 → ¬ (act.getLsbD l = true ∧ l < s.me.width / 8 ∧ q = o.d.toNat) → t.me.v32 q l = s.me.v32 q l) ∧
    (∀ j, j < s.me.width / 32 → (t.me.s32 o.sb.toNat).toNat / 256 ^ j % 256 = (block j).1) ∧
    (∀ q, q ≠ o.sb.toNat → t.me.s32 q = s.me.s32 q) ∧ t.me.kreg = s.me.kreg))

/-- R204–R207: conversions, unpacking and packing of P4 blocks. -/
def Obligations.ConversionsAndBlocks : Prop := Claims.Conversions ∧ Claims.PackBlocks

/-- R60, R61, R208: another group's register reads as its last landed write left it, zero in a lane that holds no thread: a write that has not landed hides
nothing, an older one that has shows, and of one that landed since the reader's last word either value is read (log 75). -/
def Sys2Proof.Claims.ChainReads : Prop := ∀ (b : Agent) (r l now prev fresh : Nat) (d e : Land) (old older : W32), prev ≤ now →
  let shown (x : W32) : W32 := if b.pres.getLsbD l then x else 0
  let seen := b.laneSeen r l now prev fresh
  let at_ (d : Land) : Nat := d.land + d.step * (l / 16)
  ((∀ p ∈ b.lands, p.idx ≠ r) → seen = shown (b.v32 r l)) ∧
  (b.lands = [d] → d.idx = r → tfind d.oldV l = some old →
    (now < at_ d → seen = shown old) ∧ (at_ d ≤ prev → seen = shown (b.v32 r l)) ∧ (seen = shown old ∨ seen = shown (b.v32 r l))) ∧
  (b.lands = [e, d] → d.idx = r → e.idx = r → tfind d.oldV l = some old → tfind e.oldV l = some older → at_ e ≤ at_ d →
    (now < at_ e → seen = shown older) ∧ (at_ e ≤ prev → now < at_ d → seen = shown old) ∧ (at_ d ≤ prev → seen = shown (b.v32 r l)))

/-- R208 to R210: the chain neighbour, the shuffles and the broadcast; a lane that holds no thread reads as zero. -/
def Sys2Proof.Claims.LaneMoves : Prop := ∀ (s : State) (c : Ctl) (right wrap : Bool) (u : FUn) (m : ShMode) (o : FBin), s.me.kind = .group →
  let own (i : Instr) (r l : Nat) : W32 := if (s.sees i).pres.getLsbD l then (s.sees i).v32 r l else 0
  let w := s.me.width
  (s.ready (.vnbr c right wrap u) = true →
    let i := Instr.vnbr c right wrap u
    let gs := s.teamGroups s.me.team
    let total := gs.length * w
    WritesLanes i s false u.d (fun l =>
      let p := gs.idxOf s.cur * w + l
      let at_ (p : Nat) : W64 :=
        let g := (gs[p / w]?).getD s.cur
        ((if g = s.cur then own i u.a.toNat (p % w)
          else (s.ag g).laneSeen u.a.toNat (p % w) (s.begun i).cycle s.me.since ((s.begun i).fresh + p % w)) : W32).setWidth 64
      if right then (if p + 1 < total then at_ (p + 1) else if wrap then at_ 0 else 0)
      else (if 0 < p then at_ (p - 1) else if wrap then at_ (total - 1) else 0)) 0) ∧
  (s.ready (.vshfl c m o) = true →
    let i := Instr.vshfl c m o
    WritesLanes i s false o.d (fun l =>
      let b := ((s.sees i).vsrc false false l o.b).toNat
      let from_ : Nat := match m with
        | .idx => b % w
        | .xor => Nat.xor l (b % w)
        | .up => if b ≤ l then l - b else l
        | .down => if l + b < w then l + b else l
      (own i o.a.toNat from_).setWidth 64) 0) ∧
  (s.ready (.vbcast c o) = true → ∀ low, (s.lanes (.vbcast c o)).getLsbD low = true → (∀ q, q < low → (s.lanes (.vbcast c o)).getLsbD q = false) →
    let i := Instr.vbcast c o
    WritesLanes i s false o.d (fun _ => (own i o.a.toNat (((s.sees i).vsrc false false low o.b).toNat % w)).setWidth 64) 0)

/-- R211, R212: reductions over the active lanes by the tree of R211, the sum among them, and scans in ascending order of lanes. -/
def Sys2Proof.Claims.Reductions : Prop := ∀ (s : State) (c : Ctl) (op : RedOp) (excl : Bool) (o : FUn), s.me.kind = .group →
  let val (i : Instr) (l : Nat) : Nat := ((s.sees i).v32 o.a.toNat l).toNat
  (s.ready (.vred c op o) = true →
    let i := Instr.vred c op o
    let r := redTree op (Nat.log2 s.me.width) ((List.range s.me.width).map (fun l => if (s.lanes i).getLsbD l then some (val i l) else none))
    WritesLanes i s false o.d (fun _ => BitVec.ofNat 64 r.1) r.2) ∧
  (s.ready (.vred c .add o) = true → s.me.width = 16 ∨ s.me.width = 32 ∨ s.me.width = 64 →
    let i := Instr.vred c .add o
    WritesLanes i s false o.d (fun _ => BitVec.ofNat 64 (((lanesOf (s.lanes i)).map (val i)).sum)) 0) ∧
  (s.ready (.vscan c op excl o) = true →
    let i := Instr.vscan c op excl o
    let before (l : Nat) : List Nat := (((lanesOf (s.lanes i)).filter (fun q => if excl then q < l else q ≤ l)).map (val i))
    WritesLanes i s false o.d (fun l => BitVec.ofNat 64 (match before l with
      | [] => redId op
      | x :: xs => xs.foldl (fun a b => (redOp op a b).1) x)) (scanLanes op excl none ((lanesOf (s.lanes i)).map (fun l => (l, val i l)))).2)

/-- R60, R61, R208–R212: chain, shuffles and broadcast; reductions and scans. -/
def Obligations.LanesAndReductions : Prop := Claims.ChainReads ∧ Claims.LaneMoves ∧ Claims.Reductions

/-- R122, R153: both halves of an H word read their sources before either writes; each half's writes go to its own lanes and registers, and
the flags of both are raised. Shadow-checked halves complete so when no fault upsets their pipe. -/
def Sys2Proof.Claims.HalfPair : Prop := ∀ (s : State) (ha hb : Half), s.ready (.hWord ha hb) = true →
  s.halfUpset (s.sees (.hWord ha hb)) ha = none → s.halfUpset (s.sees (.hWord ha hb)) hb = none →
  let i := Instr.hWord ha hb
  let a := runHalf s (s.sees i) ha none
  let b := runHalf s (s.sees i) hb none
  RegisterWord i s (fun t =>
    t.me.sreg = ((a.1 ++ b.1).foldl Agent.write s.me).sreg ∧ t.me.vreg = ((a.1 ++ b.1).foldl Agent.write s.me).vreg ∧
    t.me.kreg = ((a.1 ++ b.1).foldl Agent.write s.me).kreg ∧ t.me.flags = s.me.flags ||| (a.2.1 ||| b.2.1))

/-- R122, R153, R191–R195: one-source integer words, fields, compare and select, and H words. -/
def Obligations.VectorOneSourceAndFields : Prop := Claims.VectorUnary ∧ Claims.VectorFields ∧ Claims.VectorCompareSelect ∧ Claims.HalfPair

/-- R213: `vflags` takes the flag word and clears it, once no `mma` of the group's gang is unfinished and every earlier result of the group has landed; until then
the group waits at the word. -/
def Sys2Proof.Claims.FlagWord : Prop := ∀ (s : State) (c : Ctl) (d : BitVec 6),
  let i := Instr.vflags c d
  let u := s.begun i
  let busy := (s.co s.me.ck).mmas.any (fun m => m.members.contains s.cur)
  let lands := (u.ag s.cur).landed u.cycle
  s.ready i = true →
  (busy = false → lands ≤ u.cycle →
    RegisterWord i s (fun t => t.me.s32 d.toNat = s.me.flags.setWidth 32 ∧ t.me.flags = 0 ∧
      (∀ q, q ≠ d.toNat → t.me.s32 q = s.me.s32 q) ∧ t.me.vreg = s.me.vreg ∧ t.me.kreg = s.me.kreg)) ∧
  (busy = true → Goes i s s.me.pc (fun t => t.me.wait = .tile none ∧ SameRegs s.me t.me)) ∧
  (busy = false → u.cycle < lands → Goes i s s.me.pc (fun t => t.me.wait = .tile (some lands) ∧ SameRegs s.me t.me))


/-! ## Control (R171–R181) -/

/-- R172, R180: the uniform transfers: where the program counter goes, the link and the counter written, and nothing else. -/
def Obligations.Transfers : Prop := ∀ (s : State) (c : Ctl) (t : Tgt) (z : Bool) (sa : BitVec 6),
  let pc := s.me.pc
  let same (u : State) : Prop := u.me.rest = s.me.rest ∧ SameRegs s.me u.me
  (s.ready (.nop c) = true → Goes (.nop c) s (s.after (.nop c)) same) ∧
  (s.ready (.safepoint c) = true → Goes (.safepoint c) s (s.after (.safepoint c)) same) ∧
  (s.ready (.bra c t) = true → Goes (.bra c t) s (Tgt.addr pc t) same) ∧
  (s.ready (.brs c z sa t) = true →
    Goes (.brs c z sa t) s (if ((s.sees (.brs c z sa t)).s32 sa.toNat = 0 ↔ z = true) then Tgt.addr pc t else s.after (.brs c z sa t)) same) ∧
  (s.ready (.call c sa t) = true → Goes (.call c sa t) s (Tgt.addr pc t) (fun u => u.me.rest = s.me.rest ∧ u.me.s64 sa.toNat = s.after (.call c sa t) ∧
    (∀ q, q ≠ sa.toNat → q ≠ sa.toNat + 1 → u.me.s32 q = s.me.s32 q) ∧ u.me.vreg = s.me.vreg ∧ u.me.kreg = s.me.kreg ∧ u.me.flags = s.me.flags)) ∧
  (s.ready (.ret c sa) = true → Goes (.ret c sa) s ((s.sees (.ret c sa)).s64 sa.toNat) same) ∧
  (s.ready (.jmpr c sa) = true → Goes (.jmpr c sa) s ((s.sees (.jmpr c sa)).s64 sa.toNat) same) ∧
  (s.ready (.loop c sa t) = true →
    let n := (s.sees (.loop c sa t)).s32 sa.toNat - 1
    Goes (.loop c sa t) s (if n = 0 then s.after (.loop c sa t) else Tgt.addr pc t) (fun u => u.me.rest = s.me.rest ∧ u.me.s32 sa.toNat = n ∧
      (∀ q, q ≠ sa.toNat → u.me.s32 q = s.me.s32 q) ∧ u.me.vreg = s.me.vreg ∧ u.me.kreg = s.me.kreg ∧ u.me.flags = s.me.flags))

/-- R174: `brk` pushes exactly one entry and runs the taken lanes, or all of them where one path is empty; a courier traps ILLEGAL beyond
depth 16 (R159). -/
def Sys2Proof.Claims.DivergenceBreak : Prop := ∀ (s : State) (c : Ctl) (ka : BitVec 3) (t : Tgt), s.ready (.brk c ka t) = true →
  let i := Instr.brk c ka t
  let taken := s.lanes i &&& (s.sees i).k ka.toNat
  let rest := s.me.act &&& s.me.pres &&& ~~~ taken
  let push (e : DivEntry) (act : LaneMask) (u : State) : Prop :=
    u.me.rest = ({ s.me with stack := e :: s.me.stack, depth := s.me.depth + 1, act := act } : Agent).rest ∧ SameRegs s.me u.me
  (s.me.depth < 16 →
    (taken = 0 → Goes i s (s.after i) (push ⟨1, 0⟩ s.me.act)) ∧
    (taken ≠ 0 → rest = 0 → Goes i s (Tgt.addr s.me.pc t) (push ⟨1, 0⟩ s.me.act)) ∧
    (taken ≠ 0 → rest ≠ 0 → Goes i s (Tgt.addr s.me.pc t) (push ⟨s.after i, rest⟩ taken))) ∧
  (16 ≤ s.me.depth → s.me.kind = .courier → Traps i s { cause := .illegal })

/-- R175, R177: `join` pops one entry: a merge entry gives its lanes back, a path entry starts its path and leaves a merge entry; an empty
stack, or an entry of zeros, traps ILLEGAL. -/
def Sys2Proof.Claims.DivergenceJoin : Prop := ∀ (s : State) (c : Ctl) (e : DivEntry) (es : List DivEntry), s.ready (.join c) = true →
  let i := Instr.join c
  let act (m : LaneMask) (st : List DivEntry) (d : Nat) (u : State) : Prop :=
    u.me.rest = ({ s.me with stack := st, depth := d, act := m } : Agent).rest ∧ SameRegs s.me u.me
  (s.me.depth = 0 → Traps i s { cause := .illegal }) ∧
  (0 < s.me.depth → s.me.depth ≤ 16 → s.me.stack = e :: es →
    (e.pc = 0 → e.mask = 0 → Traps i s { cause := .illegal }) ∧
    (e.pc.getLsbD 0 = true → Goes i s (s.after i) (act ((s.me.act ||| e.mask) &&& s.me.pres) es (s.me.depth - 1))) ∧
    (e.pc.getLsbD 0 = false → ¬ (e.pc = 0 ∧ e.mask = 0) →
      Goes i s e.pc (act (e.mask &&& s.me.pres) (⟨s.me.pc ||| 1, s.me.act &&& s.me.pres⟩ :: es) s.me.depth)))

/-- R174, R175, R177: `brk` and `join`. -/
def Obligations.Divergence : Prop := Claims.DivergenceBreak ∧ Claims.DivergenceJoin

/-- R75, R159, R176, R179, R181: `yield` takes a group out of the ready set for 8 issue opportunities; `exit` ends threads, the group, the
courier context, or a save routine. -/
def Sys2Proof.Claims.ExitAndYield : Prop := ∀ (s : State) (c : Ctl) (e : DivEntry) (es : List DivEntry),
  let i := Instr.exit c
  let left := s.me.pres &&& ~~~ s.lanes i
  (s.ready (.yield c) = true → Goes (.yield c) s (s.after (.yield c)) (fun u => u.me.rest = s.me.rest ∧ SameRegs s.me u.me ∧
    u.me.wait = if s.me.kind = .group then .yielded 8 else .none)) ∧
  (s.ready i = true → s.me.inSave = false → s.me.kind = .group →
    (left = 0 → Completes i s (fun u => (u.ag s.cur).live = false ∧ Todo.teamEnd s.me.team ∈ u.todo)) ∧
    (left ≠ 0 → s.me.act &&& left ≠ 0 ∨ s.me.depth = 0 →
      Goes i s (s.after i) (fun u => u.me.rest = ({ s.me with pres := left } : Agent).rest ∧ SameRegs s.me u.me)) ∧
    (left ≠ 0 → s.me.act &&& left = 0 → 0 < s.me.depth → s.me.depth ≤ 16 → s.me.stack = e :: es → e.pc.getLsbD 0 = false → e.mask &&& left ≠ 0 →
      Goes i s e.pc (fun u => u.me.rest = ({ s.me with pres := left, act := e.mask &&& left, stack := ⟨1, 0⟩ :: es } : Agent).rest ∧ SameRegs s.me u.me))) ∧
  (s.ready i = true → s.me.inSave = false → s.me.kind = .courier → Completes i s (fun u => (u.ag s.cur).live = false ∧ Todo.teamEnd s.me.team ∈ u.todo)) ∧
  (s.ready i = true → s.me.inSave = true → Completes i s (fun u => (u.ag s.cur).wait = .saved ∧ (u.ag s.cur).live = true ∧ Todo.teamSaved s.me.team ∈ u.todo))

/-- R68, R178: `reform` traps ILLEGAL inside a divergence or on an address that is no multiple of 8, and else files the thread of each active
lane under its address in ascending lanes and frees the slot; a thread joins the open pigeonhole of its team and address. -/
def Sys2Proof.Claims.Reform : Prop := ∀ (s : State) (c : Ctl) (va : BitVec 8), s.ready (.reform c va) = true →
  let i := Instr.reform c va
  let next (l : Nat) : W64 := (s.sees i).v64 va.toNat l
  (s.me.depth ≠ 0 → Traps i s { cause := .illegal }) ∧
  (s.me.depth = 0 → ∀ l, (s.lanes i).getLsbD l = true → (next l).toNat % 8 ≠ 0 → (∀ q, q < l → (s.lanes i).getLsbD q = true → (next q).toNat % 8 = 0) →
    Traps i s { cause := .illegal, lane := l, addr := next l }) ∧
  (s.me.depth = 0 → (∀ l, (s.lanes i).getLsbD l = true → (next l).toNat % 8 = 0) → ((s.co s.me.ck).holes.any (fun h => h.2.live)) = false →
    (∀ l, (s.lanes i).getLsbD l = true → next l = next ((lanesOf (s.lanes i)).headD 0)) →
    Completes i s (fun u => (u.ag s.cur).live = false)) ∧
  (∀ (a : Agent) (key : W64) (th : Thread) (h : Nat), openHole (s.co a.ck).holes a.team key = some h →
    let x := tget (s.co a.ck).holes h
    let x' : Hole := { x with ths := x.ths ++ [th], flags := x.flags ||| a.flags }
    s.fileThread a key th = some (s.setCo a.ck { s.co a.ck with holes := tput (s.co a.ck).holes h x' }))

/-- R68, R75, R159, R176, R178, R179, R181: yielding, exiting and regrouping. -/
def Obligations.EndingAndReform : Prop := Claims.ExitAndYield ∧ Claims.Reform

/-! ## Memory (R215–R232) -/

/-- R40, R219, R220: loads of every width from the scratchpad, into the lanes' registers; a byte comes from the agent's own youngest store to it,
else from the scratchpad. -/
def Sys2Proof.Claims.ScratchpadLoads : Prop := ∀ (s : State) (c : Ctl) (o : MemOp) (u : LduOp) (ck off : Nat → Nat),
  SpadLoad (.ldB8 c o) s 1 1 o ck off ∧ SpadLoad (.ldB16 c o) s 2 1 o ck off ∧ SpadLoad (.ldB32 c o) s 4 1 o ck off ∧
  SpadLoad (.ldB64 c o) s 8 2 o ck off ∧ SpadLoad (.ldB128 c o) s 16 4 o ck off ∧
  (s.ready (.lduB32 c u) = true → s.owes s.cur = false → u.ord = none → s.ReadsSpad ((s.sees (.lduB32 c u)).s64 u.base.toNat + Off.val u.off) 4 (ck 0) (off 0) →
    WritesScalar (.lduB32 c u) s false u.d (BitVec.ofNat 64 (s.spadValue 4 (ck 0) (off 0)))) ∧
  (s.ready (.lduB64 c u) = true → s.owes s.cur = false → u.ord = none → s.ReadsSpad ((s.sees (.lduB64 c u)).s64 u.base.toNat + Off.val u.off) 8 (ck 0) (off 0) →
    WritesScalar (.lduB64 c u) s true u.d (BitVec.ofNat 64 (s.spadValue 8 (ck 0) (off 0))))

/-- R40, R219, R220: stores of every width to the scratchpad enter the agent's store queue, lane by lane; the scratchpad itself is as it was. -/
def Sys2Proof.Claims.ScratchpadStores : Prop := ∀ (s : State) (c : Ctl) (o : MemOp) (ck off : Nat → Nat),
  SpadStore (.stB8 c o) s 1 o ck off ∧ SpadStore (.stB16 c o) s 2 o ck off ∧ SpadStore (.stB32 c o) s 4 o ck off ∧
  SpadStore (.stB64 c o) s 8 o ck off ∧ SpadStore (.stB128 c o) s 16 o ck off

/-- R218 to R222, R498, R515: loads and stores in every aperture, with their acquire or release, once every lane is accessible; a load that misses
lines of other packages asks for them first. -/
def Sys2Proof.Claims.AllApertures : Prop := ∀ (s : State) (c : Ctl) (o : MemOp),
  AnyLoad (.ldB8 c o) s 1 o ∧ AnyLoad (.ldB16 c o) s 2 o ∧ AnyLoad (.ldB32 c o) s 4 o ∧ AnyLoad (.ldB64 c o) s 8 o ∧ AnyLoad (.ldB128 c o) s 16 o ∧
  AnyStore (.stB8 c o) s 1 o ∧ AnyStore (.stB16 c o) s 2 o ∧ AnyStore (.stB32 c o) s 4 o ∧ AnyStore (.stB64 c o) s 8 o ∧ AnyStore (.stB128 c o) s 16 o

/-- R40, R218–R222: loads and stores, in the scratchpad and in every aperture. -/
def Obligations.LoadsAndStores : Prop := Claims.ScratchpadLoads ∧ Claims.ScratchpadStores ∧ Claims.AllApertures

/-- R217: which condition an access stops on, and the lane its trap names. -/
def Sys2Proof.Claims.AccessConditions : Prop := ∀ (s : State) (c : Ctl) (o : MemOp) (a : AtomOp), a.ord = none →
  let ea (i : Instr) (l : Nat) : W64 := (s.sees i).ea o.addr l
  AccessStops (.ldB8 c o) s (ea (.ldB8 c o)) 1 .read ∧ AccessStops (.ldB16 c o) s (ea (.ldB16 c o)) 2 .read ∧
  AccessStops (.ldB32 c o) s (ea (.ldB32 c o)) 4 .read ∧ AccessStops (.ldB64 c o) s (ea (.ldB64 c o)) 8 .read ∧
  AccessStops (.ldB128 c o) s (ea (.ldB128 c o)) 16 .read ∧
  (o.ord = none →
    AccessStops (.stB8 c o) s (ea (.stB8 c o)) 1 .write ∧ AccessStops (.stB16 c o) s (ea (.stB16 c o)) 2 .write ∧
    AccessStops (.stB32 c o) s (ea (.stB32 c o)) 4 .write ∧ AccessStops (.stB64 c o) s (ea (.stB64 c o)) 8 .write ∧
    AccessStops (.stB128 c o) s (ea (.stB128 c o)) 16 .write) ∧
  AccessStops (.atom c a) s (fun l => (s.sees (.atom c a)).v64 a.a.toNat l) (if a.w64 then 8 else 4) .atomic ∧
  AccessStops (.red c a) s (fun l => (s.sees (.red c a)).v64 a.a.toNat l) (if a.w64 then 8 else 4) .atomic

/-- R41, R219: a load beyond the scratchpad allocation reads zero, a store there is dropped, and the first such address of the context is
recorded for its spoor registers. -/
def Sys2Proof.Claims.BeyondAllocation : Prop := ∀ (s : State) (ea : W64) (hint : Hint) (n x : Nat),
  let ctx := s.ctxOf s.me
  let u := s.spoor ctx ea
  s.loadSpot s.cur ea .beyond n hint = (.ok 0, u) ∧ s.pushStore s.cur ea .beyond n x hint = u ∧
  ((s.cx ctx).spoor = true → u = s) ∧
  ((s.cx ctx).spoor = false → (u.cx ctx).spoor = true ∧ (u.cx ctx).spoorAddr = ea ∧ u.mem = s.mem ∧ u.agents = s.agents ∧ u.cores = s.cores ∧
    ∀ d, d ≠ ctx → u.cx d = s.cx d)

/-- R41, R217, R219: what an access stops on, and accesses beyond the allocation. -/
def Obligations.AccessStopsAndBeyond : Prop := Claims.AccessConditions ∧ Claims.BeyondAllocation

/-- R220: the oldest entry of a store queue leaves it and its bytes, and no others, are written to the scratchpad. -/
def Sys2Proof.Claims.StoreDrain : Prop := ∀ (s : State) (key ck off : Nat) (e : SqEntry) (q : List SqEntry),
  (s.ag key).live = true → (s.ag key).sq = e :: q → e.kind = .store → e.place = .spad ck off →
  Mem.wf (s.co ck).scratch = true →
  Completes (.storeQueueDrain key) s (fun t => (t.ag key).sq = q ∧ t.mem = s.mem ∧ t.dies = s.dies ∧ (∀ k, k ≠ key → t.ag k = s.ag k) ∧
    (∀ a, memGet (t.co ck).scratch a = if off ≤ a ∧ a < off + e.n then BitVec.ofNat 8 (e.data.toNat / 256 ^ (a - off)) else memGet (s.co ck).scratch a) ∧
    ∀ k, k ≠ ck → t.co k = s.co k)

/-- R224 to R226: a prefetch brings a lane's line into the caches; a clean or an invalidation enters one entry for each active lane of the
global aperture, and `lineset` one of 128 zero bytes for each line its lanes name. -/
def Sys2Proof.Claims.LineOperations : Prop := ∀ (s : State) (c : Ctl) (h : Hint) (m : MemAddr) (l pa : Nat) (cls : PClass) (u : State),
  s.me.act = BitVec.twoPow 64 l → s.owes s.cur = false →
  let at_ (i : Instr) : W64 := (s.sees i).ea m l
  let push (k : SqKind) (n : Nat) (va : W64) : Agent :=
    { u.ag s.cur with sq := (u.ag s.cur).sq ++ [{ kind := k, place := .phys pa, cls := cls, n := n, data := 0, va := va }] }
  (s.ready (.prefetch c h m) = true → (s.lanes (.prefetch c h m)).getLsbD l = true →
    (s.begun (.prefetch c h m)).spotOf (s.sees (.prefetch c h m)) l (at_ (.prefetch c h m)) .read = (.ok (.at (.phys pa) cls), u) →
    Ends (.prefetch c h m) s { s := u.prefetchSpot s.cur h (aperOf (at_ (.prefetch c h m))) (.ok (.at (.phys pa) cls)) }) ∧
  (s.ready (.clean c m) = true → (s.lanes (.clean c m)).getLsbD l = true → aperOf (at_ (.clean c m)) = .global →
    (s.begun (.clean c m)).spotOf (s.sees (.clean c m)) l (at_ (.clean c m)) .read = (.ok (.at (.phys pa) cls), u) →
    Ends (.clean c m) s { s := u.setAg s.cur (push .clean 0 (at_ (.clean c m))) }) ∧
  (s.ready (.inval c m) = true → (s.lanes (.inval c m)).getLsbD l = true → aperOf (at_ (.inval c m)) = .global →
    (s.begun (.inval c m)).spotOf (s.sees (.inval c m)) l (at_ (.inval c m)) .read = (.ok (.at (.phys pa) cls), u) →
    Ends (.inval c m) s { s := u.setAg s.cur (push .inval 0 (at_ (.inval c m))) }) ∧
  (let i := Instr.lineset c m
   let ea := at_ i
   s.ready i = true → (s.lanes i).getLsbD l = true → pa % 128 = 0 →
    (s.begun i).linesetChecks (s.sees i) [(l, ea)] = (.ok [(l, ea, .at (.phys pa) cls)], u) →
    (aperOf ea ≠ .stack ∨ aperOff ea + 128 ≤ (u.teamOf (s.sees i)).stack → Ends i s { s := u.setAg s.cur (push .lineset 128 ea) }) ∧
    (aperOf ea = .stack → (u.teamOf (s.sees i)).stack < aperOff ea + 128 → Ends i s { s := u.zeroBytes s.cur (s.sees i) l ea }))

/-- R227, R228: an atomic on the scratchpad by one lane: `atom` returns the old value, both write the operation's result, and nothing else in
memory changes. -/
def Sys2Proof.Claims.ScratchpadAtomics : Prop := ∀ (s : State) (c : Ctl) (o : AtomOp) (l ck off : Nat), s.me.act = BitVec.twoPow 64 l → s.me.kind = .group →
  s.me.sq = [] → s.owes s.cur = false → o.ord = none → (s.teamOf s.me).pbx = [] → Mem.wf (s.co ck).scratch = true →
  let n := if o.w64 then 8 else 4
  let old := leNat (memBytes (s.co ck).scratch off n)
  let written (i : Instr) (t : State) : Prop :=
    let new := atomNew o.op (8 * n) old ((s.sees i).vw o.w64 o.b.toNat l).toNat ((s.sees i).vw o.w64 o.c.toNat l).toNat
    leNat (memBytes (t.co ck).scratch off n) = new % 2 ^ (8 * n) ∧
    (∀ a, ¬ (off ≤ a ∧ a < off + n) → memGet (t.co ck).scratch a = memGet (s.co ck).scratch a) ∧ t.mem = s.mem ∧ t.dies = s.dies ∧ ∀ k, k ≠ ck → t.co k = s.co k
  (s.ready (.atom c o) = true → (s.lanes (.atom c o)).getLsbD l = true → s.ReadsSpad ((s.sees (.atom c o)).v64 o.a.toNat l) n ck off →
    Completes (.atom c o) s (fun t => written (.atom c o) t ∧ t.me.vw o.w64 o.d.toNat l = BitVec.ofNat 64 old ∧ t.me.pc = s.after (.atom c o) ∧
      t.me.sreg = s.me.sreg ∧ t.me.kreg = s.me.kreg ∧ (∀ q m, m < 64 → ¬ (m = l ∧ (q = o.d.toNat ∨ o.w64 = true ∧ q = o.d.toNat + 1)) → t.me.v32 q m = s.me.v32 q m))) ∧
  (s.ready (.red c o) = true → (s.lanes (.red c o)).getLsbD l = true → s.ReadsSpad ((s.sees (.red c o)).v64 o.a.toNat l) n ck off →
    Completes (.red c o) s (fun t => written (.red c o) t ∧ SameRegs s.me t.me ∧ t.me.pc = s.after (.red c o)))

/-- R227: what each integer atomic operation writes at a width, from the old value m and the operands b and c. -/
def Sys2Proof.Claims.AtomicOperations : Prop := ∀ (w64 : Bool) (m b c : W64), m = atWidth w64 m → b = atWidth w64 b → c = atWidth w64 c →
  let new (op : AOp) : W64 := BitVec.ofNat 64 (atomNew op (bitsAt w64) m.toNat b.toNat c.toNat)
  new .add = atWidth w64 (m + b) ∧ new .sub = atWidth w64 (m - b) ∧ new .exch = b ∧ new .cas = (if m = c then b else m) ∧
  new .and = m &&& b ∧ new .or = m ||| b ∧ new .xor = m ^^^ b ∧
  new .minU = (if b.toNat < m.toNat then b else m) ∧ new .maxU = (if m.toNat < b.toNat then b else m) ∧
  new .minS = (if signedAt w64 b < signedAt w64 m then b else m) ∧ new .maxS = (if signedAt w64 m < signedAt w64 b then b else m)

/-- R227, R228: atomics and what each operation writes. -/
def Obligations.Atomics : Prop := Claims.ScratchpadAtomics ∧ Claims.AtomicOperations

/-- R218, R232: a fence waits for the agent's earlier accesses and takes the release, then the acquire actions of its scope, and `.sc` performs
its lines at home; with a store abort owed a fence, and a releasing store or atomic, traps STORE_ABORT instead and owes it no more; and while an
access of its agent in another package has not ended, a word that releases or accesses memory stays where it is (R220). R430: a release travels to every other package at `.dom` and `.sys`, and at `.pkg` to
those whose homes its bytes go to. -/
def Sys2Proof.Claims.Fences : Prop := ∀ (s : State) (c : Ctl) (sc : Scope) (o : MemOp) (a : AtomOp) (l : LduOp) (h : Hint) (m : MemAddr),
  let w (i : Instr) : State := (s.begun i).landAll s.cur
  let aborts (i : Instr) : Prop := s.ready i = true → s.me.storeAbort = true →
    exec i s = ((s.begun i).setAg s.cur { (s.begun i).ag s.cur with storeAbort := false }).takeTrap s.cur { cause := .storeAbort }
  let stays (i : Instr) : Prop := s.ready i = true → s.me.storeAbort = false → s.owes s.cur = true →
    exec i s = .next ((s.begun i).setAg s.cur { (s.begun i).ag s.cur with wait := .remote })
  (s.me.storeAbort = false → s.ready (.fenceAcq c sc) = true → Ends (.fenceAcq c sc) s { s := (w (.fenceAcq c sc)).acquireAt s.cur sc }) ∧
  (s.me.storeAbort = false → s.owes s.cur = false →
    (s.ready (.fenceRel c sc) = true → Ends (.fenceRel c sc) s { s := (w (.fenceRel c sc)).release s.cur sc }) ∧
    (s.ready (.fenceAr c sc) = true → Ends (.fenceAr c sc) s { s := ((w (.fenceAr c sc)).release s.cur sc).acquireAt s.cur sc }) ∧
    (s.ready (.fenceSc c sc) = true → Ends (.fenceSc c sc) s { s := (((w (.fenceSc c sc)).release s.cur sc).performHome s.cur).acquireAt s.cur sc })) ∧
  (let far := if sc = .dom ∨ sc = .sys then s.domain.filter (· != Config.pkg) else if sc = .pkg then (s.farHomes s.cur).filter (fun p => s.domain.contains p) else [];
    (s.release s.cur sc).held = s.held ++ (far.filter s.reachable).map (fun p => { pkg := p, die := s.me.die })) ∧
  aborts (.fenceAcq c sc) ∧ aborts (.fenceRel c sc) ∧ aborts (.fenceAr c sc) ∧ aborts (.fenceSc c sc) ∧
  (o.ord.isSome = true → aborts (.stB8 c o) ∧ aborts (.stB16 c o) ∧ aborts (.stB32 c o) ∧ aborts (.stB64 c o) ∧ aborts (.stB128 c o)) ∧
  ((atomRel a.ord).isSome = true → aborts (.atom c a) ∧ aborts (.red c a)) ∧
  stays (.fenceRel c sc) ∧ stays (.fenceAr c sc) ∧ stays (.fenceSc c sc) ∧
  stays (.stB8 c o) ∧ stays (.stB16 c o) ∧ stays (.stB32 c o) ∧ stays (.stB64 c o) ∧ stays (.stB128 c o) ∧ stays (.atom c a) ∧ stays (.red c a) ∧
  stays (.ldB8 c o) ∧ stays (.ldB16 c o) ∧ stays (.ldB32 c o) ∧ stays (.ldB64 c o) ∧ stays (.ldB128 c o) ∧ stays (.lduB32 c l) ∧ stays (.lduB64 c l) ∧
  stays (.prefetch c h m) ∧ stays (.clean c m) ∧ stays (.inval c m) ∧ stays (.lineset c m)

/-- R218, R220, R224–R226, R232: the store queue, the line words and fences. -/
def Obligations.LinesStoresAndFences : Prop := Claims.StoreDrain ∧ Claims.LineOperations ∧ Claims.Fences

/-! ## Postboxes, barriers and page operations (R233–R239) -/

/-- R233, R234: the completion test at the end of a cycle: a postbox whose count of arrivals is complete and that expects no bytes more inverts its phase and starts
over; any other stays as it is. -/
def Sys2Proof.Claims.PostboxTests : Prop := ∀ (s : State) (team off ck o : Nat) (sc : Scope),
  let t := s.tm team
  let p := s.pbx team off
  tfind t.pbx off = some sc → t.pbxPlace off = some (ck, o) → Mem.wf (s.co ck).scratch = true → s.pbxWaiters team off = [] →
  p.arrived < 2 ^ 16 → p.expected < 2 ^ 16 →
  (p.arrived = p.expected → p.pending = 0 → (s.pbxTest team off).pbx team off = { p with phase := !p.phase, arrived := 0 } ∧
    (∀ a, ¬ (o ≤ a ∧ a < o + 16) → memGet ((s.pbxTest team off).co ck).scratch a = memGet (s.co ck).scratch a) ∧
    (s.pbxTest team off).agents = s.agents ∧ (s.pbxTest team off).mem = s.mem ∧ ∀ k, k ≠ ck → (s.pbxTest team off).co k = s.co k) ∧
  (p.arrived ≠ p.expected ∨ p.pending ≠ 0 → s.pbxTest team off = s)

/-- R233, R234: what each postbox word does to an armed postbox, where it waits, and where it traps; waiters apart, no other state changes. A complete postbox is
tested for at the end of the cycle. -/
def Sys2Proof.Claims.PostboxWords : Prop := ∀ (s : State) (c : Ctl) (sc : Scope) (d sa : BitVec 6) (b : SSrc) (off ck o : Nat),
  let team := s.me.team
  let t := s.tm team
  let p := s.pbx team off
  let ea (i : Instr) : W64 := (s.sees i).s64 sa.toNat
  let n (i : Instr) : Nat := ((s.sees i).ssrc false false b).toNat
  let here (i : Instr) : Prop := s.ready i = true ∧ s.PbxAt (ea i) off ck o ∧ s.pbxWaiters team off = []
  let tests (i : Instr) : Prop := Completes i s (fun u => off ∈ (u.tm team).pbxDue)
  let ini := Instr.pbinit c sc sa b
  let exp := Instr.pbexpect c sa b
  let arr := Instr.pbarrive c sa
  let wai := Instr.pbwait c sa b
  let tst := Instr.pbtest c d sa
  (here ini → 1 ≤ n ini → n ini ≤ 65535 →
    (t.armed off = false → t.pbx.length < 64 → PbxEnds ini s ck o ⟨0, 0, n ini, false, true⟩ (tput t.pbx off sc)) ∧
    (t.armed off = false → 64 ≤ t.pbx.length → Traps ini s { cause := .pbxLimit }) ∧
    (t.armed off = true → p.arrived = 0 → p.pending = 0 → PbxEnds ini s ck o { p with expected := n ini } (tput t.pbx off sc)) ∧
    (t.armed off = true → ¬ (p.arrived = 0 ∧ p.pending = 0) → Traps ini s { cause := .pbxState })) ∧
  (s.ready ini = true → 65535 < n ini → Traps ini s { cause := .illegal }) ∧
  (here ini → n ini = 0 → t.armed off = true → PbxEnds ini s ck o { p with armed := false } (tdel t.pbx off)) ∧
  (here exp →
    (t.armed off = false → Traps exp s { cause := .pbxState }) ∧
    (t.armed off = true → PbxEnds exp s ck o { p with pending := (p.pending + n exp) % 2 ^ 32 } t.pbx ∧ tests exp)) ∧
  (here arr → s.me.storeAbort = false → s.owes s.cur = false → s.me.sq = [] → scopeWide (tget t.pbx off) = false →
    (t.armed off = false ∨ p.arrived = p.expected → Traps arr s { cause := .pbxState }) ∧
    (t.armed off = true → p.arrived < p.expected → PbxEnds arr s ck o { p with arrived := p.arrived + 1 } t.pbx ∧ tests arr)) ∧
  (here wai →
    let ph := ((s.sees wai).ssrc false false b).getLsbD 0
    (t.armed off = false → Traps wai s { cause := .pbxState }) ∧
    (t.armed off = true → p.phase ≠ ph → Ends wai s { s := (s.begun wai).acquireAt s.cur (tget t.pbx off) }) ∧
    (t.armed off = true → p.phase = ph →
      Goes wai s (s.after wai) (fun u => u.me.wait = .postbox off ph ∧ u.me.wpc = s.me.pc ∧ u.me.rest = s.me.rest ∧ SameRegs s.me u.me))) ∧
  (here tst →
    (t.armed off = false → Traps tst s { cause := .pbxState }) ∧
    (t.armed off = true → Ends tst s { s := (s.begun tst).acquireAt s.cur (tget t.pbx off), ws := [.s d.toNat ((if p.phase then 1 else 0) + if p.armed then 2 else 0)] })) ∧
  (∀ i, i = ini ∨ i = exp ∨ i = arr ∨ i = wai ∨ i = tst → s.ready i = true → (i = ini → n ini ≤ 65535) →
    (aperOf (ea i) ≠ .spad → Traps i s { cause := .addr, addr := ea i, lane := 0 }) ∧
    ((s.teamOf s.me).spadPlace (aperOff (ea i)) = some (.spad ck o) → aperOf (ea i) = .spad → aperOff (ea i) % 16 ≠ 0 →
      Traps i s { cause := .align, addr := ea i, lane := 0 }))

/-- R233, R234: the postbox words, and the completion test at the end of a cycle. -/
def Obligations.Postboxes : Prop := Claims.PostboxTests ∧ Claims.PostboxWords

/-- R235: an arrival at a named barrier counts, the completing one inverts the phase, clears the count and releases the waiters of that phase;
`bar.sync` waits for a phase its own arrival does not complete; a wrong count traps ILLEGAL. -/
def Sys2Proof.Claims.NamedBarriers : Prop := ∀ (s : State) (c : Ctl) (b : BitVec 4) (cnt : SSrc) (sync : Bool),
  let i := if sync then Instr.barSync c b cnt else Instr.barArrive c b cnt
  let n := ((s.sees i).ssrc false false cnt).toNat
  let t := s.tm s.me.team
  let x := (tfind t.bars b.toNat).getD ⟨0, 0, false, 0⟩
  let bit := t.slotBit s.me
  s.ready i = true → s.me.storeAbort = false → s.owes s.cur = false → s.me.inRestore = false → s.me.wait = .none →
  (n = 0 ∨ 64 < n ∨ (x.arrived ≠ 0 ∧ x.expected ≠ n) → Traps i s { cause := .illegal }) ∧
  (1 ≤ n → n ≤ 64 → x.arrived = 0 ∨ x.expected = n → s.me.sq = [] →
    (x.arrived + 1 ≠ n → Completes i s (fun u =>
      (u.tm s.me.team).bars = tput t.bars b.toNat ⟨n, x.arrived + 1, x.phase, if sync then x.ranks ||| BitVec.twoPow 64 bit else x.ranks⟩ ∧
      u.me.wait = (if sync then .barrier b.toNat x.phase else .none) ∧ u.me.pc = s.after i ∧ SameRegs s.me u.me ∧ u.mem = s.mem ∧ u.cores = s.cores ∧
      u.dies = s.dies ∧ ∀ k, k ≠ s.cur → u.ag k = s.ag k)) ∧
    (x.arrived + 1 = n → Completes i s (fun u =>
      (u.tm s.me.team).bars = tput t.bars b.toNat ⟨n, 0, !x.phase, 0⟩ ∧ u.me.wait = .none ∧ u.me.pc = s.after i ∧ SameRegs s.me u.me ∧ u.mem = s.mem ∧
      u.dies = s.dies ∧ (∀ k, k ≠ s.cur → SameRegs (s.ag k) (u.ag k) ∧ (u.ag k).pc = (s.ag k).pc) ∧
      (∀ k, k ∈ s.teamGroups s.me.team → (s.ag k).wait = .barrier b.toNat x.phase → (u.ag k).wait = .none) ∧
      ∀ k, k ≠ s.cur → (s.ag k).wait ≠ .barrier b.toNat x.phase → u.ag k = s.ag k)))

/-- R236: `gbar` outside a resident launch traps ILLEGAL; inside one the group arrives after the release actions of `.pkg`, and goes on with the
acquire actions of `.pkg` when its arrival completes the phase. -/
def Sys2Proof.Claims.GridBarrier : Prop := ∀ (s : State) (c : Ctl),
  let i := Instr.gbar c
  let lid := (s.tm s.me.team).lid
  let r := (s.begun i).release s.cur .pkg
  let l := r.la lid
  let u := (r.setLa lid { l with garr := l.garr ++ [s.cur] }).gbarCheck lid
  s.ready i = true →
  ((s.la lid).hdr.resident = false → Traps i s { cause := .illegal }) ∧
  ((s.la lid).hdr.resident = true → s.me.storeAbort = false → s.owes s.cur = false → s.me.inRestore = false →
    ((u.la lid).gphase ≠ l.gphase → Ends i s { s := u.acquireAt s.cur .pkg }) ∧
    ((u.la lid).gphase = l.gphase → Ends i s { s := u, wait := .gbar l.gphase }))

/-- R235, R236: named barriers and the grid barrier. -/
def Obligations.Barriers : Prop := Claims.NamedBarriers ∧ Claims.GridBarrier

/-- R237: `discard` of one mapped page of 64 KiB writes state 0b01 into its entry and drops every cached line and translation of it; a wrong
aperture, alignment or permission, a malformed or aborted walk and a part of a 64 MiB page trap and discard nothing, an unmapped page is skipped, and a page in the moving state
is waited for. -/
def Sys2Proof.Claims.Discard : Prop := ∀ (s : State) (c : Ctl) (sa : BitVec 6) (b : SSrc) (e : W64) (pa : Nat) (large : Bool),
  let i := Instr.discard c sa b
  let ea := (s.sees i).s64 sa.toNat
  let va := ea.toNat
  let ctx := s.ctxOf s.me
  let walk := (s.begun i).peek ((s.cx ctx).ptbase.toNat % 2 ^ 56) va 3
  let inPage (x a : Nat) : Bool := x == ctx && decide (va / 65536 ≤ a / 65536) && decide (a / 65536 < va / 65536 + 1)
  let state := e.toNat / 256 % 4
  s.ready i = true →
  (aperOf ea ≠ .global → Traps i s { cause := .addr, addr := ea }) ∧
  (aperOf ea = .global → va % 65536 ≠ 0 → Traps i s { cause := .align, addr := ea }) ∧
  (aperOf ea = .global → va % 65536 = 0 → va < 2 ^ 56 → ((s.sees i).ssrc false false b).toNat = 1 →
    (walk = .unmapped → s.owes s.cur = false → Ends i s { s := ((s.begun i).drainAll s.cur).drainUsers inPage }) ∧
    (∀ a, walk = .aborted a → Traps i s (loadTrap a 0xFF ea)) ∧
    (walk = .malformed → Traps i s { cause := .pageFault, addr := ea, lane := 0xFF, detail64 := BitVec.ofNat 64 va, replay := true, detail32 := 5 }) ∧
    (walk = .leaf e pa large →
      (e.getLsbD 3 = false → Traps i s { cause := .perm, addr := ea, lane := 0xFF }) ∧
      (e.getLsbD 3 = true → large = true → Traps i s { cause := .addr, addr := ea, lane := 0xFF }) ∧
      (e.getLsbD 3 = true → large = false → s.owes s.cur = false → state = 2 → exec i s = .next ((s.begun i).setAg s.cur { (s.begun i).ag s.cur with ready := (s.begun i).cycle + 1 })) ∧
      (e.getLsbD 3 = true → large = false → s.owes s.cur = false → state ≠ 2 → (∀ k, (s.ag k).sq = []) → s.moving = [] → Mem.wf ((s.begun i).recallLine (pa / 128)).mem = true →
        Completes i s (fun u => u.homeWord pa = (e &&& ~~~ 0x300) ||| 0x100 ∧ u.me.pc = s.after i ∧ SameRegs s.me u.me ∧
          (∀ d x, x ∈ (u.di d).tlb → x.maps ctx va = false) ∧ (∀ k x, x ∈ (u.co k).tlb → x.maps ctx va = false) ∧
          (∀ d x, x ∈ (u.di d).l2 → linePage x.line ≠ e.toNat / 65536 % 2 ^ 40) ∧
          ∀ k x, x ∈ (u.co k).l1 → linePage x.line ≠ e.toNat / 65536 % 2 ^ 40))))

/-- R238, R239: `pgclass` writes the class of one page's home and of no other; `tlbi` performs the stores queued under the translations its form names, removes those
translations from every die of the package, and no other, and is run again while an access to another package has no answer. -/
def Sys2Proof.Claims.ClassesAndTranslations : Prop := ∀ (s : State) (c : Ctl) (sa : BitVec 6) (b : SSrc) (f : Tlb → Bool) (d : Nat),
  let pg := Instr.pgclass c sa b
  let pa := ((s.sees pg).s64 sa.toNat).toNat
  let cls := ((s.sees pg).ssrc false false b).toNat
  let tp := Instr.tlbiPage c sa
  let va := ((s.sees tp).s64 sa.toNat).toNat % 2 ^ 56
  let k := s.ctxOf s.me
  let gone (i : Instr) (f : Tlb → Bool) (use : Nat → Nat → Bool) : Prop := s.ready i = true →
    (s.reqs = [] → Ends i s { s := ((s.begun i).drainUsers use).dropTlb f }) ∧
    ((∀ k, (s.ag k).sq = []) → s.reqs = [] → Completes i s (fun u => (∀ d, (u.di d).tlb = (s.di d).tlb.filter (fun x => !f x)) ∧
      (∀ j, (u.co j).tlb = (s.co j).tlb.filter (fun x => !f x)) ∧ u.mem = s.mem ∧ u.classes = s.classes ∧
      u.me.pc = s.after i ∧ SameRegs s.me u.me ∧ ∀ j, j ≠ s.cur → u.ag j = s.ag j))
  (s.ready pg = true →
    (3 < cls → Traps pg s { cause := .illegal }) ∧
    (cls ≤ 3 → pa % 65536 ≠ 0 → Traps pg s { cause := .align, addr := (s.sees pg).s64 sa.toNat }) ∧
    (cls ≤ 3 → pa % 65536 = 0 → 2 ^ 56 ≤ pa → Traps pg s { cause := .addr, addr := (s.sees pg).s64 sa.toNat }) ∧
    (cls ≤ 3 → pa % 65536 = 0 → pa < 2 ^ 56 → s.movingPage (pa / 65536) = true →
      exec pg s = .next ((s.begun pg).setAg s.cur { (s.begun pg).ag s.cur with ready := (s.begun pg).cycle + 1 })) ∧
    (cls ≤ 3 → pa % 65536 = 0 → pa < 2 ^ 56 → s.movingPage (pa / 65536) = false →
      Completes pg s (fun u => u.classAt (pa / 65536) = classOf cls ∧ (∀ q, q ≠ pa / 65536 → u.classAt q = s.classAt q) ∧ u.me.pc = s.after pg ∧ SameRegs s.me u.me))) ∧
  gone tp (fun x => x.maps k va) (fun x a => x == k && a / 2 ^ 26 == va / 2 ^ 26) ∧
  gone (.tlbiCtx c) (fun x => x.ctx == k) (fun x _ => x == k) ∧ gone (.tlbiAll c) (fun _ => true) (fun _ _ => true) ∧
  ((s.dropTlb f).di d).tlb = (s.di d).tlb.filter (fun x => !f x)

/-- R237–R239: discarding, page classes and translations. -/
def Obligations.PagesAndTranslations : Prop := Claims.Discard ∧ Claims.ClassesAndTranslations

/-! ## Gangs, the matrix engine and tiles (R243–R255) -/

/-- R23, R243: `gang.set` takes a value that names no gang or whole one of the group's own team and core, and traps ILLEGAL on another. -/
def Sys2Proof.Claims.GangRegister : Prop := ∀ (s : State) (c : Ctl) (sa : BitVec 6),
  let i := Instr.gangSet c sa
  let g := (s.sees i).s32 sa.toNat
  let code := g.toNat / 2 ^ 20 % 4
  let member (x : Nat) : Prop := let a := s.ag (64 * s.me.ck + x); a.live = true ∧ a.kind = .group ∧ a.matrix = true ∧ a.team = s.me.team
  let takes : Prop := Goes i s (s.after i) (fun u => u.me.rest = ({ s.me with gang := g } : Agent).rest ∧ SameRegs s.me u.me)
  s.ready i = true → s.latchWaiters s.me.ck s.me.gang = [] →
  (g = 0 → takes) ∧
  (g.toNat < 2 ^ 22 → code = 1 ∧ g.toNat / 2 ^ 10 % 2 ^ 10 = 0 ∨ code = 2 → (gangSlots g).Nodup → s.me.slot ∈ gangSlots g → (∀ x ∈ gangSlots g, member x) → takes) ∧
  (2 ^ 22 ≤ g.toNat ∨ code = 3 ∨ (code = 0 ∧ g ≠ 0) ∨ (code = 1 ∧ g.toNat / 2 ^ 10 % 2 ^ 10 ≠ 0) ∨ (code ≠ 0 ∧ s.me.slot ∉ gangSlots g) ∨ ¬ (gangSlots g).Nodup →
    Traps i s { cause := .illegal })

/-- R245, R246: an `mma` of several passes arrives in the last cycle it occupies its pipe; there a broken gang traps, a member that is not the last waits at the latch with its word; the last one of a whole gang, its words agreeing and its operand well formed,
hands the `mma` to the engine and every member waits for it; a group in no gang traps ILLEGAL. -/
def Sys2Proof.Claims.RendezvousLatch : Prop := ∀ (s : State) (c : Ctl) (acc : Bool) (f : MFmt) (zd : BitVec 4) (ta : BitVec 6) (vb : BitVec 8),
  let i := Instr.mma c acc f zd ta vb
  let m := gangSize s.me.gang
  let w : LatchWord := { zd := zd.toNat, ta := ta.toNat, acc := acc, fmt := mfNum f, vb := vb.toNat, safe := c.safe.isSome,
                         early := s.me.bEarly (s.sees i) (bRegs f m s.me.width) vb.toNat }
  let waiting := s.latchWaiters s.me.ck s.me.gang
  let keys := (gangSlots s.me.gang).map (fun x => 64 * s.me.ck + x)
  let arrives := (s.begun i).cycle + s.me.passes - 1
  (s.me.live = true → i.wf = true → s.me.kind = .group → s.me.matrix = true → m ≠ 0 → s.me.nv < vb.toNat + bRegs f m s.me.width →
    exec i s = s.takeTrap s.cur { cause := .illegal, reg := max vb.toNat s.me.nv }) ∧
  (s.ready i = true → m = 0 → Traps i s { cause := .illegal }) ∧
  (s.ready i = true → m ≠ 0 → s.me.held = none → 1 < s.me.passes → Goes i s s.me.pc (fun u => u.me.wait = .tile (some arrives) ∧
    u.me.held = some ((s.begun i).cycle, arrives) ∧ SameRegs s.me u.me)) ∧
  (s.ready i = true → m ≠ 0 → s.me.held ≠ none ∨ s.me.passes ≤ 1 → s.owes s.cur = false →
    (∀ x, s.brokenSlot s.me.ck s.me.gang = some x → waiting = [] → Traps i s { cause := .gangBroken, detail32 := BitVec.ofNat 32 x }) ∧
    (s.brokenSlot s.me.ck s.me.gang = none → waiting.length + 1 < m →
      Goes i s (s.after i) (fun u => u.me.rest = ({ s.me with latch := some w } : Agent).rest ∧ SameRegs s.me u.me ∧ u.me.wait = .latch ∧ u.me.wpc = s.me.pc)) ∧
    (s.brokenSlot s.me.ck s.me.gang = none → m ≤ waiting.length + 1 → s.cur ∈ keys →
      (∀ k ∈ keys, k ≠ s.cur → ∃ x, (s.ag k).latch = some x ∧ x.zd = w.zd ∧ x.ta = w.ta ∧ x.acc = w.acc ∧ x.fmt = w.fmt) →
      (s.entry s.me ta).ill = false → aTensOk s s.me f m (s.entry s.me ta).t = true →
      Completes i s (fun u => (∃ q, (u.co s.me.ck).mmas = insertMma q (s.co s.me.ck).mmas ∧ q.members = keys ∧ q.word = { w with early := [] } ∧ q.size = m ∧
          q.image = s.entry s.me ta ∧ q.started = false ∧ q.latched = (s.begun i).cycle ∧ q.due = q.latched + 1) ∧
        (∀ k ∈ keys, (u.ag k).wait = .engine ∧ (u.ag k).latch = none) ∧ (∀ k, k ∉ keys → u.ag k = s.ag k) ∧ u.me.pc = s.after i ∧ SameRegs s.me u.me ∧
        u.todo = s.todo ∧ u.mem = s.mem ∧ u.dies = s.dies ∧ (u.co s.me.ck).tiles = (s.co s.me.ck).tiles)))

/-- R23, R243, R245: the gang register and the rendezvous latch. -/
def Obligations.Gangs : Prop := Claims.GangRegister ∧ Claims.RendezvousLatch

/-- R249, R251: the engine starts the oldest `mma` it holds once its leader waits for it: of a format without block scales it takes the members' B and the first 512 bytes
of A, and, unchecked, its members are ready again; `.acc` on an invalid tile traps ZINVALID on every member, a withheld word of A DATA_ABORT (R448), and words that wait for the tile go on (R252); without one, nothing changes. -/
def Sys2Proof.Claims.EngineStart : Prop := ∀ (s : State) (die core : Nat) (q : Mma) (rest : List Mma),
  let ck := coreKey die core
  let e := Instr.mmaEngineStart die core
  let u := s.advance (q.due - s.cycle)
  let n := bRegs (mfmtOf q.word.fmt) q.size q.width
  let bs := (q.members.zip (q.vbs.zip q.bregs)).map (fun p => (s.ag p.1).bPart n p.2.1 p.2.2)
  let starts := q.started = false ∧ (s.ag q.lead).wait = .engine
  let valid := q.word.acc = false ∨ (s.tile ck q.word.zd).valid = true
  ((s.co ck).mmas = [] → exec e s = .next s) ∧
  ((s.co ck).mmas = q :: rest → ¬ starts → exec e s = .next s) ∧
  ((s.co ck).mmas = q :: rest → starts → q.word.acc = true → (s.tile ck q.word.zd).valid = false →
    exec e s = .next (u.mmaTrap ck q.members { cause := .zinvalid })) ∧
  ((s.co ck).mmas = q :: rest → starts → valid → (s.co ck).badAt q.base (1024 * q.size) = true →
    exec e s = .next (u.mmaTrap ck q.members { cause := .dataAbort, lane := 0xFF, addr := BitVec.ofNat 64 q.image.t.base })) ∧
  (∀ k, (u.ag k).ck = ck → (u.ag k).wait = .tile none → (((u.popMma ck).wakeTile ck).ag k).wait = .tile (some u.cycle)) ∧
  ((s.co ck).mmas = q :: rest → starts → valid → (s.co ck).badAt q.base (1024 * q.size) = false → mfmtOf q.word.fmt ≠ .p4 →
    Steps e s (fun t => (t.co ck).mmas = { q with started := true, begun := max s.cycle q.due, scales := [], bregs := bs,
                                                  abuf := memBytes (s.co ck).scratch q.base (min 512 (1024 * q.size)) } :: rest ∧
      (t.co ck).tiles = (s.co ck).tiles ∧ t.todo = s.todo ∧ t.mem = s.mem ∧
      (q.checked = false → ∀ k ∈ q.members, (s.ag k).live = true → (s.ag k).wait = .engine → (t.ag k).wait = .none) ∧
      ∀ k, SameRegs (s.ag k) (t.ag k) ∧ (t.ag k).pc = (s.ag k).pc))

/-- R251, R252: a started, unchecked `mma` writes its results, over all of A, to its tile in the last cycle it occupies the engine, sets the tile's valid bit unless it
accumulates, and raises its flags in every member of its team; other tiles stay, and the words that wait for it go on. R112, R447: one that repeats a failed self-check makes the error
transient or lasting, and writes no tile where it fails again. -/
def Sys2Proof.Claims.TileWrite : Prop := ∀ (s : State) (die core : Nat) (q : Mma) (rest : List Mma),
  let ck := coreKey die core
  let e := Instr.mmaTileWrite die core
  let t := s.tile ck q.word.zd
  let x := Mma.result { q with abuf := q.abuf ++ s.mmaBlocks ck q 4096 } t
  let done := s.cycle + (q.last - s.cycle)
  ((s.co ck).mmas = [] ∨ (s.co ck).mmas = q :: rest ∧ q.started = false → exec e s = .next s) ∧
  ((s.co ck).mmas = q :: rest → q.started = true → q.checked = true → q.again = true → die < 22 → Steps e s (fun u =>
    let fails := (mxDiff (s.co ck).mxUpset (16 * q.size)).isSome
    (u.no die).lasting = (if fails then min 255 ((s.no die).lasting + 1) else (s.no die).lasting) ∧ (u.no die).trans = (if fails then (s.no die).trans else min 0xFFFF ((s.no die).trans + 1)) ∧
    (fails → ∀ z, u.tile ck z = s.tile ck z))) ∧
  ((s.co ck).mmas = q :: rest → q.started = true → q.checked = false → q.members.Nodup →
    Steps e s (fun u => (u.co ck).mmas = rest.map (fun m => { m with due := max m.due (done + 1) }) ∧ u.cycle = done ∧
      (u.tile ck q.word.zd).valid = (t.valid || !q.word.acc) ∧ (u.tile ck q.word.zd).rows = t.rows ∧
      (∀ a, tfind x.1 a = none → tget (u.tile ck q.word.zd).el a = tget t.el a) ∧
      (∀ i j, i < 16 * q.size → j < 64 → ∃ y, (64 * i + j, y) ∈ x.1 ∧ tget (u.tile ck q.word.zd).el (64 * i + j) = y) ∧
      (∀ z, z ≠ q.word.zd → u.tile ck z = s.tile ck z) ∧ (u.co ck).scratch = (s.co ck).scratch ∧ u.mem = s.mem ∧
      (∀ k ∈ q.members, (s.ag k).team = q.team → (u.ag k).flags = (s.ag k).flags ||| x.2) ∧
      (∀ k, k ∉ q.members → (u.ag k).flags = (s.ag k).flags ∧ ((s.ag k).wait ≠ .tile none → u.ag k = s.ag k)) ∧
      ∀ k, (u.ag k).sreg = (s.ag k).sreg ∧ (u.ag k).vreg = (s.ag k).vreg ∧ (u.ag k).pc = (s.ag k).pc))

/-- R104 to R106: an INT8 product wraps at 32 bits; for a floating format the accumulator takes the two halves of K in turn, each a sum of exact products
rounded once. -/
def Sys2Proof.Claims.MatrixArithmetic : Prop := ∀ (f : MFmt) (m : Ex) (acc : Nat) (ps : List ((Nat × Nat) × (Nat × Nat))), acc < 2 ^ 32 →
  (f = .i8 → (mmaElem f m acc ps).2 = 0 ∧
    BitVec.ofNat 32 (mmaElem f m acc ps).1 = BitVec.ofNat 32 acc +
      (ps.map (fun p => (BitVec.ofNat 8 p.1.1).signExtend 32 * (BitVec.ofNat 8 p.2.1).signExtend 32)).foldl (· + ·) 0) ∧
  (f ≠ .i8 →
    let v := ps.map (fun p => (mfVal f p.1, mfVal f p.2))
    let one := accStep acc (chunkSum (v.take (mfK f / 2)) m)
    let two := accStep one.1 (chunkSum (v.drop (mfK f / 2)) m)
    mmaElem f m acc ps = (two.1, one.2 ||| two.2))

/-- R104–R106, R249, R251, R252: the matrix engine's start, its result and its arithmetic. -/
def Obligations.MatrixEngine : Prop := Claims.EngineStart ∧ Claims.TileWrite ∧ Claims.MatrixArithmetic

/-- R253 to R255: `zclr` makes a tile valid and all zero; `zwr` writes the active lanes' columns of one row and validates a tile whose rows have all been
written whole; `zrd` reads one row in a format, and traps ZINVALID on an invalid tile. -/
def Obligations.Tiles : Prop := ∀ (s : State) (c : Ctl) (z : BitVec 4) (va : BitVec 8) (row : SSrc) (o : ZrdOp),
  let ck := s.me.ck
  let w := s.me.width
  let others (z : Nat) (u : State) : Prop := (∀ y, y ≠ z → u.tile ck y = s.tile ck y) ∧ (u.co ck).scratch = (s.co ck).scratch ∧ u.mem = s.mem ∧ u.dies = s.dies ∧
    (∀ k, k ≠ ck → u.co k = s.co k) ∧ ∀ k, k ≠ s.cur → u.ag k = s.ag k
  let wr := Instr.zwr c z va row
  let rd := Instr.zrd c o
  let r (i : Instr) (x : SSrc) : Nat := ((s.sees i).ssrc false false x).toNat
  let t := s.tile ck z.toNat
  (s.co ck).mmas = [] → s.me.kind = .group → w = 16 ∨ w = 32 ∨ w = 64 →
  (s.ready (.zclr c z) = true → Completes (.zclr c z) s (fun u => u.tile ck z.toNat = ⟨true, t.rows, []⟩ ∧ (∀ i j, (u.tile ck z.toNat).at i j = 0) ∧
    others z.toNat u ∧ u.me.pc = s.after (.zclr c z) ∧ SameRegs s.me u.me)) ∧
  (s.ready wr = true → 63 < r wr row → Traps wr s { cause := .illegal }) ∧
  (s.ready wr = true → r wr row ≤ 63 → Completes wr s (fun u =>
    let t' := u.tile ck z.toNat
    (∀ j, j < 64 → (s.lanes wr).getLsbD (j % w) = true → t'.at (r wr row) j = ((s.sees wr).v32 (va.toNat + j / w) (j % w)).toNat) ∧
    (∀ i j, j < 64 → ¬ (i = r wr row ∧ (s.lanes wr).getLsbD (j % w) = true) → t'.at i j = t.at i j) ∧
    t'.rows = (if s.lanes wr = allLanes w then t.rows ||| BitVec.twoPow 64 (r wr row) else t.rows) ∧
    t'.valid = (t.valid || t'.rows == BitVec.allOnes 64) ∧ others z.toNat u ∧ u.me.pc = s.after wr ∧ SameRegs s.me u.me)) ∧
  (s.ready rd = true → 63 < r rd o.row → Traps rd s { cause := .illegal }) ∧
  (s.ready rd = true → r rd o.row ≤ 63 → (s.tile ck o.z.toNat).valid = false → Traps rd s { cause := .zinvalid }) ∧
  (s.ready rd = true → r rd o.row ≤ 63 → (s.tile ck o.z.toNat).valid = true →
    let x (j : Nat) : Nat × BitVec 6 := zConv o.fmt ((s.tile ck o.z.toNat).at (r rd o.row) j) o.rnd o.sat
    RegisterWord rd s (fun u =>
      (∀ j, j < 64 → (s.lanes rd).getLsbD (j % w) = true → u.me.v32 (o.d.toNat + j / w) (j % w) = BitVec.ofNat 32 (x j).1) ∧
      (∀ q l, l < 64 → ¬ ((s.lanes rd).getLsbD l = true ∧ o.d.toNat ≤ q ∧ q < o.d.toNat + 64 / w) → u.me.v32 q l = s.me.v32 q l) ∧
      u.me.sreg = s.me.sreg ∧ u.me.kreg = s.me.kreg ∧
      u.me.flags = ((List.range 64).filter (fun j => (s.lanes rd).getLsbD (j % w))).foldl (fun fl j => fl ||| (x j).2) s.me.flags))

/-! ## The tensor table, sweeps and the epilogue (R24–R29, R256–R270) -/

/-- R25, R29, R262 to R264: `ttset` writes one field of an image and clears its counters, a value that does not fit traps ILLEGAL; `ttidx` reads and writes a
counter; `ttld` and `ttst` move a whole image. -/
def Sys2Proof.Claims.TensorTable : Prop := ∀ (s : State) (c : Ctl) (td sa : BitVec 6) (sel : BitVec 8) (ax : BitVec 3),
  let team := s.me.team
  let set := Instr.ttset c td sa sel
  let x := (s.sees set).s64 sa.toNat
  let old := (s.entry s.me td).image
  let takes (i : Instr) (e : TEntry) : Prop := Completes i s (fun u => u.tm team = { s.tm team with tt := tput (s.tm team).tt td.toNat e } ∧
    u.me.pc = s.after i ∧ SameRegs s.me u.me ∧ u.mem = s.mem ∧ u.cores = s.cores ∧ u.dies = s.dies ∧ (∀ k, k ≠ team → u.tm k = s.tm k) ∧ ∀ k, k ≠ s.cur → u.ag k = s.ag k)
  let wr := Instr.ttidx c true sa td ax
  let rd := Instr.ttidx c false sa td ax
  let ld := Instr.ttld c td sa
  let st := Instr.ttst c td sa
  (s.ready set = true →
    (sel = 0 → takes set ⟨true, imgPut old 0 64 x.toNat, []⟩) ∧ (sel = 1 → takes set ⟨true, imgPut old 64 64 x.toNat, []⟩) ∧
    (2 ≤ sel.toNat → sel.toNat < 10 → x.toNat < 2 ^ 24 → takes set ⟨true, imgPut old (128 + 24 * (sel.toNat - 2)) 24 x.toNat, []⟩) ∧
    (2 ≤ sel.toNat → sel.toNat < 10 → 2 ^ 24 ≤ x.toNat → Traps set s { cause := .illegal }) ∧
    (10 ≤ sel.toNat → x = (x.setWidth 24).signExtend 64 → takes set ⟨true, imgPut old (320 + 24 * (sel.toNat - 10)) 24 x.toNat, []⟩) ∧
    (10 ≤ sel.toNat → x ≠ (x.setWidth 24).signExtend 64 → Traps set s { cause := .illegal })) ∧
  (s.ready wr = true →
    let y := (s.sees wr).s32 sa.toNat
    (2 ^ 24 ≤ y.toNat → Traps wr s { cause := .illegal }) ∧
    (y.toNat < 2 ^ 24 → takes wr { s.entry s.me td with idx := tput (s.entry s.me td).idx ax.toNat (y.setWidth 24) })) ∧
  (s.ready rd = true → WritesScalar rd s false sa ((tget (s.entry s.me td).idx ax.toNat).setWidth 64)) ∧
  (s.ready ld = true →
    let ea := (s.sees ld).s64 sa.toNat
    let l := (lanesOf (s.lanes ld)).headD 0
    (addrBad (s.begun ld) (s.sees ld) ea .read = false → ea.toNat % 64 ≠ 0 → Traps ld s { cause := .align, addr := ea, lane := l }) ∧
    (ea.toNat % 64 = 0 → s.owes s.cur = false → ∀ sp u xs v, (s.begun ld).laneChecks (s.sees ld) (pieces l ea) 16 .read = (.ok sp, u) → u.loadLanes s.cur 16 .none sp = (.ok xs, v) →
      Ends ld s { s := v.putImage team td.toNat (BitVec.ofNat 512 (xs.foldr (fun p a => p.2 + 2 ^ 128 * a) 0)) })) ∧
  (s.ready st = true →
    let ea := (s.sees st).s64 sa.toNat
    let l := (lanesOf (s.lanes st)).headD 0
    (addrBad (s.begun st) (s.sees st) ea .write = false → ea.toNat % 64 ≠ 0 → Traps st s { cause := .align, addr := ea, lane := l }) ∧
    (ea.toNat % 64 = 0 → s.owes s.cur = false → ∀ sp u, (s.begun st).laneChecks (s.sees st) (pieces l ea) 16 .write = (.ok sp, u) →
      Ends st s { s := sp.zipIdx.foldl (fun u p => u.pushStore s.cur p.1.2.1 p.1.2.2 16 (imgBits (s.entry s.me td).image (128 * p.2) 128) .none) u }))

/-- R25: writing one field of an image leaves every bit outside the field, and the field holds the value's low bits. -/
def Sys2Proof.Claims.ImageFields : Prop := ∀ (img : BitVec 512) (lo n x : Nat), lo + n ≤ 512 →
  imgBits (imgPut img lo n x) lo n = x % 2 ^ n ∧ ∀ b, b < lo ∨ lo + n ≤ b → (imgPut img lo n x).getLsbD b = img.getLsbD b

/-- R25, R29, R262–R264: the words on tensor-table entries and the fields they write. -/
def Obligations.TensorTables : Prop := Claims.TensorTable ∧ Claims.ImageFields

/-- R265 to R269: every `tew` form: what each element is computed from, the sweep from the counters, and where it stops. -/
def Obligations.Sweeps : Prop := ∀ (s : State) (c : Ctl) (o : TewC) (tb tc sb : BitVec 6) (r : TRed),
  let x (i : Nat) (xs : List Nat) : Ex := argV xs i
  MapForm (.tewAdd c o tb) s o [o.ta, tb] (fun xs => (x 0 xs).add o.rnd (x 1 xs)) ∧
  MapForm (.tewSub c o tb) s o [o.ta, tb] (fun xs => (x 0 xs).add o.rnd (x 1 xs).neg) ∧
  MapForm (.tewMul c o tb) s o [o.ta, tb] (fun xs => (x 0 xs).mul (x 1 xs)) ∧
  MapForm (.tewFma c o tb tc) s o [o.ta, tb, tc] (fun xs => Ex.fma o.rnd (x 0 xs) (x 1 xs) (x 2 xs)) ∧
  MapForm (.tewMin c o tb) s o [o.ta, tb] (tewMM false) ∧ MapForm (.tewMax c o tb) s o [o.ta, tb] (tewMM true) ∧
  MapForm (.tewScale c o sb) s o [o.ta] (fun xs => (x 0 xs).mul (ff32.value ((s.sees (.tewScale c o sb)).s32 sb.toNat).toNat)) ∧
  MapForm (.tewExp2 c o) s o [o.ta] (fun xs => (ff32.value (sfu 3 ((xs[0]?).getD 0)).1, (sfu 3 ((xs[0]?).getD 0)).2)) ∧
  MapForm (.tewRelu c o) s o [o.ta] (fun xs => (ff32.value (relu ((xs[0]?).getD 0)).1, (relu ((xs[0]?).getD 0)).2)) ∧
  MapForm (.tewSelect c o tb tc) s o [o.ta, tb, tc] (fun xs => (if (x 2 xs).isZero then x 1 xs else x 0 xs, 0)) ∧
  SweepForm (.tewCvt c o) s o [o.ta] (cvtOk o) (fun ts key lane s idx => s.tValue key lane (ts.headD (tensOf 0)) idx) (cvtConv o) ∧
  SweepForm (.tewRrow c r o) s o [o.ta] (redOk 0) (redElem r 0) (tewConv o) ∧ SweepForm (.tewRcol c r o) s o [o.ta] (redOk 1) (redElem r 1) (tewConv o) ∧
  (let i := Instr.tewCopy c o
   let d := s.entry s.me o.td
   let e := s.entry s.me o.ta
   let left := d.t.count - d.start
   let run := sweepFrom (copyUnit s.cur ((lanesOf (s.lanes i)).headD 0) d.t e.t) d.t.unit ((left + d.t.unit - 1) / d.t.unit) d.start ⟨(s.begun i).drainAll s.cur, [], 0⟩
   let check := tewCheck d [e] (d.t.f == e.t.f) (shapeOk d.t e.t none)
   s.ready i = true →
   (∀ t, check = some t → Traps i s t) ∧
   (check = none → s.owes s.cur = false → ∀ z, run = (z, none) → Ends i s { s := (z.s.putIdx s.me.team o.td.toNat []).advance ((left + 15) / 16) }) ∧
   (check = none → s.owes s.cur = false → ∀ z k e, run = (z, some (k, e)) → exec i s = (z.s.putIdx s.me.team o.td.toNat (d.t.counters k)).takeTrap s.cur (e.trap 0xFF)))

/-- R252, R257 to R260: `epi` traps on ill-formed entries; toward global memory it does not issue while there is no room for its command; it waits for the
`mma`s on its tile the core accepted earlier, and traps on an invalid tile and on entries that cannot be used; then it sweeps at once toward the scratchpad, and
toward global memory places a command that holds the tile's values. -/
def Obligations.Epilogue : Prop := ∀ (s : State) (c : Ctl) (o : EpiOp) (ck : Nat),
  let i := Instr.epi c o
  let d := s.entry s.me o.td
  let b := if o.tb = 0 then none else some (s.entry s.me o.tb)
  let tile := s.tile s.me.ck o.z.toNat
  let scale := (s.sees i).s32 o.sc.toNat
  let courier := s.courierOn s.me.team s.me.ck
  let ill := epiIll d b
  let check := epiCheck o.rnd d b courier
  let room := ∀ k, courier = some k → s.epiRoom s.me.ck k o.rcpt.toNat = true
  let first := ∀ m ∈ (s.co s.me.ck).mmas, m.word.zd ≠ o.z.toNat
  s.ready i = true →
  (ill = true → Traps i s { cause := .ttIllformed }) ∧
  (ill = false → d.t.aper = .global → s.me.held = none → courier = some ck → s.epiRoom s.me.ck ck o.rcpt.toNat = false →
    exec i s = .next ((s.begun i).setAg s.cur { (s.begun i).ag s.cur with ready := (s.begun i).cycle + 1 })) ∧
  (ill = false → s.me.held = none → room → (∃ m ∈ (s.co s.me.ck).mmas, m.word.zd = o.z.toNat ∧ m.latched < (s.begun i).cycle) →
    Goes i s s.me.pc (fun u => u.me.wait = .tile none ∧ u.me.rest = s.me.rest ∧ SameRegs s.me u.me)) ∧
  (ill = false → room → first → tile.valid = false → Traps i s { cause := .zinvalid }) ∧
  (∀ t, ill = false → room → first → tile.valid = true → check = some t → Traps i s t) ∧
  (ill = false → room → first → tile.valid = true → check = none → s.owes s.cur = false →
    (d.t.aper ≠ .global →
      let a := (s.begun i).drainAll s.cur
      let unit := epiUnit s.cur ((lanesOf (s.lanes i)).headD 0) s.me.width true d.t (b.map TEntry.t) tile.el scale (Act.num o.act) o.rnd o.sat
      ∀ z, sweepFrom unit d.t.unit (d.t.count / d.t.unit) 0 ⟨a, (a.ag s.cur).rng, 0⟩ = (z, none) →
        let rate := if Act.num o.act < 3 then 16 else 4
        Ends i s { s := (z.s.setAg s.cur { z.s.ag s.cur with rng := z.rng }).advance (10 + (d.t.count + rate - 1) / rate), fl := z.fl }) ∧
    (d.t.aper = .global → courier = some ck → s.me.sq = [] → Completes i s (fun u =>
      let x : Cmd := { kind := .epi, dst := d, third := b.getD ⟨false, 0, []⟩, hasThird := b.isSome, rcpt := o.rcpt.toNat, scale := scale,
                       act := Act.num o.act, sat := o.sat, rnd := o.rnd, snap := tile.el, rng := s.me.rng, width := s.me.width, placed := (s.begun i).cycle }
      u.cc ck = ((s.cc ck).name o.rcpt.toNat).push 5 x ∧ (u.cc ck).snapshots = (s.cc ck).snapshots + 1 ∧ u.todo = s.todo ++ [.commandStart ck 5] ∧
      u.tile s.me.ck o.z.toNat = tile ∧ u.me.pc = s.after i ∧ SameRegs s.me u.me ∧
      u.me.rng = (if o.rnd = .sr then stepAll s.me.rng s.me.width (d.t.ex 0) (d.t.ex 1) else s.me.rng) ∧ u.mem = s.mem ∧ ∀ k, k ≠ s.cur → u.ag k = s.ag k)))

/-- R258 to R260: every `epi` of well-formed entries that R257 allows, on a valid tile with no `mma` before it, completes once the group's accesses to other
packages have ended: toward global memory when its courier context's eq, the core's staging and the receipt have room, and toward the scratchpad where no
postbox is armed, no byte withheld, and each element of the destination and the bias is an aligned address of the aperture. -/
def Sys2Proof.Claims.EpilogueCompletes : Prop := ∀ (s : State) (c : Ctl) (o : EpiOp) (ck : Nat),
  let i := Instr.epi c o
  let d := s.entry s.me o.td
  let b := if o.tb = 0 then none else some (s.entry s.me o.tb)
  let courier := s.courierOn s.me.team s.me.ck
  let near (t : Tens) (x : List Nat) : Prop := aperOf (t.addr x).1 = .spad ∧ (t.addr x).1.toNat % t.size = 0 ∧ (t.f = .p4 → aperOf (t.scaleAddr (t.block x)) = .spad)
  s.ready i = true → s.owes s.cur = false → epiIll d b = false → (∀ m ∈ (s.co s.me.ck).mmas, m.word.zd ≠ o.z.toNat) →
  (s.tile s.me.ck o.z.toNat).valid = true → epiCheck o.rnd d b courier = none →
  (d.t.aper = .global → courier = some ck → s.epiRoom s.me.ck ck o.rcpt.toNat = true → s.me.sq = [] →
    ∃ t, exec i s = .next t ∧ t.me.pc = s.after i ∧ t.me.wait = .none ∧ ((t.cc ck).queue 5).length = ((s.cc ck).queue 5).length + 1) ∧
  (d.t.aper = .spad → s.me.sq = [] → (s.teamOf s.me).pbx = [] → (∀ c, (s.co c).bad = []) → (∀ k, k < d.t.count → near d.t (d.t.idx k)) →
    (∀ e, b = some e → ∀ k, k < d.t.count → near e.t [(d.t.idx k).headD 0]) → ∃ t, exec i s = .next t ∧ t.me.pc = s.after i ∧ t.me.wait = .none)

/-! ## The courier's words (R271–R304) -/

/-- R274, R281, R287, R290, R297, R302: each placing word puts its command last in its queue with copies of its entries, and names its receipt. -/
def Obligations.Placing : Prop := ∀ (s : State) (c : Ctl) (o : CopyOp) (list : BitVec 4) (e : SealOp) (l : LayoutOp) (k : CollOp),
  let cp := Instr.copy c o
  let dl := Instr.copyDl c o list
  let se := Instr.copySeal c e
  let la := Instr.layout c l
  let co := Instr.coll c k
  let pbx (i : Instr) (r : Option (BitVec 6)) : Option W64 := r.map (fun q => (s.sees i).s64 q.toNat)
  let placed (i : Instr) (r : Option (BitVec 6)) : Prop := ∀ q, r = some q → ∃ off, pbxArg (s.teamOf s.me) ((s.sees i).s64 q.toNat) = .ok off
  let ch := (s.cc s.cur).chain e.queue.toNat
  let g := ((s.sees co).s32 k.sb.toNat).toNat
  (s.ready cp = true → placed cp o.pbx → Places cp s o.queue.toNat
    { kind := .copy, dst := s.entry s.me o.td, src := s.entry s.me o.ta, trans := o.trans, pad := o.pad, blk := o.blk, pbx := pbx cp o.pbx, rcpt := o.rcpt.toNat } id) ∧
  (s.ready dl = true → (s.launchOf s.me).hdr.ndl ≤ list.toNat → Traps dl s { cause := .illegal }) ∧
  (s.ready dl = true → list.toNat < (s.launchOf s.me).hdr.ndl → placed dl o.pbx → Places dl s o.queue.toNat
    { kind := .copyDl, dst := s.entry s.me o.td, src := s.entry s.me o.ta, trans := o.trans, pad := o.pad, blk := o.blk, pbx := pbx dl o.pbx, rcpt := o.rcpt.toNat,
      list := list.toNat } id) ∧
  (s.ready se = true → Places se s e.queue.toNat
    { kind := .copySeal, dst := s.entry s.me e.td, src := s.entry s.me e.ta, rcpt := e.rcpt.toNat,
      seed := if ch.isOpen then none else some ((s.sees se).s32 e.sb.toNat), expect := e.last.map (fun r => (s.sees se).s32 r.toNat) }
    (fun cc => { cc with chains := tput cc.chains e.queue.toNat { ch with isOpen := e.last.isNone } })) ∧
  (s.ready la = true → placed la l.pbx → Places la s 4
    { kind := .layout, dst := s.entry s.me l.td, src := s.entry s.me l.ta, dmw := (s.sees la).s64 l.sb.toNat, pbx := pbx la l.pbx, rcpt := l.rcpt.toNat,
      seq := (s.begun la).cycle } id) ∧
  (s.ready co = true → 15 < g → Traps co s { cause := .illegal }) ∧
  (s.ready co = true → g ≤ 15 → Places co s 6
    { kind := .coll, dst := s.entry s.me k.td, src := s.entry s.me k.ta, rcpt := k.rcpt.toNat, ckind := k.kind, cop := k.op, group := g,
      seq := tget (s.cc s.cur).colls g } (fun cc => { cc with colls := tput cc.colls g (tget (s.cc s.cur).colls g + 1) }))

/-- R38, R278 to R280, R288, R301: waiting for receipts, markers, and the words that read receipts, lists and groups. -/
def Sys2Proof.Claims.Receipts : Prop := ∀ (s : State) (c : Ctl) (mask : BitVec 8) (qm : BitVec 7) (d sb : BitVec 6) (q : BitVec 3) (list : BitVec 4),
  let wa := Instr.qwait c mask
  let fe := Instr.qfence c qm
  let st := Instr.qstat c d q
  let ck := Instr.dlchk c d list
  let cg := Instr.cgmem c d sb
  let r := (s.cc s.cur).rcpt q.toNat
  let l := list.toNat
  let teams := if l < (s.launchOf s.me).hdr.ndl then (tget (s.launchOf s.me).hdr.dlists l).toNat else 0
  let g := ((s.sees cg).s32 sb.toNat).toNat
  let qs := (List.range 7).filter (fun q => qm.getLsbD q)
  (s.ready wa = true →
    ((s.cc s.cur).idle mask = true → Ends wa s { s := (s.begun wa).acquireAt s.cur .dom }) ∧
    ((s.cc s.cur).idle mask = false → Goes wa s (s.after wa) (fun u => u.me.wait = .receipts mask ∧ u.me.rest = s.me.rest ∧ SameRegs s.me u.me))) ∧
  (s.ready fe = true → (∀ q, q < 7 → qm.getLsbD q = true → ((s.cc s.cur).queue q).length < qDepth q) →
    Completes fe s (fun u => u.nextMark = s.nextMark + 1 ∧ u.me.pc = s.after fe ∧ SameRegs s.me u.me ∧ u.mem = s.mem ∧
      u.todo = s.todo ++ qs.map (fun q => .commandStart s.cur q) ∧
      (∀ q, q < 7 → (u.cc s.cur).queue q = if qm.getLsbD q then (s.cc s.cur).queue q ++ [{ kind := .marker, mark := s.nextMark }] else (s.cc s.cur).queue q) ∧
      (u.cc s.cur).rcpts = (s.cc s.cur).rcpts ∧ ∀ k, k ≠ s.cur → u.cc k = s.cc k)) ∧
  (s.ready st = true → WritesScalar st s true d (BitVec.ofNat 64 (r.status + 256 * r.count + 65536 * r.flags.toNat))) ∧
  (s.ready ck = true → WritesScalar ck s false d (BitVec.ofNat 64 ((65536 * teams + min 0xFFFF (s.dlBusy (s.teamOf s.me) l)) % 2 ^ 32))) ∧
  (s.ready cg = true → (15 < g → Traps cg s { cause := .illegal }) ∧ (g ≤ 15 → WritesScalar cg s true d (s.liveMask (s.ctxOf s.me) g)))

/-- R37, R38: a receipt counts the commands that name it, takes the worst outcome of its run, and shows it when the last one completes. -/
def Sys2Proof.Claims.ReceiptCounts : Prop := ∀ (cc : CCtx) (q out : Nat) (fl : BitVec 8), q < 8 →
  let r := cc.rcpt q
  let worst := if outRank r.held < outRank out then out else r.held
  (r.count = 0 → (cc.name q).rcpt q = ⟨1, 1, 0, 0⟩) ∧
  (0 < r.count → (cc.name q).rcpt q = { r with count := r.count + 1 }) ∧
  (1 < r.count → (cc.complete q out fl).rcpt q = ⟨r.count - 1, r.status, r.flags ||| fl, worst⟩) ∧
  (r.count = 1 → (cc.complete q out fl).rcpt q = ⟨0, worst, r.flags ||| fl, worst⟩) ∧
  ∀ p, p ≠ q → (cc.name q).rcpt p = cc.rcpt p ∧ (cc.complete q out fl).rcpt p = cc.rcpt p

/-- R37, R38, R278–R280, R288, R301: receipts, markers and what they count. -/
def Obligations.ReceiptWords : Prop := Claims.Receipts ∧ Claims.ReceiptCounts

/-! ## Issue checks and traps (R55, R128, R155, R309–R317, R320) -/

/-- R55, R128, R155, R308: the checks of every word that has an encoding in their order: subset, privilege, register allocation, then the checking scoreboard, an H word's
record naming half B where half A meets none (R122); a word with no active
lane that does not act without one only advances; an agent that has ended does not issue. -/
def Sys2Proof.Claims.IssueChecks : Prop := ∀ (s : State) (i : Instr) (p : Pend), (encode i).isSome = true →
  let sh := s.shapeOf i
  let traps (c : Cause) (r : Nat) : Prop := exec i s = s.takeTrap s.cur { cause := c, reg := r, halfB := s.me.inHalfB i }
  (s.me.live = false → exec i s = .next s) ∧
  (s.me.live = true → i.wf = false → traps .illegal 0) ∧
  (s.me.live = true → i.wf = true →
    (s.me.kind = .group → sh.courier = true → traps .role 0) ∧
    (s.me.kind = .group → sh.courier = false → sh.matrix = true → s.me.matrix = false → traps .role 0) ∧
    (s.me.kind ≠ .group → sh.group = true ∨ sh.matrix = true → traps .illegal 0) ∧
    (s.me.kind = .group → sh.courier = false → sh.matrix = false → sh.priv = true → traps .priv 0) ∧
    (s.me.kind = .courier → sh.group = false → sh.matrix = false → sh.priv = true → traps .priv 0) ∧
    (s.me.issueTrap sh = none → s.tooEarly i = some p →
      exec i s = (s.advance (s.startOf i - s.cycle)).takeTrap s.cur { cause := .stallShort, reg := p.idx, detail64 := p.pc, halfB := s.me.earlyInB i p }) ∧
    (s.me.issueTrap sh = none → s.tooEarly i = none → s.effective i = false → Goes i s (s.after i) (fun u => u.me.rest = s.me.rest ∧ SameRegs s.me u.me ∧ u.me.wait = .none)))

/-- R12, R155: a word of a group that names a register at or above its allocation traps ILLEGAL with the register named, a scalar one before a vector one where
it comes first among the word's operands. -/
def Sys2Proof.Claims.Allocation : Prop := ∀ (s : State) (c : Ctl) (o : SBin) (v : VBin) (sat : Bool),
  s.me.live = true → s.me.kind = .group → (Instr.sadd c o).wf = true → (Instr.vadd c sat v).wf = true → o.w64 = false → v.w64 = false →
  (s.me.ns ≤ o.a.toNat → exec (.sadd c o) s = s.takeTrap s.cur { cause := .illegal, reg := o.a.toNat }) ∧
  (o.a.toNat < s.me.ns → (∀ r, o.b = .reg r → r.toNat < s.me.ns) → s.me.ns ≤ o.d.toNat → exec (.sadd c o) s = s.takeTrap s.cur { cause := .illegal, reg := o.d.toNat }) ∧
  (s.me.nv ≤ v.a.toNat → exec (.vadd c sat v) s = s.takeTrap s.cur { cause := .illegal, reg := v.a.toNat }) ∧
  (v.a.toNat < s.me.nv → (∀ r, v.b = .v r → r.toNat < s.me.nv) → (∀ r, v.b = .s r → r.toNat < s.me.ns) → s.me.nv ≤ v.d.toNat →
    exec (.vadd c sat v) s = s.takeTrap s.cur { cause := .illegal, reg := v.d.toNat })

/-- R12, R55, R128, R155, R308: the checks of a word in their order, and its registers' allocation. -/
def Obligations.IssueOfWords : Prop := Claims.IssueChecks ∧ Claims.Allocation

/-- R310, R316: a trap the kernel handles, of an agent in no gang, ends at the kernel's trap vector with the handler bit set, and S[n-2].64 names the record. -/
def Sys2Proof.Claims.KernelTrap : Prop := ∀ (s : State) (key : Nat) (t : Trap) (tv : W64),
  let a := s.ag key
  let ctx := s.ctxOf a
  let base := (s.cx ctx).errBase
  let x := if a.kind = .courier then 32 + a.slot else a.slot
  a.kind ≠ .firmware → t.cause.firmware = false → a.inHandler = false → a.inSave = false → a.inRestore = false → (s.launchOf a).hdr.trapvec = some tv → a.gang = 0 → 2 ≤ a.ns → a.sq = [] →
  ∃ u, s.takeTrap key t = .next u ∧ (u.ag key).pc = tv ∧ (u.ag key).inHandler = true ∧ (u.ag key).trapDepth = a.depth ∧ (u.ag key).wait = .none ∧ (u.ag key).act = a.act ∧ (u.ag key).pres = a.pres ∧
    (u.ag key).s64 (a.ns - 2) = base + BitVec.ofNat 64 (s.ctxField a.die ctx (base.toNat + 16) 8 + 64 * (1024 * a.die + 64 * a.core + x)) ∧
    (∀ q, q ≠ a.ns - 2 → q ≠ a.ns - 1 → (u.ag key).s32 q = a.s32 q) ∧ (u.ag key).vreg = a.vreg ∧ (u.ag key).kreg = a.kreg ∧ (u.ag key).flags = a.flags

/-- R310, R311: any other trap of an agent in no gang stops it in place and puts its record, not yet disposed of, in the die controller's ring, which trap
entry then serves; a shadow check that fails again where its word is replayed is a lasting error of the die (R447). -/
def Sys2Proof.Claims.RingTrap : Prop := ∀ (s : State) (key : Nat) (t : Trap),
  let a := s.ag key
  let d := s.di a.die
  let r := s.record key t
  a.kind ≠ .firmware → t.cause.firmware = true ∨ a.inHandler = true ∨ a.inSave = true ∨ a.inRestore = true ∨ (s.launchOf a).hdr.trapvec = none → a.gang = 0 →
  d.ringPos < 256 → d.ring.any (fun p => p.1 == d.ringPos) = false → Mem.wf (s.no a.die).priv = true →
  (t.cause = .shadow → a.retried = some a.pc → ∃ u, s.takeTrap key t = .next u ∧ (u.ag key).wait = .ring d.ringPos ∧ (u.no a.die).icause = 0x08 ∧
    (u.no a.die).lasting = min 255 ((s.no a.die).lasting + 1) ∧ ((u.no a.die).reached = true → Todo.nodeFence a.die ∈ u.todo)) ∧
  (t.cause ≠ .shadow ∨ a.retried ≠ some a.pc → ∃ u, s.takeTrap key t = .next u ∧ (u.di a.die).ring = d.ring ++ [(d.ringPos, r)] ∧ (u.ag key).wait = .ring d.ringPos ∧ (u.ag key).wpc = a.pc ∧
    SameRegs a (u.ag key) ∧ u.todo = s.todo ++ [.dcTrapEntry a.die] ∧ (∀ k, k ≠ key → u.ag k = s.ag k) ∧ u.mem = s.mem ∧
    memBytes (u.no a.die).priv (ringAddr d.ringPos) 64 = s.recBytes r ∧ r.cause = t.cause.code ∧ r.addr = t.addr ∧ r.lane = t.lane ∧ r.active = a.act ∧
    r.pc = t.pc.getD a.pc ∧ memGet (u.no a.die).priv (ringAddr d.ringPos + 62) = 0)

/-- R312, R314, R315: trap entry saves the controller's pc and starts it at sys.trapvec; it is held during trap entry and when nothing is pending; `eret` goes back
to the saved pc, and to the wait the controller was in, and ends trap entry; a record disposed of with 1 has its agent issue the record's word again, with 2 its context killed. -/
def Sys2Proof.Claims.TrapEntryAndReturn : Prop := ∀ (s : State) (c : Ctl) (die i : Nat) (r : TrapRec),
  let d := s.di die
  let f := fwKey die
  let pending := d.ring.any (fun p => memGet (s.no die).priv (ringAddr p.1 + 62) == 0)
  let back (u : State) : Prop := (u.di die).inTrap = false ∧ (u.ag f).pc = d.excPc ∧ (u.ag f).wait = (if d.excF = true ∨ d.excWait = .remote then .none else d.excWait)
  (d.inTrap = true ∨ d.noCtl = true ∨ pending = false → exec (.dcTrapEntry die) s = .next s) ∧
  (d.inTrap = false → d.noCtl = false → pending = true →
    Steps (.dcTrapEntry die) s (fun u => (u.di die).inTrap = true ∧ (u.di die).excPc = (s.ag f).pc ∧ (u.di die).excWait = (s.ag f).wait ∧ (u.di die).ring = d.ring ∧ (u.ag f).pc = d.trapvec ∧ (u.ag f).wait = .none ∧
      (∀ k, k ≠ f → u.ag k = s.ag k) ∧ u.mem = s.mem)) ∧
  (s.ready (.eret c) = true → s.me.die = die → die < 22 → s.cur = f → s.reqs = [] → (∀ p ∈ s.agents, p.2.wait ≠ .ring 256) →
    (d.ring = [] → Completes (.eret c) s back) ∧
    (d.ring = [(i, r)] → r.engine = false → r.live = true → r.agent ≠ f → (s.ag r.agent).gang = 0 → (s.ag r.agent).wait = .ring i → i < 256 →
      (s.co (s.ag r.agent).ck).mmas = [] →
      (memGet (s.no die).priv (ringAddr i + 62) = 1 →
        Completes (.eret c) s (fun u => back u ∧ (u.di die).ring = [] ∧ (u.ag r.agent).wait = .none ∧ (u.ag r.agent).pc = r.pc ∧ SameRegs (s.ag r.agent) (u.ag r.agent))) ∧
      (memGet (s.no die).priv (ringAddr i + 62) = 2 →
        Completes (.eret c) s (fun u => back u ∧ (u.di die).ring = [] ∧ (u.ag r.agent).wait = .halted ∧ Todo.contextKill r.ctx ∈ u.todo))))

/-- R317, R320: `trap` takes cause TRAP with its code in DETAIL32 and the following word's address; code 255 in a handler restores the pc, the active mask and
S[n-2].64 from the record, or gives them values left open where the divergence depth is not the one at the trap (R9), and outside one traps ILLEGAL. -/
def Sys2Proof.Claims.TrapWord : Prop := ∀ (s : State) (c : Ctl) (code : BitVec 8),
  let i := Instr.trap c code
  let l := (lanesOf (s.lanes i)).headD 0
  s.ready i = true →
  (code ≠ 255 → Traps i s { cause := .trap, detail32 := code.setWidth 32, pc := some (s.me.pc + 8) }) ∧
  (code = 255 → s.me.inHandler = false → Traps i s { cause := .illegal }) ∧
  (code = 255 → s.me.inHandler = true → s.owes s.cur = false → 2 ≤ s.me.ns → ∀ pc act saved u, (s.begun i).loadRecord s.cur l ((s.sees i).s64 (s.me.ns - 2)) = (.ok (pc, act, saved), u) →
    SameRegs s.me (u.ag s.cur) → (u.ag s.cur).ns = s.me.ns → (u.ag s.cur).pres = s.me.pres → u.cur = s.cur →
    let back (pc act saved : W64) : Prop := Completes i s (fun t => t.me.pc = pc ∧ t.me.inHandler = false ∧ t.me.act = act &&& s.me.pres ∧ t.me.s64 (s.me.ns - 2) = saved ∧
      (∀ q, q ≠ s.me.ns - 2 → q ≠ s.me.ns - 1 → t.me.s32 q = s.me.s32 q) ∧ t.me.flags = s.me.flags)
    ((u.ag s.cur).depth = (u.ag s.cur).trapDepth → back pc act saved) ∧
    ((u.ag s.cur).depth ≠ (u.ag s.cur).trapDepth → back (freeW64 u.fresh 0) (freeW64 u.fresh 1) (freeW64 u.fresh 2)))

/-- R310–R317, R320: taking a trap, trap entry, `eret` and `trap`. -/
def Obligations.Traps : Prop := Claims.KernelTrap ∧ Claims.RingTrap ∧ Claims.TrapEntryAndReturn ∧ Claims.TrapWord

/-! ## System words (R44–R50, R321–R330) -/

/-- R44, R45, R162: what `movs` reads from each special register; a read of ptb.lo latches ptb.hi for the next read of it, and lane.id needs a vector
destination in a group. -/
def Sys2Proof.Claims.SpecialRegisters : Prop := ∀ (s : State) (c : Ctl) (d : BitVec 6) (v : BitVec 8) (k : Nat),
  let i (r : Spec) := Instr.movs c r (.s d)
  let t := s.teamOf s.me
  let la := s.launchOf s.me
  let grp := s.me.kind = .group
  let n (x : Nat) : W64 := BitVec.ofNat 64 x
  let reads (r : Spec) (x : W64) : Prop := s.ready (i r) = true → WritesScalar (i r) s r.wide d x
  let now (r : Spec) : Nat := (s.begun (i r)).ptbAt s.me.die
  reads .grpId (if grp then n s.me.slot else 0) ∧ reads .grpWidth (if grp then n s.me.width else 0) ∧ reads .teamId (if grp then n t.teamId else 0) ∧
  reads .teamGroups (n la.hdr.teamg) ∧ reads .launchId (n la.lid) ∧ reads .dieId (n s.me.die) ∧ reads .coreId (n s.me.core) ∧ reads .ctxId (n (s.ctxOf s.me)) ∧
  (1 ≤ la.bgx → 1 ≤ la.bgy → reads .bgX (n (t.bg % la.bgx)) ∧ reads .bgY (n (t.bg / la.bgx % la.bgy)) ∧ reads .bgZ (n (t.bg / (la.bgx * la.bgy)))) ∧
  reads .bgCount (n (la.bgx * la.bgy * la.bgz)) ∧ reads .capGen (n s.capGen) ∧
  reads .spoorFlag (if (s.cx (s.ctxOf s.me)).spoor then 1 else 0) ∧ reads .spoorAddr (s.cx (s.ctxOf s.me)).spoorAddr ∧
  (s.ready (i .ptbLo) = true → Goes (i .ptbLo) s (s.after (i .ptbLo)) (fun u => u.me.s32 d.toNat = BitVec.ofNat 32 (now .ptbLo) ∧
    u.me.ptbLatch = some (BitVec.ofNat 32 (now .ptbLo / 2 ^ 32)))) ∧
  (s.ready (i .ptbHi) = true → Goes (i .ptbHi) s (s.after (i .ptbHi)) (fun u => u.me.s32 d.toNat = s.me.ptbLatch.getD (BitVec.ofNat 32 (now .ptbHi / 2 ^ 32)) ∧
    u.me.ptbLatch = none)) ∧
  (s.ready (i .laneId) = true → grp → Traps (i .laneId) s { cause := .illegal }) ∧
  (let w := Instr.movs c .laneId (.v v); s.ready w = true → grp → WritesLanes w s false v (fun l => n l) 0) ∧
  ((s.ag k).live = true → Steps (.ptbLoLatch k) s (fun u => (u.ag k).ptbLatch = some (BitVec.ofNat 32 (s.ptbAt (s.ag k).die / 2 ^ 32)) ∧ SameRegs (s.ag k) (u.ag k) ∧ u.mem = s.mem))

/-- R46, R321: `mfs` and `mts` at privilege F read and write the register their selector names; a selector of a die is illegal on the I/O die. -/
def Sys2Proof.Claims.SystemRegisterWords : Prop := ∀ (s : State) (c : Ctl) (r : SysReg) (d : BitVec 6),
  let rd := Instr.mfs c r d
  let wr := Instr.mts c r d
  let none_ : Prop := 22 ≤ s.me.die ∧ SysReg.ofDie r = true
  (s.ready rd = true → (none_ → Traps rd s { cause := .illegal }) ∧ (¬ none_ → WritesScalar rd s r.wide d (s.sysRead s.me r))) ∧
  (s.ready wr = true → (none_ → Traps wr s { cause := .illegal }) ∧ (¬ none_ → Ends wr s { s := (s.begun wr).sysWrite (s.sees wr) r ((s.sees wr).sw r.wide d.toNat) }))

/-- R46, R48: what each system register reads after a write: reserved bits as zero, a value out of its list or range ignored, and the read-only ones as before. -/
def Sys2Proof.Claims.SystemRegisterValues : Prop := ∀ (s : State) (a : Agent) (x : W64), a.kind = .firmware →
  let after (r : SysReg) : W64 := (s.sysWrite a r x).sysRead a r
  after .ptbase = x &&& ~~~ 0xFFF ∧ after .trapvec = x &&& ~~~ 0xFF ∧ after .csave = x &&& ~~~ 0xFFFF ∧ after .shadow = x &&& 1 ∧ after .ckscb = x &&& 1 ∧
  after .ctxsel = x &&& 0x3F ∧ after .wsref = 0x00400402 ∧ after .cause = s.sysRead a .cause ∧
  after .tmo = (if 64 ≤ x.toNat ∧ x.toNat ≤ 65536 then x else BitVec.ofNat 64 (s.no a.die).tmo) ∧
  after .spoor = (if x.getLsbD 0 then 0 else s.sysRead a .spoor) ∧
  after .mxchk = (if [0, 64, 128, 256, 512, 1024, 2048, 4096].contains (x.toNat % 2 ^ 13) then BitVec.ofNat 64 (x.toNat % 2 ^ 13) else s.sysRead a .mxchk)

/-- R41, R47, R48, R378: the writes behind the system registers as events: slices leave the hash and misses stall, a variant of the working population ends the stall,
an interval clears the cores' counters, and a spoor record is cleared. -/
def Sys2Proof.Claims.RegisterEvents : Prop := ∀ (s : State) (die ctx : Nat) (mask : BitVec 16) (v : BitVec 2) (n : BitVec 13),
  let d := s.di die
  let left := d.slices &&& ~~~ mask
  Steps (.sysSpoorClear ctx) s (fun u => (u.cx ctx).spoor = false ∧ (u.cx ctx).spoorAddr = 0 ∧ u.mem = s.mem ∧ u.agents = s.agents ∧ ∀ k, k ≠ ctx → u.cx k = s.cx k) ∧
  Steps (.sliceRetire die mask) s (fun u => (u.di die).slices = left ∧ (left ≠ d.slices → (u.di die).stall = true) ∧ (left = d.slices → u = s) ∧
    (left ≠ d.slices → popCount left < 12 → Todo.nodeFence die ∈ u.todo) ∧ (∀ k, k ≠ die → u.di k = s.di k) ∧ u.mem = s.mem ∧ u.agents = s.agents) ∧
  (variantCount v ≠ popCount d.slices → exec (.hashVariantWrite die v) s = .next s) ∧
  (variantCount v = popCount d.slices → d.l2 = [] → Steps (.hashVariantWrite die v) s (fun u => (u.di die).variant = v ∧ (u.di die).stall = false ∧ (u.di die).slices = d.slices ∧
    u.capGen = (s.capGen + 1) % 2 ^ 32 ∧ u.mem = s.mem ∧ u.agents = s.agents)) ∧
  Steps (.mxchkIntervalWrite die n) s (fun u =>
    if [0, 64, 128, 256, 512, 1024, 2048, 4096].contains n.toNat then (u.di die).mxchk = n ∧ u.agents = s.agents ∧ u.mem = s.mem ∧
      (∀ c, c < 16 → (u.co (coreKey die c)).mmaCount = 0 ∧ (u.co (coreKey die c)).scratch = (s.co (coreKey die c)).scratch) else u = s)

/-- R41, R46–R48, R321, R378: the system registers, their words and the steps behind their writes. -/
def Obligations.SystemRegisters : Prop := Claims.SystemRegisterWords ∧ Claims.SystemRegisterValues ∧ Claims.RegisterEvents

/-- R50, R324, R325, R398: `capq` reads the eight words of a capacity record, which a move of the capacity generation writes from the machine as it then
stands, all records at once, so that every word read is of one generation; `ptbrd` reads the die's copy of the package time base. -/
def Sys2Proof.Claims.CapacityAndTime : Prop := ∀ (s : State) (c : Ctl) (d : BitVec 6) (sel : BitVec 8),
  let i := Instr.capq c d sel
  (s.ready i = true → RegisterWord i s (fun u => (∀ j x, (s.capWords sel.toNat)[j]? = some x → u.me.s32 (d.toNat + j) = BitVec.ofNat 32 x) ∧
    ((s.capWords sel.toNat).length = 8 → ∀ q, ¬ (d.toNat ≤ q ∧ q < d.toNat + 8) → u.me.s32 q = s.me.s32 q) ∧
    u.me.vreg = s.me.vreg ∧ u.me.kreg = s.me.kreg ∧ u.me.flags = s.me.flags)) ∧
  (s.capNow sel.toNat).length = 8 ∧ s.bumpCap.capGen = (s.capGen + 1) % 2 ^ 32 ∧
  (sel = 255 ∨ sel.toNat < 22 → s.bumpCap.capWords sel.toNat = s.bumpCap.capNow sel.toNat) ∧
  (s.ready (.ptbrd c d) = true → WritesScalar (.ptbrd c d) s true d (BitVec.ofNat 64 ((s.begun (.ptbrd c d)).ptbAt s.me.die)))

/-- R44, R45, R50, R162, R213, R324, R325: special registers, the flag word, capacity records and the time base. -/
def Obligations.SpecialRegistersAndFlags : Prop := Claims.SpecialRegisters ∧ Claims.FlagWord ∧ Claims.CapacityAndTime

/-- R322, R326: `launch` enters a request last in its class's queue under the next launch.id, `evsig` an event last in the context's queue; each comes after
its release, once the agent's accesses to other packages have ended, and waits while its queue is full. -/
def Sys2Proof.Claims.LaunchAndEvent : Prop := ∀ (s : State) (c : Ctl) (sa sb sc : BitVec 6) (code : BitVec 8),
  let la := Instr.launch c sa sb sc
  let ev := Instr.evsig c code
  let v := s.sees la
  let args := v.s64 sb.toNat
  let cls := (v.s32 sc.toNat).toNat
  let r := ((s.begun la).release s.cur .dom).performHome s.cur
  let e := ((s.begun ev).release s.cur .sys).performHome s.cur
  let again (i : Instr) (u : State) : Prop := exec i s = .next (u.setAg s.cur { u.ag s.cur with ready := u.cycle + 1 })
  (s.ready la = true →
    (4 ≤ cls ∨ args.toNat % 16 ≠ 0 → Traps la s { cause := .illegal }) ∧
    (cls < 4 → args.toNat % 16 = 0 → aperOf args ≠ .global → Traps la s { cause := .addr, addr := args }) ∧
    (cls < 4 → args.toNat % 16 = 0 → aperOf args = .global → s.owes s.cur = false →
      (64 ≤ r.deviceWaiting (r.ctxOf v) ∨ r.admFull cls = true → again la r) ∧
      (r.deviceWaiting (r.ctxOf v) < 64 → r.admFull cls = false →
        let q : LReq := { lid := r.nextLid, handle := v.s64 sa.toNat, args := args, ctx := r.ctxOf v, prio := cls, device := true, entry := none, front := false, slot := 0, born := r.cycle }
        Ends la s { s := { r with nextLid := (r.nextLid + 1) % 2 ^ 32, admq := tput r.admq cls (tget r.admq cls ++ [q]), todo := r.todo ++ [.admission] } }))) ∧
  (s.ready ev = true → s.owes s.cur = false →
    let k := e.ctxOf (s.sees ev)
    let x := e.cx k
    (256 ≤ x.evq.length → again ev e) ∧
    (x.evq.length < 256 →
      let y : Event := { ctx := k, code := code.toNat, die := s.me.die, lid := (e.launchOf (s.sees ev)).lid, ptb := e.ptbAt s.me.die }
      Ends ev s { s := { e.setCx k { x with evq := x.evq ++ [y] } with todo := e.todo ++ [.eventSend k] } }))

/-- R327, R328, R330, R331: `ctxsave` stops admission and waits until every team of the context is saved, `ctxrest` undoes it, and `wsld` of a weight-load launch
copies lines into the die's weight store. -/
def Sys2Proof.Claims.SavesAndWeights : Prop := ∀ (s : State) (c : Ctl) (sa sb sc : BitVec 6),
  let sv := Instr.ctxsave c sa
  let re := Instr.ctxrest c sa
  let ws := Instr.wsld c sa sb sc
  let ctx (i : Instr) : Nat := ((s.sees i).s32 sa.toNat).toNat
  let src := (s.sees ws).s64 sa.toNat
  let off := ((s.sees ws).s32 sb.toNat).toNat
  let n := ((s.sees ws).s32 sc.toNat).toNat
  let same (i : Instr) (u : State) : Prop := u.me.pc = s.after i ∧ SameRegs s.me u.me ∧ u.mem = s.mem ∧ u.teams = s.teams
  (s.ready sv = true →
    (63 < ctx sv → Traps sv s { cause := .illegal }) ∧
    (ctx sv ≤ 63 → (s.cx (ctx sv)).saved = true ∨ s.residentTeams (ctx sv) = [] →
      Completes sv s (fun u => u.cx (ctx sv) = { s.cx (ctx sv) with admStop := true, saved := true, saving := false } ∧ same sv u)) ∧
    (ctx sv ≤ 63 → (s.cx (ctx sv)).saved = false → s.residentTeams (ctx sv) ≠ [] →
      Completes sv s (fun u => u.cx (ctx sv) = { s.cx (ctx sv) with admStop := true, saving := true } ∧ u.me.pc = s.me.pc ∧
        ∀ t ∈ s.residentTeams (ctx sv), (s.tm t).pre = .none → Todo.preempt t ∈ u.todo))) ∧
  (s.ready re = true →
    (63 < ctx re → Traps re s { cause := .illegal }) ∧
    (ctx re ≤ 63 → (s.cx (ctx re)).saving = true → Completes re s (fun u => u.me.pc = s.me.pc ∧ u.cx (ctx re) = s.cx (ctx re))) ∧
    (ctx re ≤ 63 → (s.cx (ctx re)).saving = false → (s.cx (ctx re)).saved = true →
      Completes re s (fun u => u.cx (ctx re) = { s.cx (ctx re) with admStop := false, saved := false } ∧ same re u)) ∧
    (ctx re ≤ 63 → (s.cx (ctx re)).saving = false → (s.cx (ctx re)).saved = false → Completes re s (fun u => u.cx (ctx re) = s.cx (ctx re) ∧ same re u))) ∧
  (s.ready ws = true →
    ((s.launchOf s.me).hdr.wload = false → Traps ws s { cause := .illegal }) ∧
    ((s.launchOf s.me).hdr.wload = true →
      (src.toNat % 128 ≠ 0 ∨ off % 128 ≠ 0 ∨ n % 128 ≠ 0 → Traps ws s { cause := .align, addr := src }) ∧
      (src.toNat % 128 = 0 → off % 128 = 0 → n % 128 = 0 → aperOf src ≠ .global ∨ Config.wsBytes < off + n → Traps ws s { cause := .addr, addr := src }) ∧
      (src.toNat % 128 = 0 → off % 128 = 0 → n % 128 = 0 → aperOf src = .global → off + n ≤ Config.wsBytes → s.owes s.cur = false → ∀ u,
        (s.begun ws).wsCopy s.cur ((lanesOf (s.lanes ws)).headD 0) src off ((n - s.me.wsProg) / 128) s.me.wsProg = (none, u) →
        Ends ws s { s := u.setAg s.cur { u.ag s.cur with wsProg := 0 } })))

/-- R322, R326–R331: launches, events, context saves and the weight store. -/
def Obligations.LaunchingAndSaving : Prop := Claims.LaunchAndEvent ∧ Claims.SavesAndWeights

/-! ## Steps of the cores (R62–R72, R127, R164, R179, R271) -/

/-- R62, R64, R271, R337: a free pipe chooses the ready group of the highest class, then the longest ready, then the lowest slot, but of one the barrier unit
re-inserted and one a pigeonhole released the former (where the two rules go round in a circle among three groups the choice is the model's, log 97); the
courier takes its contexts in rotation. The chosen agent's word is the next step, and the pipe is busy for its passes. Before its first word an agent of a launch
acquires at `.pkg`, and nothing else but the choice and the pipe changes. -/
def Sys2Proof.Claims.IssueOpportunity : Prop := ∀ (s : State) (die core pipe : Nat),
  let ck := coreKey die core
  let e := Instr.issueOpportunity die core pipe
  let on := (s.onPipe ck pipe).filter (fun p => s.isReady p.2)
  let last := (s.co ck).lastCourier
  let tie (a b : Agent) : Prop := a.woken = true ∧ b.filed = true ∨ ¬ (a.filed = true ∧ b.woken = true) ∧ a.slot ≤ b.slot
  let plain : Prop := (∀ p ∈ on, p.2.woken = false) ∨ (∀ p ∈ on, p.2.filed = false) ∨ on.length ≤ 2
  let first (a b : Agent) : Prop := a.prio < b.prio ∨ a.prio = b.prio ∧ (s.readyFrom a < s.readyFrom b ∨ s.readyFrom a = s.readyFrom b ∧ (plain → tie a b))
  let turn (a b : Agent) : Prop := if ∃ p ∈ on, last < p.2.slot then last < a.slot ∧ (last < b.slot → a.slot ≤ b.slot) else a.slot ≤ b.slot
  s.go = false → (∀ p ∈ s.onPipe ck pipe, ∀ n, p.2.wait ≠ .yielded n) →
  (s.cycle < tget (s.co ck).pipeFree pipe ∨ on = [] → exec e s = .next s) ∧
  (tget (s.co ck).pipeFree pipe ≤ s.cycle → on ≠ [] → ∃ k a, (k, a) ∈ on ∧ (∀ p ∈ on, if pipe = 4 then turn a p.2 else first a p.2) ∧
    Steps e s (fun u => u.cur = k ∧ u.go = true ∧ tget (u.co ck).pipeFree pipe = s.cycle + s.busyFor a ∧ (pipe = 4 → (u.co ck).lastCourier = a.slot) ∧
      (∀ p, p ≠ pipe → tget (u.co ck).pipeFree p = tget (s.co ck).pipeFree p) ∧ u.cycle = s.cycle ∧
      (a.newborn = false → (∀ c, c ≠ ck → u.co c = s.co c) ∧ u.agents = s.agents ∧ u.mem = s.mem ∧ u.dies = s.dies) ∧
      (a.newborn = true → let v := (s.setAg k { a with newborn := false }).acquireAt k .pkg
        u.agents = v.agents ∧ u.mem = v.mem ∧ u.dies = v.dies ∧ (u.ag k).newborn = false ∧ SameRegs a (u.ag k) ∧ ∀ j, j ≠ k → u.ag j = s.ag j)))

/-- R49, R69, R72, R127, R164, R179, R393: results whose cycle has come land, a divider comes free, a yielded group counts the opportunities at which another is ready
and rejoins once 8 have passed or when no other is ready, an aged pigeonhole closes and is released in its place of the cycle's order, a released one takes a slot, the
crossbar's next group becomes ready in its slot, a cached translation goes, and a bank's refresh window is as the time base says. -/
def Sys2Proof.Claims.CoreSteps : Prop := ∀ (s : State) (k j die core pipe hole idx bank : Nat) (y z : Agent) (m : Nat × Agent) (rest : List (Nat × Agent)),
  let ck := coreKey die core
  let a := s.ag k
  let c := s.co ck
  let x := tget c.holes hole
  let age := (s.la (s.tm x.team).lid).hdr.reform
  let others (u : State) : Prop := ∀ j, j ≠ k → u.ag j = s.ag j
  let same (u : State) : Prop := u.mem = s.mem ∧ u.teams = s.teams ∧ u.cycle = s.cycle
  (a.live = true → Steps (.resultLand k) s (fun u => u.ag k = { a with inflight := a.inflight.filter (fun f => decide (s.cycle < f.land)) } ∧ others u ∧ same u)) ∧
  (a.live = false → exec (.resultLand k) s = .next s) ∧
  Steps (.dividerFree die core pipe) s (fun u => tget (u.co ck).divFree pipe = (if tget c.divFree pipe ≤ s.cycle then 0 else tget c.divFree pipe) ∧
    (∀ p, p ≠ pipe → tget (u.co ck).divFree p = tget c.divFree p) ∧ (∀ j, j ≠ ck → u.co j = s.co j) ∧ u.agents = s.agents ∧ same u) ∧
  (∀ n, a.live = true → a.wait = .yielded n → (n = 0 ∨ ∀ p ∈ s.onPipe a.ck a.pipe, s.isReady p.2 = false) →
    Steps (.yieldRejoin k) s (fun u => u.ag k = { a with wait := .none, since := s.cycle } ∧ others u ∧ same u)) ∧
  (∀ n, s.onPipe ck pipe = [(k, y), (j, z)] → k ≠ j → y.wait = .yielded n → s.isReady z = true →
    (s.yieldTick ck pipe).ag k = (if n ≤ 1 then { y with wait := .none, since := s.cycle + 1 } else { y with wait := .yielded (n - 1) })) ∧
  (∀ n, a.wait = .yielded n → n ≠ 0 → (∃ p ∈ s.onPipe a.ck a.pipe, s.isReady p.2 = true) → exec (.yieldRejoin k) s = .next s) ∧
  (c.xbar = [] → exec (.crossbarMove die core) s = .next s) ∧
  (c.xbar = m :: rest → k = 64 * ck + m.2.slot → Steps (.crossbarMove die core) s (fun u =>
    u.ag k = { m.2 with ready := max s.cycle m.1, since := max s.cycle m.1 } ∧ (u.co ck).xbar = rest ∧ others u ∧ same u)) ∧
  (x.live = false ∨ x.order = none ∨ s.freeSlot x.team ck = none → exec (.pigeonholeSlotGrant die core hole) s = .next s) ∧
  (∀ slot, x.live = true → x.order ≠ none → s.freeSlot x.team ck = some slot → Steps (.pigeonholeSlotGrant die core hole) s (fun u =>
    (tget (u.co ck).holes hole).live = false ∧ (∃ at_ g, (u.co ck).xbar = c.xbar ++ [(at_, g)] ∧ s.cycle < at_ ∧ g.slot = slot ∧ g.pc = x.key ∧
      g.act = allLanes x.ths.length ∧ g.team = x.model.team) ∧ u.agents = s.agents ∧ u.mem = s.mem)) ∧
  (age = 0 ∨ x.live = false ∨ x.order ≠ none ∨ s.cycle < x.born + age → exec (.pigeonholeAgeRelease die core hole) s = .next s) ∧
  (age ≠ 0 → x.live = true → x.order = none → x.ths ≠ [] → x.born + age ≤ s.cycle → hole < 16 →
    exec (.pigeonholeAgeRelease die core hole) s =
      .next (s.setCo ck { c with relOrder := c.relOrder + 1, holes := tput c.holes hole { x with order := some ⟨s.cycle, 2, hole⟩ } })) ∧
  (∀ p q : Release, p.upTo q = true ↔ p.cycle < q.cycle ∨ p.cycle = q.cycle ∧ (p.kind < q.kind ∨ p.kind = q.kind ∧ p.idx ≤ q.idx)) ∧
  Steps (.tlbEntryDrop die idx) s (fun u => (u.di die).tlb = (s.di die).tlb.eraseIdx idx ∧ (∀ d, d ≠ die → u.di d = s.di d) ∧ u.agents = s.agents ∧ same u) ∧
  (bank < 16 → Steps (.wsRefreshWindow die bank) s (fun u => (u.di die).wsBusy.getLsbD bank = decide (wsLeft (s.ptbAt die) bank ≠ 0) ∧
    (∀ b, b ≠ bank → (u.di die).wsBusy.getLsbD b = (s.di die).wsBusy.getLsbD b) ∧ (u.di die).ws = (s.di die).ws ∧ (∀ d, d ≠ die → u.di d = s.di d) ∧
    u.agents = s.agents ∧ same u))

/-- R49, R62, R69, R72, R127, R164, R179, R271, R393: issue opportunities and the timed steps of a core. -/
def Obligations.CoreIssue : Prop := Claims.IssueOpportunity ∧ Claims.CoreSteps

/-! ## Pre-emption, kill and end (R75, R79–R84) -/

/-- R79, R80, R82: a team is asked to stop; its agents stop at flagged words with a table entry, in their save routine and with their frame kept; a request that finds
one in progress merges with it; a team that is late is killed. -/
def Sys2Proof.Claims.PreemptionStop : Prop := ∀ (s : State) (team k idx : Nat) (save restore : W64),
  let t := s.tm team
  let a := s.ag k
  let pc := if a.wait = .none then a.pc else a.wpc
  (t.live = false ∨ t.pre ≠ .none → exec (.preemptRequest team) s = .next s) ∧
  (t.live = true → t.pre = .none → (∀ ck ∈ t.cores, (s.co ck).holes = []) →
    exec (.preemptRequest team) s = .next { s.setTm team { t with pre := .asked s.cycle } with todo := s.todo ++ [.teamSaved team] }) ∧
  (s.safeIdx k = none → exec (.safePointStop k) s = .next s) ∧
  (s.safeIdx k = some idx → tfind (s.launchOf a).hdr.safes idx = none →
    exec (.safePointStop k) s = (s.setAg k { a with wait := .none, pc := pc }).takeTrap k { cause := .illegal }) ∧
  (s.safeIdx k = some idx → tfind (s.launchOf a).hdr.safes idx = some (save, restore) → a.sq = [] → Steps (.safePointStop k) s (fun u =>
    let b := u.ag k
    b.inSave = true ∧ b.pc = save ∧ b.wait = .none ∧ b.stopAt = some idx ∧ b.vreg = a.vreg ∧ b.kreg = a.kreg ∧ b.flags = a.flags ∧
    (∀ q, q ≠ a.ns - 2 → q ≠ a.ns - 2 + 1 → b.s32 q = a.s32 q) ∧
    ∃ f, tfind (u.tm a.team).frames (s.frameIdx k) = some f ∧ f.pc = pc ∧ f.act = a.act ∧ f.sreg = a.sreg ∧ f.flags = a.flags ∧ f.gang = a.gang ∧ f.waited = a.wait)) ∧
  (s.deadline team = none → exec (.preemptTimeout team) s = .next s) ∧
  (∀ c, s.deadline team = some c → s.cycle ≤ c ∨ s.allSaved team = true → exec (.preemptTimeout team) s = .next s) ∧
  (∀ c, s.deadline team = some c → c < s.cycle → s.allSaved team = false → Steps (.preemptTimeout team) s (fun u =>
    (u.tm team).pre = .none ∧ (u.la t.lid).cause = 0x28 ∧ Todo.contextKill t.ctx ∈ u.todo))

/-- R53, R79, R83, R277, R413: a team whose agents have all stopped is saved and its core's resources are free; its scratchpad's image stays where its courier contexts'
commands run on into it (the core number of saved teams is the model's, log 42); it resumes on a core with room, each group in its restore routine with the interrupted
address, of a frame that software has changed with values left open (R9). -/
def Sys2Proof.Claims.SaveAndResume : Prop := ∀ (s : State) (team die core i slot base : Nat) (f : Agent),
  let t := s.tm team
  let l := s.la t.lid
  let asked : Prop := ∃ c, t.pre = .asked c
  let gone := s.agents.all (fun p => !(p.2.live && p.2.kind != Kind.firmware && p.2.team == team)) && (s.teamCouriers team).all (fun k => (s.cc k).queues.all (fun q => q.2.isEmpty))
  let may := t.live = true ∧ asked ∧ s.allSaved team = true ∧ s.mmaBusy team = false ∧ s.teamOwes team = false
  let key := 64 * coreKey die core + slot
  (¬ may → exec (.teamSaveComplete team) s = .next s) ∧
  (may → gone = true → exec (.teamSaveComplete team) s = .next { s.setTm team { t with pre := .none } with todo := s.todo ++ [.teamEnd team] }) ∧
  (may → gone = false → Steps (.teamSaveComplete team) s (fun u => (u.tm team).pre = .saved ∧ (u.tm team).slots0 = [] ∧ (u.tm team).slots1 = [] ∧
    (∀ p ∈ u.agents, p.2.live = true → p.2.kind = .group → p.2.team ≠ team) ∧ Todo.placement ∈ u.todo ∧
    memBytes (u.co (coreKey t.die (savedCore team t.core))).scratch 0 t.spad = memBytes (s.co (coreKey t.die t.core)).scratch t.base0 t.spad ∧
    (t.bg ∈ (u.la t.lid).rerun ∨ ∃ p ∈ u.teams, p.2.live = true ∧ p.2.lid = t.lid ∧ p.2.bg = t.bg ∧ p.2.pre ≠ .saved))) ∧
  (t.live = false ∨ t.pre ≠ .saved ∨ s.wsClash t.lid die = true ∨ l.hdr.paired = true ∧ core % 2 ≠ 0 ∨ s.teamRoom l.hdr die core = none →
    exec (.teamResume team die core) s = .next s) ∧
  (t.live = true → t.pre = .saved → s.wsClash t.lid die = false → l.hdr.paired = false → core < 16 → s.teamRoom l.hdr die core = some [([slot], base)] →
    t.frames = [(i, f)] → f.kind = .group → f.core % 65536 = t.core % 65536 → 4 ≤ f.ns → ∀ idx save restore, f.stopAt = some idx → tfind l.hdr.safes idx = some (save, restore) →
    let f' := if s.frameKept t die i f = true then f else f.unkept s.fresh
    Steps (.teamResume team die core) s (fun u => (u.tm team).pre = .none ∧ (u.tm team).die = die ∧ (u.tm team).core = core ∧ (u.tm team).frames = [] ∧
      let b := u.ag key
      b.live = f.live ∧ b.pc = restore ∧ b.inRestore = true ∧ b.resumePc = f'.pc ∧ b.act = f'.act ∧ b.pres = f.pres ∧ b.flags = f'.flags ∧ b.stack = f'.stack ∧ b.depth = f.depth ∧
      b.s64 (f.ns - 4) = f'.pc ∧ b.die = die ∧ b.core = core ∧ b.slot = slot ∧ b.ready = s.cycle + 17 ∧
      memBytes (u.co (coreKey die core)).scratch base t.spad = memBytes (s.co (coreKey t.die t.core)).scratch 0 t.spad))

/-- R53, R79–R83, R413: stopping, saving and resuming a team. -/
def Obligations.Preemption : Prop := Claims.PreemptionStop ∧ Claims.SaveAndResume

/-- R84, R359: a kill stops the context's agents and queued work, every home raises its generation, and then its resources are free and its launches end; no die
keeps a byte the context had written that its home has not performed. -/
def Sys2Proof.Claims.ContextKill : Prop := ∀ (s : State) (ctx home : Nat),
  let c := s.cx ctx
  let n := s.no home
  let raise := c.killing = true ∧ home ∈ homes ∧ tget n.gens ctx ≤ c.gen
  (c.killing = true → exec (.contextKill ctx) s = .next s) ∧
  (c.killing = false → Steps (.contextKill ctx) s (fun u => (u.cx ctx).killing = true ∧
    (∀ p ∈ u.agents, p.2.kind ≠ .firmware → (u.tm p.2.team).live = true → (u.tm p.2.team).ctx = ctx → p.2.live = false) ∧
    (∀ e, (tget u.timetable e).ctx = ctx → (tget u.timetable e).enable = false) ∧ ∀ h ∈ homes, Todo.homeRaise h ctx ∈ u.todo)) ∧
  (¬ raise → exec (.homeGenerationRaise home ctx) s = .next s) ∧
  (raise → Steps (.homeGenerationRaise home ctx) s (fun u => tget (u.no home).gens ctx = c.gen + 1 ∧ (∀ x, x ≠ ctx → tget (u.no home).gens x = tget n.gens x) ∧
    (∀ h, h ≠ home → u.no h = s.no h) ∧ Todo.killFree ctx ∈ u.todo ∧ u.agents = s.agents ∧ u.mem = s.mem)) ∧
  (c.killing = false ∨ s.allRaised ctx = false → exec (.killResourcesFree ctx) s = .next s) ∧
  (c.killing = true → s.allRaised ctx = true → Steps (.killResourcesFree ctx) s (fun u => (u.cx ctx).live = false ∧ (u.cx ctx).killing = false ∧
    (u.cx ctx).gen = c.gen + 1 ∧ (∀ p ∈ u.teams, p.2.live = true → p.2.ctx ≠ ctx) ∧ Todo.admission ∈ u.todo ∧ Todo.placement ∈ u.todo ∧
    ((∀ p ∈ s.teams, p.2.live = true → p.2.ctx ≠ ctx) → (∀ p ∈ s.launches, p.2.live = true → p.2.ctx ≠ ctx) →
      (∀ d, ∀ x ∈ (u.di d).l2, x.ctx = ctx → x.st ≠ .d ∧ x.st ≠ .m) ∧ (∀ d, ∀ x ∈ (u.di d).wbuf, x.ctx ≠ ctx) ∧ u.net = s.net ∧ u.mem = s.mem)))

/-- R75, R323: a team ends once its groups, its courier contexts, their commands and their requests to other packages have; its block group ends with its last team, and the launch with its last block
group. -/
def Sys2Proof.Claims.TeamEnds : Prop := ∀ (s : State) (team : Nat),
  let t := s.tm team
  let busy := (s.teamCouriers team).any (fun k => (s.ag k).live || (s.cc k).queues.any (fun q => !q.2.isEmpty))
  let may := t.live = true ∧ t.pre ≠ .saved ∧ (s.no t.die).fenced = false ∧ s.groupsDone team = true ∧ busy = false ∧ s.teamOwes team = false
  (¬ may → exec (.teamEnd team) s = .next s) ∧
  (may → Steps (.teamEnd team) s (fun u => tfind u.teams team = none ∧ (∀ p ∈ u.agents, p.2.kind ≠ .firmware → p.2.team ≠ team) ∧ Todo.placement ∈ u.todo ∧
    ((s.la t.lid).cause = 0 → (∀ p ∈ s.teams, p.1 ≠ team → ¬ (p.2.live = true ∧ p.2.lid = t.lid ∧ p.2.bg = t.bg)) →
      t.bg ∈ (u.la t.lid).ended ∨ (u.la t.lid).live = false)))

/-- R75, R84, R323: the kill of a context and the end of a team. -/
def Obligations.KillsAndEnds : Prop := Claims.ContextKill ∧ Claims.TeamEnds

/-! ## Admission, placement and the timetable (R322, R323, R331, R400–R414) -/

/-- R323, R404, R405, R407, R410, R456: no request is decided while a die is being fenced; held instances are looked at again with every decision; else the first that may be examined becomes a launch whose block groups are split
over the dies, or is refused, with an event that names the slot of a timetable instance. -/
def Obligations.Admission : Prop := ∀ (s v : State) (r : LReq) (rs : List LReq) (h : Hdr) (p : Grid) (done : W64) (addr : Nat),
  let e := Instr.admissionDecision
  let l := newLaunch r h p v.nextOrder
  let n := p.x * p.y * p.z
  let held (u : State) : List Todo := (u.timetable.filter (fun t => t.2.hold.isSome)).map (fun t => Todo.heldSubmit t.1)
  let w : State := { (v.dropReq r).setLa r.lid l with nextOrder := v.nextOrder + 1, admLast := tput v.admLast r.prio r.ctx }
  (s.fencing ≠ [] → exec e s = .next s) ∧
  (s.fencing = [] → s.admOrder = [] → exec e s = .next { s with todo := s.todo ++ held s ++ [.placement] }) ∧
  (s.fencing = [] → s.admOrder = r :: rs → s.admRead r = (.invalid done addr, v) → Steps e s (fun u =>
    let z := v.refuse r done .headerInvalid addr
    u = { z with todo := z.todo ++ held z ++ [.placement, .admission] } ∧ tget u.admq r.prio = (tget v.admq r.prio).erase r ∧
    (r.entry.isSome = true → (u.cx r.ctx).evq = (v.cx r.ctx).evq ++ [{ ctx := r.ctx, code := 4, die := 0xFF, lid := r.lid, ptb := r.slot }]))) ∧
  (s.fencing = [] → s.admOrder = r :: rs → s.admRead r = (.ok h p, v) → v.limitsOk r.ctx h p = true → h.resident = false → w.fitsDie r.lid = true →
    Steps e s (fun u => u.la r.lid = { l with ranges := w.chipSplit r.lid n } ∧ tget u.admq r.prio = (tget v.admq r.prio).erase r ∧
      u.nextOrder = v.nextOrder + 1 ∧ tfind u.admLast r.prio = some r.ctx ∧ u.todo = v.todo ++ held v ++ [.placement, .admission] ∧ u.teams = v.teams ∧ u.agents = v.agents ∧
      u.mem = v.mem)) ∧
  (s.fencing = [] → s.admOrder = r :: rs → s.admRead r = (.ok h p, v) → v.limitsOk r.ctx h p = false → Steps e s (fun u =>
    let z := v.refuse r (if doneOk p.done then p.done else 0) .resources 0
    u = { z with todo := z.todo ++ held z ++ [.placement, .admission] }))

/-- R11, R17, R58, R331, R409, R411, R412, R414: a distributor places the first block group of the highest class that fits, 16 cycles a step; a die without work takes
half of a sibling's in 64, its clusters with it; the first launch of its class that fits nowhere asks for room; a store that is zeroed withholds nothing (R448); and a group starts at its entry with every lane active and its argument address in S[0].64. -/
def Obligations.Placement : Prop := ∀ (s v : State) (d c lid bg x f e ctx team ck slot rank start : Nat) (rerun : Bool) (rest : List (Nat × Nat × Bool))
    (below above : List Nat) (vs : List (Nat × Nat)),
  let l := s.la lid
  let k := (e - f) / 2
  let t := s.tm team
  let h := (s.la t.lid).hdr
  let g := (s.newGroup team ck slot rank start).ag (64 * ck + slot)
  (s.placeStep d = none → exec (.placementStep d) s = .next s) ∧
  (c < 4 → (s.di (distCores d).1).inService = true → (∀ q, q < c → s.candidates d q = []) → s.candidates d c = (lid, bg, rerun) :: rest →
    (s.no (distCores d).1).fenced = false → (∀ q, q ≤ c → s.residents q = []) → s.placeFrom lid bg (distCores d).1 (distCores d).2 (s.distAt d) = some v → v.keepsRoom lid bg = true →
    Steps (.placementStep d) s (fun u => u.la lid = takeBg (v.la lid) d bg rerun ∧ tget u.distFree d = s.distAt d + 16 ∧ u.teams = v.teams ∧ u.agents = v.agents ∧ u.mem = v.mem)) ∧
  (s.steal lid d = none → exec (.steal lid d) s = .next s) ∧
  (s.placeable l = true → l.hdr.resident = false → (s.di d).inService = true → (s.di x).inService = true → (s.no x).fenced = false → d < 22 → x < 22 → x ≠ d → 2 ≤ e - f →
    l.ranges = [(x, f, e)] → Steps (.steal lid d) s (fun u => (s.clusterSized lid = false → u.la lid = { l with ranges := [(x, f, e - k), (d, e - k, e)] }) ∧
      (∀ r ∈ (u.la lid).ranges, distDie r.1 = d → s.distAt d + 64 ≤ tget u.distFree r.1) ∧
      tget u.distFree d = s.distAt d + 64 ∧ u.teams = s.teams ∧ u.agents = s.agents ∧ u.mem = s.mem)) ∧
  (s.waiting l = none ∨ s.prioWait.isSome = true ∨ s.firstWaiting lid = false → exec (.priorityPreemption lid) s = .next s) ∧
  (s.waiting l = some bg → s.prioWait = none → s.serviceDies.any (fun d => (s.placeBg lid bg d (List.range 16)).isSome) = true →
    exec (.priorityPreemption lid) s = .next s) ∧
  (s.waiting l = some bg → s.prioWait = none → s.firstWaiting lid = true → s.serviceDies.any (fun d => (s.placeBg lid bg d (List.range 16)).isSome) = false → s.serviceDies = below ++ d :: above →
    (∀ q ∈ below, s.enough lid bg q (s.victims q l.prio) = none) → s.enough lid bg d (s.victims d l.prio) = some vs →
    Steps (.priorityPreemption lid) s (fun u => u.prioWait = some (lid, bg, d) ∧ u.teams = s.teams ∧ u.mem = s.mem ∧
      ∀ q ∈ s.teams, q.2.live = true → q.2.pre = .none → (q.2.lid, q.2.bg) ∈ vs → Todo.preempt q.1 ∈ u.todo)) ∧
  ((s.di d).wsOwner = some ctx → exec (.weightStoreZero d ctx) s = .next s) ∧
  ((s.di d).wsOwner ≠ some ctx → exec (.weightStoreZero d ctx) s = .next (s.setDi d { s.di d with ws := [], wsOwner := some ctx, wsBad := [] })) ∧
  (g.live = true ∧ g.pc = h.entry ∧ g.s64 0 = (s.la t.lid).args ∧ (∀ q, 2 ≤ q → g.s32 q = 0) ∧ (∀ q j, g.v32 q j = 0) ∧ g.flags = 0 ∧ g.act = allLanes h.width ∧
    g.pres = allLanes h.width ∧ g.depth = 0 ∧ g.width = h.width ∧ g.matrix = h.roles.getLsbD rank ∧ g.ready = start ∧ g.newborn = true ∧ (∀ i, i < h.width → tget g.tids i = h.width * rank + i))

/-- R401–R405: a timetable slot on time submits an instance at the end of its class's queue (behind it a launch of a message or word of the same cycle, R416); a slot that overruns is skipped, held or, under `preempt`, displaces the
running one; a held instance is submitted once nothing blocks it. -/
def Obligations.Timetable : Prop := ∀ (s : State) (e at_ old : Nat) (h : Hold),
  let t := tget s.timetable e
  let now := s.ptbAt ioNode
  let slot := Instr.timetableSlot e
  let held := Instr.heldInstanceSubmit e
  let free := t.running = none ∧ s.ttBlocked t.ctx t.prio = false
  let on := t.next = some at_ ∧ t.enable = true ∧ at_ ≤ now ∧ 0 < t.period
  let req (front : Bool) (slot : Nat) (handle args : W64) (ctx prio : Nat) : LReq :=
    { lid := s.nextLid, handle := handle, args := args, ctx := ctx, prio := prio, device := false, entry := some e, front := front, slot := slot, born := s.cycle }
  let others (prio : Nat) : Prop := ∀ x ∈ tget s.admq prio, x.entry = none → x.born ≠ s.cycle
  let later : TTab := { t with lastSlot := at_, next := some (at_ + t.period) }
  let event (u : State) (ctx code lid : Nat) (ptb : Nat) : Prop := (u.cx ctx).evq = (s.cx ctx).evq ++ [{ ctx := ctx, code := code, die := 0xFF, lid := lid, ptb := ptb }]
  (t.next = none ∨ t.enable = false ∨ (t.next = some at_ ∧ now < at_) → exec slot s = .next s) ∧
  (on → free → others t.prio → Steps slot s (fun u => tget u.timetable e = { later with running := some s.nextLid } ∧ tget u.admq t.prio = tget s.admq t.prio ++ [req false at_ t.handle t.args t.ctx t.prio] ∧
    u.nextLid = (s.nextLid + 1) % 2 ^ 32 ∧ u.todo = s.todo ++ [.admission] ∧ u.agents = s.agents ∧ u.mem = s.mem)) ∧
  (on → ¬ free → t.policy = 0 → Steps slot s (fun u => tget u.timetable e = { later with late := t.late + 1, skipped := t.skipped + 1 } ∧
    event u t.ctx 0 (t.running.getD 0) at_ ∧ u.admq = s.admq ∧ u.nextLid = s.nextLid)) ∧
  (on → ¬ free → (t.policy = 1 ∨ t.policy = 2) → t.held = true → Steps slot s (fun u => tget u.timetable e = { later with late := t.late + 1, skipped := t.skipped + 1 } ∧
    event u t.ctx 0 (t.running.getD 0) at_ ∧ u.admq = s.admq ∧ u.nextLid = s.nextLid)) ∧
  (on → ¬ free → t.policy = 1 → t.held = false → Steps slot s (fun u =>
    tget u.timetable e = { later with late := t.late + 1, hold := some { handle := t.handle, args := t.args, ctx := t.ctx, prio := t.prio, slot := at_ } } ∧
    event u t.ctx 1 (t.running.getD 0) at_ ∧ u.admq = s.admq)) ∧
  (on → t.running = some old → t.policy = 2 → t.held = false → s.stoppedFor t.ctx = false → s.admFull t.prio = false → s.launchTeams old ≠ [] → Steps slot s (fun u =>
    tget u.timetable e = { later with late := t.late + 1, running := some s.nextLid, parked := some old } ∧
    tget u.admq t.prio = req true at_ t.handle t.args t.ctx t.prio :: tget s.admq t.prio ∧ (u.la old).parkedBy = some s.nextLid ∧ (∀ q ∈ s.launchTeams old, Todo.preempt q ∈ u.todo) ∧
    event u t.ctx 3 old at_)) ∧
  (t.hold = none → exec held s = .next s) ∧
  (t.hold = some h → (t.running.isSome = true ∨ s.ttBlocked h.ctx h.prio = true) → exec held s = .next s) ∧
  (t.hold = some h → t.running = none → s.ttBlocked h.ctx h.prio = false → others h.prio → Steps held s (fun u =>
    tget u.timetable e = { t with hold := none, running := some s.nextLid } ∧ tget u.admq h.prio = tget s.admq h.prio ++ [req false h.slot h.handle h.args h.ctx h.prio] ∧
    event u h.ctx 2 s.nextLid h.slot ∧ u.agents = s.agents ∧ u.mem = s.mem))

/-! ## The engines (R38, R108, R261, R275–R299, R303–R306, R436, R437) -/

/-- R38, R108, R275, R276: the head of a queue is checked when its engine starts it, and fails with those behind it on a broken condition; a finished command leaves
its queue and its outcome and flags enter its receipt; a stalled one goes on once its page fault is served. -/
def Obligations.CommandSteps : Prop := ∀ (s : State) (k q : Nat) (x : Cmd),
  let start := Instr.commandStart k q
  let done := Instr.commandComplete k q
  let resume := Instr.commandFaultResume k q
  let y := { x with started := true }
  let pending := (s.di (s.ag k).die).ring.any (fun r => r.2.engine && r.2.agent == k)
  let c := s.cc k
  let kept (u : State) : Prop := (∀ p, p ≠ q → (u.cc k).queue p = c.queue p) ∧ ∀ j, j ≠ k → (u.cc j).queues = (s.cc j).queues ∧ (u.cc j).rcpts = (s.cc j).rcpts
  (s.head k q = none → exec start s = .next s ∧ exec resume s = .next s ∧ exec done s = .next s) ∧
  (s.head k q = some x → x.kind ≠ .marker → x.started = true → exec start s = .next s) ∧
  (s.head k q = some x → x.kind ≠ .marker → x.started = false → x.result ≠ none → exec start s = .next { s with todo := s.todo ++ [.commandComplete k q] }) ∧
  (s.head k q = some x → x.kind ≠ .marker → x.started = false → x.result = none →
    (∀ det, s.cmdBad k y = some det → Steps start s (fun u => (∀ z ∈ (u.cc k).queue q, z.kind ≠ .marker → z.result = some 3) ∧
      ((u.cc k).queue q).length = (c.queue q).length ∧ Todo.commandComplete k q ∈ u.todo ∧ kept u)) ∧
    (s.cmdBad k y = none → x.kind = .copy → exec start s = .next (s.setHead k q y)) ∧
    (s.cmdBad k y = none → x.kind = .copyDl → s.dlTeams k x.list = [] → Steps start s (fun u => (u.cc k).queue q = { y with result := some 2 } :: (c.queue q).drop 1 ∧ kept u)) ∧
    (s.cmdBad k y = none → x.kind = .layout → Steps start s (fun u => (u.cc k).queue q = y :: (c.queue q).drop 1 ∧
      u.todo = s.todo ++ [.layoutRun (s.ag k).die ((s.ag k).core / 4)] ∧ kept u)) ∧
    (s.cmdBad k y = none → x.kind = .epi → Steps start s (fun u => (u.cc k).queue q = y :: (c.queue q).drop 1 ∧
      u.todo = s.todo ++ [.epiStart (s.ag k).die (s.ag k).core] ∧ kept u)) ∧
    (s.cmdBad k y = none → x.kind = .coll → (s.liveMask (s.ctxOf (s.ag k)) x.group).getLsbD Config.pkg = false →
      Steps start s (fun u => (u.cc k).queue q = { y with result := some 3 } :: (c.queue q).drop 1 ∧ kept u))) ∧
  (s.head k q = some x → (q = 6 → x.kind = .coll → x.runs = true → x.prog ≠ 0) → x.result = none → exec done s = .next s) ∧
  (∀ out, s.head k q = some x → x.result = some out → x.kind ≠ .copySeal → Steps done s (fun u => (u.cc k).queue q = (c.queue q).drop 1 ∧
    (u.cc k).rcpts = (c.complete x.rcpt out x.flags).rcpts ∧ (u.cc k).chains = c.chains ∧ kept u ∧ Todo.commandStart k q ∈ u.todo)) ∧
  (∀ out, s.head k q = some x → q < 4 → x.result = some out → x.kind = .copySeal → Steps done s (fun u =>
    let z := sealEnd (c.chain q) x out
    (u.cc k).queue q = (c.queue q).drop 1 ∧ (u.cc k).rcpts = (c.complete x.rcpt z.1 x.flags).rcpts ∧ (u.cc k).chain q = z.2.1 ∧ kept u)) ∧
  (s.head k q = some x → x.stalled = false ∨ pending = true → exec resume s = .next s) ∧
  (s.head k q = some x → x.stalled = true → pending = false → x.kind = .copy ∨ x.kind = .copyDl ∨ x.kind = .copySeal →
    exec resume s = .next (s.setHead k q { x with stalled := false }))

/-- R33, R283, R284, R286, R287, R295, R298, R299, R396, R512: the copy engine moves a destination line of the next pair in rotation, in each team a list names or in
none of them, the layout engine the destination in order, and the epilogue unit its sweep; stated of the last element each has to move, where it overlaps no
source element at another place (R9). An element that the core's fault input changes on its way (R446, log 9) is written as changed. -/
def Sys2Proof.Claims.EngineWork : Prop := ∀ (s u w : State) (k q die core n cluster : Nat) (x : Cmd) (v : Nat) (zero : Bool) (z : Sweep) (j : Nat) (e : TStop),
  let ck := coreKey die core
  let d := x.dst.t
  let t := x.src.t
  let y := { x with prog := x.prog + 1, flags := x.flags ||| (if zero then 0x80 else 0) }
  let si := copySrc x (d.idx x.prog)
  let at_ := copyAddr x (d.idx x.prog)
  let ls := (layoutSrc (dmapOf x.dmw) (((dmapOf x.dmw).outs t).getD []) (d.idx x.prog))
  let c (n : Nat) : Cmd := { x with rng := z.rng, flags := x.flags ||| z.fl.setWidth 8 ||| (if (x.hasThird && z.s.biasZero k x.third.t d x.prog n) = true then 0x80 else 0) }
  let ts := s.dlTeams k x.list
  let run := sweepFrom (epiUnit k 0 x.width false d (if x.hasThird then some x.third.t else none) x.snap x.scale x.act x.rnd x.sat) d.unit
    ((d.count - x.prog + d.unit - 1) / d.unit) x.prog ⟨s, x.rng, 0⟩
  (s.copyPairs ck = [] → exec (.copyEngineLine die core) s = .next s) ∧
  (s.copyPairs ck = [(n, k, q)] → s.head k q = some x → d.count = x.prog + 1 → d.f ≠ .p4 →
    (∀ p ∈ si.zipIdx, p.1 < t.ex p.2 ∨ t.bc p.2 = true) → t.hits (some (t.addr si).1) at_.1 d.size = false →
    (s.setCo ck { s.co ck with rotation := (n + 1) % 128 }).cRead k (t.addr si).1 d.size = (.ok (v, zero), u) →
    let flip := (u.co (u.ag k).ck).flips.find? (fun f => f.1 == x.prog)
    let v' := match flip with | some f => Nat.xor v f.2 % 2 ^ (8 * d.size) | none => v
    let u' := match flip with | some f => u.setCo (u.ag k).ck { u.co (u.ag k).ck with flips := (u.co (u.ag k).ck).flips.erase f } | none => u
    (x.kind = .copy → u'.tWrite k 0 at_.1 d.size v' = (none, w) → exec (.copyEngineLine die core) s = .next (w.endCmd k q y 2)) ∧
    (x.kind = .copyDl → (∀ p ∈ ts, u'.dlHit at_.1 d.size p = false) →
      exec (.copyEngineLine die core) s = .next ((ts.foldl (fun w p => w.dlWrite k at_.1 d.size v' p) u').endCmd k q y 2)) ∧
    (x.kind = .copyDl → (∃ p ∈ ts, u'.dlHit at_.1 d.size p = true) → exec (.copyEngineLine die core) s = .next (u'.cmdStop k q x (.stop .write .pbx at_.1)))) ∧
  (s.layoutHeads die cluster = [] → exec (.layoutEngineCommand die cluster) s = .next s) ∧
  (s.layoutHeads die cluster = [(n, k)] → s.head k 4 = some x → d.count = x.prog + 1 → t.hits none (d.addr (d.idx x.prog)).1 d.size = false →
    (∀ i, ls = some i → s.cRead k (t.addr i).1 d.size = (.ok (v, zero), u)) → (ls = none → v = fillBits d.f (dmapOf x.dmw).fill ∧ zero = false ∧ u = s) →
    u.tWrite k 0 (d.addr (d.idx x.prog)).1 d.size v = (none, w) → exec (.layoutEngineCommand die cluster) s = .next (w.endCmd k 4 y 2)) ∧
  (s.epiHeads ck = [] → exec (.epilogueStart die core) s = .next s) ∧
  (s.epiHeads ck = [k] → s.head k 5 = some x → run = (z, none) → exec (.epilogueStart die core) s = .next (z.s.endCmd k 5 { c d.count with prog := d.count } 2)) ∧
  (s.epiHeads ck = [k] → s.head k 5 = some x → run = (z, some (j, e)) → exec (.epilogueStart die core) s = .next (z.s.cmdStop k 5 { c j with prog := j } e))

/-- R303, R306, R436, R437: a loss of a live member restarts the collectives of its groups from the start, SHRUNK once set being kept; a group's members are set while
none of its collectives is placed. -/
def Sys2Proof.Claims.CollectiveGroups : Prop := ∀ (s : State) (ctx g p k : Nat) (c : CCtx) (x : Cmd) (m : W64),
  let placed := s.couriers.any (fun p => s.ctxOf (s.ag p.1) == ctx && (p.2.queue 6).any (fun x => x.kind == .coll && x.group == g))
  let y : Cmd := { x with prog := 0, flags := (x.flags &&& 0x40) ||| shrunk (pkgsOf (s.collEntry ctx g)) (pkgsOf (s.liveMask ctx g)), stalled := false }
  let lost := p = Config.pkg ∨ s.domain.contains p = false ∨ s.lostPkgs.contains p = true
  (s.couriers = [] → exec (.collRestart ctx g) s = .next s) ∧
  (s.couriers = [(k, c)] → s.ctxOf (s.ag k) = ctx → s.head k 6 = some x → x.kind = .coll → x.started = true → x.result = none → x.group = g →
    (x.matched = true → exec (.collRestart ctx g) s = .next ((s.setHead k 6 y).collGo k)) ∧
    (x.matched = false → pkgsOf (s.liveMask ctx g) ≠ [Config.pkg] → Steps (.collRestart ctx g) s (fun u =>
      (u.cc k).queue 6 = y :: (c.queue 6).drop 1 ∧ u.mem = s.mem ∧ u.agents = s.agents))) ∧
  (lost → exec (.memberLivenessLoss p) s = .next s) ∧
  (¬ lost → Steps (.memberLivenessLoss p) s (fun u => u.lostPkgs = s.lostPkgs ++ [p] ∧ u.mem = s.mem ∧ u.agents = s.agents ∧ u.couriers = s.couriers ∧
    ∀ c g, c < 64 → g < 16 → (s.collEntry c g).getLsbD p = true → Todo.collRestart c g ∈ u.todo)) ∧
  (64 ≤ ctx ∨ 16 ≤ g ∨ placed = true → exec (.collTableWrite ctx g m) s = .next s) ∧
  (ctx < 64 → g < 16 → placed = false → Mem.wf (s.no ioNode).priv = true → Steps (.collTableWrite ctx g m) s (fun u => u.collEntry ctx g = m ∧
    (∀ c h, c < 64 → h < 16 → ¬ (c = ctx ∧ h = g) → u.collEntry c h = s.collEntry c h) ∧ u.mem = s.mem ∧ u.agents = s.agents))

/-- R283, R284, R286, R295, R298, R299, R303, R306, R436, R437, R512: what the engines move and the groups of collectives. -/
def Obligations.EnginesAndCollectives : Prop := Claims.EngineWork ∧ Claims.CollectiveGroups

/-! ## Coherence between the dies and the homes (R226, R228, R347, R348, R380–R383, R453) -/

/-- R84, R319, R380, R381, R382, R421, R422, R453: what each message of the SC protocol does to the directory, the die's line and the home's bytes when it is
the first of its channel to arrive (R421); a home discards those of a die it has marked as fenced, a fenced home takes no data and no acknowledgement (R422), a request
that meets one in progress waits behind it, and one that the home cannot serve ends. -/
def Obligations.StrongCoherence : Prop := ∀ (s : State) (die l o : Nat) (m : Msg) (set : BitVec 22) (t : Txn) (x : L2Line),
  let d := s.dr l
  let has (k : MKind) : Prop := s.net.find? (fun y => y.kind == k && y.die == die && y.line == l) = some m ∧ s.ripe m = true
  let room : Prop := paPkg (128 * l) ≠ Config.pkg ∨ d.tracked = true ∨
    (s.dirs.filter (fun p => p.2.tracked && paPkg (128 * p.1) == Config.pkg && s.dirSet p.1 == s.dirSet l)).length ≤ 15
  let rest := s.net.erase m
  let served := (s.no (s.homeOf (128 * l))).marks.contains die = false
  let bit (i : Nat) : BitVec 22 := BitVec.twoPow 22 i
  let data (k : MKind) (i : Nat) : Msg := { mkMsg k i l with data := memLine s.mem l, mask := fullMask }
  let same (u : State) : Prop := u.agents = s.agents ∧ u.teams = s.teams ∧ u.classes = s.classes ∧ ∀ j, j ≠ l → u.dr j = s.dr j
  let dir (e : Instr) (y : Dir) (ms : List Msg) : Prop := Steps e s (fun u => u.dr l = y ∧ u.net = rest ++ ms ∧ u.mem = s.mem ∧ u.dies = s.dies ∧ same u)
  let free := d.busy = none ∧ served
  let idle := free ∧ room ∧ s.homeAbort l .sc = none
  let back := s.lineLost l = true ∨ s.homeFenced l = true
  let taken (st : LSt) : L2Line := { line := l, cls := .sc, st := st, data := m.data, mask := 0, fill := true, ctx := 0, gen := 0 }
  (has .readS → room → ¬ served ∨ free ∧ s.homeAbort l .sc ≠ none → exec (.reads die l) s = .next { s with net := rest }) ∧
  (has .readS → idle → d.sc = .u → dir (.reads die l) { d with sc := .x die } [data .grantE die]) ∧
  (has .readS → idle → d.sc = .s set → dir (.reads die l) { d with sc := .s (set ||| bit die) } [data .grantS die]) ∧
  (has .readS → idle → d.sc = .x o → o ≠ die → dir (.reads die l) { d with busy := some { want := die, excl := false, data := true, acks := bit o } } [mkMsg .fwdS o l]) ∧
  (has .readS → served → d.busy = some t → dir (.reads die l) { d with queue := d.queue ++ [m] } []) ∧
  (has .readM → idle → d.sc = .u → dir (.readm die l) { d with sc := .x die } [data .grantM die]) ∧
  (has .readM → idle → d.sc = .s set → set &&& ~~~ bit die ≠ 0 →
    dir (.readm die l) { d with busy := some { want := die, excl := true, data := true, acks := set &&& ~~~ bit die } }
      (((List.range 22).filter (fun i => (set &&& ~~~ bit die).getLsbD i)).map (fun i => mkMsg .inv i l))) ∧
  (has .readM → idle → d.sc = .x o → o ≠ die → dir (.readm die l) { d with busy := some { want := die, excl := true, data := true, acks := bit o } } [mkMsg .fwdI o l]) ∧
  (has .upgrade → idle → d.sc = .s set → set &&& ~~~ bit die = 0 → dir (.upgrade die l) { d with sc := .x die } [data .grantM die]) ∧
  (has .upgrade → idle → d.sc = .u → dir (.upgrade die l) { d with sc := .x die } [data .grantM die]) ∧
  (has .writeBack → free → d.sc = .x die → s.genAt l m.ctx ≤ m.gen → ¬ back → s.moving = [] → Steps (.writeBack die l) s (fun u => (u.dr l).sc = .u ∧
    u.mem = memPutLine s.mem l m.data m.mask ∧ u.net = rest ∧ (u.di die).wbuf = (s.di die).wbuf.filter (fun y => y.line != l) ∧ same u)) ∧
  (has .writeBack → free → d.sc = .x die → s.genAt l m.ctx ≤ m.gen → back → m.mask ≠ 0 → Steps (.writeBack die l) s (fun u =>
    u.todo = s.todo ++ [.errorRec m.ctx die l] ∧ (u.dr l).sc = .u ∧ u.mem = s.mem ∧ u.net = rest ∧ same u)) ∧
  (has .writeBack → free → d.sc = .x die → m.gen < s.genAt l m.ctx → Steps (.writeBack die l) s (fun u => (u.dr l).sc = .u ∧ u.mem = s.mem ∧ u.net = rest ∧ same u)) ∧
  (has .writeBack → free → d.sc ≠ .x die → Steps (.writeBack die l) s (fun u => u.dr l = d ∧ u.mem = s.mem ∧ u.net = rest ∧ same u)) ∧
  (has .cleanEvict → free → d.sc = .s set → dir (.cleanEvict die l) { d with sc := if set &&& ~~~ bit die = 0 then .u else .s (set &&& ~~~ bit die) } []) ∧
  (has .cleanEvict → free → d.sc = .x die → dir (.cleanEvict die l) { d with sc := .u } []) ∧
  (has .inv → Steps (.inv die l) s (fun u => (u.di die).line? l = none ∧ u.net = rest ++ [mkMsg .snoopAck die l] ∧ u.dr l = d ∧ u.mem = s.mem ∧
    (∀ j, j ≠ die → u.di j = s.di j) ∧ same u)) ∧
  (has .fwdS → (s.di die).line? l = some x → x.cls = .sc → x.st = .m → Steps (.fwdS die l) s (fun u =>
    (u.di die).line? l = (if s.genAt l x.ctx ≤ x.gen then some { x with st := .s, mask := 0 } else none) ∧
    u.net = rest ++ [{ mkMsg .snoopAck die l with data := x.data, mask := fullMask, ctx := x.ctx, gen := x.gen }] ∧ u.dr l = d ∧ u.mem = s.mem ∧ same u)) ∧
  (has .fwdS → (s.di die).line? l = some x → x.cls = .sc → x.st = .e → Steps (.fwdS die l) s (fun u => (u.di die).line? l = some { x with st := .s, mask := 0 } ∧
    u.net = rest ++ [mkMsg .snoopAck die l] ∧ u.dr l = d ∧ u.mem = s.mem ∧ same u)) ∧
  (has .fwdI → (s.di die).line? l = some x → x.cls = .sc → x.st = .m → Steps (.fwdI die l) s (fun u => (u.di die).line? l = none ∧
    u.net = rest ++ [{ mkMsg .snoopAck die l with data := x.data, mask := fullMask, ctx := x.ctx, gen := x.gen }] ∧ u.dr l = d ∧ u.mem = s.mem ∧ same u)) ∧
  (has .snoopAck → s.homeFenced l = true → exec (.snoopAck die l) s = .next { s with net := rest }) ∧
  (has .snoopAck → served → s.homeFenced l = false → m.mask = 0 → d.busy = some t → t.acks &&& ~~~ bit die ≠ 0 → dir (.snoopAck die l) { d with busy := some { t with acks := t.acks &&& ~~~ bit die } } []) ∧
  (has .snoopAck → served → s.homeFenced l = false → m.mask = 0 → d.busy = some t → t.acks &&& ~~~ bit die = 0 → t.excl = true → d.queue = [] →
    dir (.snoopAck die l) { d with busy := none, sc := .x t.want } [data .grantM t.want]) ∧
  (has .snoopAck → served → s.homeFenced l = false → m.mask = 0 → d.busy = some t → t.acks &&& ~~~ bit die = 0 → t.excl = false → d.queue = [] →
    dir (.snoopAck die l) { d with busy := none, sc := .s (bit die ||| bit t.want) } [data .grantS t.want]) ∧
  (∀ k, k = .grantS ∨ k = .grantE ∨ k = .grantM → s.net.find? (fun y => y.die == die && y.line == l && (y.kind == .grantS || y.kind == .grantE || y.kind == .grantM)) = some m → s.ripe m = true → m.kind = k →
    Steps (.grant die l) s (fun u => (u.di die).line? l = some (taken (match k with | .grantM => .m | .grantE => .e | _ => .s)) ∧ u.net = rest ∧ u.dr l = d ∧ u.mem = s.mem ∧ (∀ j, j ≠ die → u.di j = s.di j) ∧ same u))

/-- R226, R228, R319, R347, R348, R383, R421, R422: the messages of RC, WS and PV lines, each when it is the first of its channel to arrive (R421), a `lineset`
and an atomic performed at the home; a home that cannot serve a read sends none, and a fenced one takes no data (R422). The bytes of a page that is being moved are
written in both places (R390), which these clauses leave out. -/
def Obligations.OtherCoherence : Prop := ∀ (s : State) (die l pa : Nat) (m : Msg) (x : L2Line) (w64 : Bool) (op : AOp) (b c : W64),
  let d := s.dr l
  let seen (k : MKind) : Prop := s.net.find? (fun y => y.kind == k && y.die == die && y.line == l) = some m
  let has (k : MKind) : Prop := seen k ∧ s.ripe m = true
  let room : Prop := paPkg (128 * l) ≠ Config.pkg ∨ d.tracked = true ∨
    (s.dirs.filter (fun p => p.2.tracked && paPkg (128 * p.1) == Config.pkg && s.dirSet p.1 == s.dirSet l)).length ≤ 15
  let served := (s.no (s.homeOf (128 * l))).marks.contains die = false
  let same (u : State) : Prop := u.agents = s.agents ∧ u.teams = s.teams ∧ u.classes = s.classes ∧ ∀ j, j ≠ l → u.dr j = s.dr j
  let home := memLine s.mem l
  let back := s.lineLost l = true ∨ s.homeFenced l = true
  let n := if w64 then 8 else 4
  let old := leNat (memBytes s.mem pa n)
  let e := Instr.atomicAtHome die pa w64 op b c
  (has .readRC → room → served → s.homeAbort l .rc ≠ none → exec (.readrc die l) s = .next { s with net := s.net.erase m }) ∧
  (has .readRC → room → served → s.homeAbort l .rc = none → (s.di die).line? l = none → Steps (.readrc die l) s (fun u => (u.dr l).hold = bit22 d.hold die true ∧ (u.dr l).dirty = d.dirty ∧
    (u.di die).line? l = some { line := l, cls := .rc, st := .v, data := home, mask := 0, fill := true, ctx := 0, gen := 0 } ∧ u.mem = s.mem ∧ same u)) ∧
  (has .readRC → room → served → s.homeAbort l .rc = none → (s.di die).line? l = some x → Steps (.readrc die l) s (fun u => (u.dr l).hold = bit22 d.hold die true ∧
    (u.di die).line? l = some { x with data := mergeLine home x.data x.mask, fill := true } ∧ u.mem = s.mem ∧ same u)) ∧
  (has .dirtyNotice → room → served → Steps (.dirtynotice die l) s (fun u => u.dr l = { d with dirty := bit22 d.dirty die true, hold := bit22 d.hold die true } ∧ u.mem = s.mem ∧
    u.dies = s.dies ∧ same u)) ∧
  (has .merge → served → s.genAt l m.ctx ≤ m.gen → ¬ back → s.moving = [] → Steps (.mergeWriteBack die l) s (fun u => u.mem = memPutLine s.mem l m.data m.mask ∧ (die < 22 → (u.dr l).dirty.getLsbD die = false) ∧
    u.dies = s.dies ∧ same u)) ∧
  (has .merge → served → s.genAt l m.ctx ≤ m.gen → back → m.mask ≠ 0 → Steps (.mergeWriteBack die l) s (fun u =>
    u.todo = s.todo ++ [.errorRec m.ctx die l] ∧ u.mem = s.mem ∧ (die < 22 → (u.dr l).dirty.getLsbD die = false) ∧ u.dies = s.dies ∧ same u)) ∧
  (has .recall → Steps (.recall die l) s (fun u => (u.di die).line? l = none ∧ (die < 22 → (u.dr l).hold.getLsbD die = false) ∧ (∀ j, j ≠ die → u.di j = s.di j) ∧ same u)) ∧
  (has .wsRead → served → s.homeAbort l (s.classAt (linePage l)) = none → (s.di die).line? l = none → Steps (.wsPvLineRead die l) s (fun u =>
    (u.dr l).owner = (if s.classAt (linePage l) = .pv then some die else d.owner) ∧
    (u.di die).line? l = some { line := l, cls := s.classAt (linePage l), st := .v, data := home, mask := 0, fill := true, ctx := 0, gen := 0 } ∧ u.mem = s.mem ∧ same u)) ∧
  (has .wsWrite → served → s.genAt l m.ctx ≤ m.gen → ¬ back → s.moving = [] → Steps (.wsPvWriteBack die l) s (fun u => u.mem = memPutLine s.mem l m.data m.mask ∧ u.dies = s.dies ∧ same u)) ∧
  (has .wsWrite → served → m.gen < s.genAt l m.ctx ∨ s.lineLost l = true ∨ s.homeFenced l = true ∧ m.mask ≠ 0 → Steps (.wsPvWriteBack die l) s (fun u => u.mem = s.mem ∧ u.dies = s.dies ∧ same u)) ∧
  (seen .lineset → s.lineGone l = false → Steps (.linesetAtHome die l) s (fun u => (u.dr l).lost = false ∧ (u.dr l).bad = false ∧ ((∀ y ∈ s.losses, y.forGood = false) → u.lineLost l = false) ∧ u.mem = s.mem ∧
    u.dies = s.dies ∧ same u)) ∧
  (l = pa / 128 → s.net.find? (fun y => y.line == l && y.kind != .lineset) = none → (s.di die).line? l = none → s.moving = [] →
    (∀ a, s.homeAbort l (s.classAt (linePage l)) = some a → Steps e s (fun u => u.mem = s.mem ∧ u.agents = s.agents)) ∧
    (s.homeAbort l (s.classAt (linePage l)) = none → s.genAt l 0 ≤ (s.cx 0).gen →
      Steps e s (fun u => u.mem = memPutBytes s.mem pa (leBytes n (atomNew op (8 * n) old b.toNat c.toNat)) ∧ u.agents = s.agents ∧ u.teams = s.teams)))

/-! ## Remote atomics (R230, R231, R388, R425, R433, R499) -/

/-- R229, R230, R231, R372, R388, R425, R433, R499, R515: a remote atomic is performed once at its home and kept for resends; at the requester it is sent again three times,
takes its result and then its acquire, or ends INDETERMINATE; the other package's bytes, of which the model holds a copy (log 24), then hold what its home wrote; a line another package is asked for comes, or aborts, at the latest when sys.tmo has passed; tags age and request slots come back, and a request
that finds none waits. Stated of one request in progress where the request is meant. -/
def Obligations.RemoteAtomics : Prop := ∀ (s v : State) (r : RemReq) (k : Kept) (q : Req) (d die core p home tag t0 : Nat) (ts : List Nat) (data : W64) (x_ : Bool) (x : Abort),
  let now := s.ptbAt (s.homeOf r.pa)
  let kept := s.window.find? (fun y => y.of r.pkg r.die r.core && y.tag == r.tag)
  let fresh := now < r.t0 + 1000000 ∧ paPkg r.pa = Config.pkg
  let ask := Instr.remoteAtomicRequest r
  let one := s.reqs = [q] ∧ q.fail = 0 ∧ q.kind = .atomic
  let line := s.reqs = [q] ∧ q.fail = 0 ∧ q.kind = .line
  let due := q.t0 + 1000 * (s.no q.die).tmo
  let room := (s.co (coreKey q.die q.core)).landing < 128
  let comes (came : Bool) (u : State) : Prop := u.reqs = [] ∧ (u.ag q.agent).arrived = (s.ag q.agent).arrived ++ [(q.pa / 128, came)] ∧
    ((s.ag q.agent).live = true → (s.ag q.agent).wait = .remote → (u.ag q.agent).wait = .none) ∧ u.mem = s.mem ∧ ∀ j, j ≠ q.agent → u.ag j = s.ag j
  let at_ := s.ptbAt q.die
  let ck := coreKey die core
  let again (u : State) : Prop := u.out = s.out ++ [s.peerOut q.pkg 1 q.tag 0 q.bytes]
  let same (u : State) : Prop := u.mem = s.mem ∧ u.agents = s.agents
  let n := if r.w64 then 8 else 4
  let old := leNat (memBytes s.mem r.pa n)
  (paPkg r.pa = Config.pkg → ¬ fresh → exec ask s = .next s) ∧
  (paPkg r.pa ≠ Config.pkg → s.reachable (paPkg r.pa) = false → exec ask s = .next s) ∧
  (paPkg r.pa ≠ Config.pkg → s.syncPort (paPkg r.pa) = some p → exec ask s = .next { s with out := s.out ++ [{ s.peerOut (paPkg r.pa) 1 r.tag 0 (remBytes r) with chan := 128 + p }] }) ∧
  (fresh → kept = some k → exec ask s = .next { s with out := s.out ++ [s.peerOut r.pkg 2 r.tag 0 (leBytes 8 k.data.toNat)] }) ∧
  (fresh → kept = none → s.remotePerform r = (.error x, v) → exec ask s = .next { v with out := v.out ++ [v.peerOut r.pkg 2 r.tag x.cause.code []] }) ∧
  (fresh → kept = none → s.classAt (linePage (r.pa / 128)) = .rc → s.homeAbort (r.pa / 128) .rc = none → s.moving = [] → s.genAt (r.pa / 128) r.ctx ≤ r.gen →
    (s.no (s.homeOf r.pa)).marks.contains (markKey r.pkg r.die) = false → (s.window.filter (fun y => y.of r.pkg r.die r.core)).length < 4096 →
    Steps ask s (fun u => u.mem = memPutBytes s.mem r.pa (leBytes n (atomNew r.op (8 * n) old r.b.toNat r.c.toNat)) ∧ u.agents = s.agents ∧
      u.window = s.window ++ [{ pkg := r.pkg, die := r.die, core := r.core, tag := r.tag, data := BitVec.ofNat 64 old, at_ := now }] ∧
      u.out = s.out ++ [s.peerOut r.pkg 2 r.tag 0 (leBytes 8 old)])) ∧
  Steps (.replayWindowExpiry p die core tag) s (fun u =>
    (∀ y, y ∈ u.window ↔ y ∈ s.window ∧ ¬ (y.of p die core = true ∧ y.tag = tag ∧ y.at_ + 1000000 ≤ s.ptbAt ioNode)) ∧ same u) ∧
  (one → ¬ (1 ≤ q.sends ∧ q.sends ≤ 3 ∧ q.t0 + 250000 * q.sends ≤ at_) → exec (.remoteAtomicResend q.id) s = .next s) ∧
  (one → 1 ≤ q.sends → q.sends ≤ 3 → q.t0 + 250000 * q.sends ≤ at_ → Steps (.remoteAtomicResend q.id) s (fun u => again u ∧ u.reqs = [{ q with sends := q.sends + 1 }] ∧ same u)) ∧
  (one → q.sends = 0 ∨ at_ < q.t0 + 1000000 → exec (.atomIndeterminate q.id) s = .next s) ∧
  (one → 1 ≤ q.sends → q.t0 + 1000000 ≤ at_ → Steps (.atomIndeterminate q.id) s (fun u => u.reqs = [] ∧ (q.dst = none → (u.ag q.agent).storeAbort = true) ∧
    (q.dst ≠ none → (u.ag q.agent).wait ≠ .remote))) ∧
  (one → q.sends = 0 ∨ q.t0 + 1000000 ≤ at_ → exec (.responseArrive q.id data false) s = .next s) ∧
  (one → 1 ≤ q.sends → at_ < q.t0 + 1000000 → q.dst = some d → q.w64 = false → (s.ag q.agent).kind = .group → (s.ag q.agent).wait = .remote → q.lane < 64 → room →
    Steps (.responseArrive q.id data false) s (fun u => (u.ag q.agent).v32 d q.lane = lo32 data ∧ (u.ag q.agent).wait = .none ∧ u.reqs = [] ∧
      (∀ sc, q.acq = some sc → sc ≠ .grp → (u.co (s.ag q.agent).ck).l1 = []) ∧
      (q.acq = none → u.mem = memPutBytes (s.sendHome q.die (q.pa / 128) q.cls).mem q.pa (leBytes 4
        (atomNew q.op 32 (data.toNat % 2 ^ 32) (q.b.toNat % 2 ^ 32) (q.c.toNat % 2 ^ 32)))) ∧
      (∀ e l, l < 64 → ¬ (e = d ∧ l = q.lane) → (u.ag q.agent).v32 e l = (s.ag q.agent).v32 e l) ∧ ∀ j, j ≠ q.agent → u.ag j = s.ag j)) ∧
  (one → 1 ≤ q.sends → at_ < q.t0 + 1000000 → q.dst = none → Steps (.responseArrive q.id data true) s (fun u => u.reqs = [] ∧ (u.ag q.agent).storeAbort = true)) ∧
  (line → 1 ≤ q.sends → at_ < due → room → Steps (.responseArrive q.id data x_) s (comes (!x_))) ∧
  (line → 1 ≤ q.sends → due ≤ at_ → exec (.responseArrive q.id data x_) s = .next s) ∧
  (line → 1 ≤ q.sends → due ≤ at_ → room → Steps (.requestTimeout q.id) s (comes false)) ∧
  (line → exec (.remoteAtomicResend q.id) s = .next s ∧ exec (.atomIndeterminate q.id) s = .next s) ∧
  (one ∨ line → q.sends = 0 ∨ at_ < due → exec (.requestTimeout q.id) s = .next s) ∧
  (one → q.pkg ≠ Config.pkg → exec (.requestTimeout q.id) s = .next s) ∧
  (one → q.pkg = Config.pkg → 1 ≤ q.sends → due ≤ at_ → Steps (.requestTimeout q.id) s (fun u => u.reqs = [] ∧
    (q.dst = none → (u.ag q.agent).storeAbort = true) ∧ (q.dst ≠ none → (u.ag q.agent).wait ≠ .remote))) ∧
  (s.reqs = [] → q.waiting = true → q.kind = .line → s.slotFree (coreKey q.die q.core) q.pkg = true → s.draining.contains q.pkg = false →
    let c := coreKey q.die q.core
    let sent := { q with tag := tget s.tags c, t0 := at_, sends := 1 }
    let u := s.addReq q
    u.reqs = [sent] ∧ u.out = s.out ++ [s.peerOut q.pkg 9 sent.tag 0 (leBytes 2 sent.tag ++ leBytes 8 at_ ++ leBytes 8 q.pa)] ∧
      tget (u.co c).slots q.pkg = tget (s.co c).slots q.pkg + 1 ∧ (u.co c).landing = (s.co c).landing + 1 ∧ u.agents = s.agents ∧ u.mem = s.mem) ∧
  (s.slotFree (coreKey q.die q.core) q.pkg = false ∨ s.draining.contains q.pkg = true ∨ q.kind = .atomic ∧ s.tagFree (coreKey q.die q.core) q.pa = false → s.addReq q = { s with nextReq := s.nextReq + 1, reqs := s.reqs ++ [q] }) ∧
  (one ∨ line → q.sends = 0 → exec (.requestRetry q.id) s = .next s) ∧
  (one → 1 ≤ q.sends → exec (.requestRetry q.id) s = .next { s with out := s.out ++ [s.peerOut q.pkg 1 q.tag (s.homeOf q.pa) q.bytes] }) ∧
  (tget (s.co ck).slots p = 0 → exec (.creditReturn die core p) s = .next s) ∧
  (tget (s.co ck).slots p ≠ 0 → s.reqs = [] → Steps (.creditReturn die core p) s (fun u => tget (u.co ck).slots p = tget (s.co ck).slots p - 1 ∧ u.mem = s.mem ∧
    ∀ a ∈ u.agents, a.2.live = true → a.2.ck = ck → a.2.kind ≠ .firmware → a.2.wait ≠ .remote)) ∧
  (tget s.recent (ck * 2 ^ 14 + home) = t0 :: ts → s.ptbAt die < t0 + 1000000 → exec (.remoteTagAgeOut die core home) s = .next s) ∧
  (tget s.recent (ck * 2 ^ 14 + home) = t0 :: ts → t0 + 1000000 ≤ s.ptbAt die → s.reqs = [] → Steps (.remoteTagAgeOut die core home) s (fun u =>
    tget u.recent (ck * 2 ^ 14 + home) = ts ∧ (∀ h, h ≠ ck * 2 ^ 14 + home → tget u.recent h = tget s.recent h) ∧ u.mem = s.mem))

/-! ## Time and the fabric's links (R398, R419, R420, R423, R424, R427–R430, R443) -/

/-- R403, R423, R424, R443: every working node takes the time code; a package that is no source follows beacons, the source PTP, whose lock is an offset within 100 ns
for 1 s: 1 ms or more forward is one step, anything else is slewed; after 10 s of neither the lock is lost. A step forward counts every slot of the timetable it passes over as skipped, and leaves the latest of each entry to be evaluated. -/
def Sys2Proof.Claims.Time : Prop := ∀ (s : State) (value n e first : Nat) (t : TTab),
  let follows (z : State) (u : State) : Prop := u.timeLock = true ∧ (z.ptb + 1000000 ≤ value → u.ptb = value ∧ u.slew = 0) ∧
    (value < z.ptb + 1000000 → u.ptb = z.ptb ∧ u.slew = (value : Int) - z.ptb)
  let near := s.ptb ≤ value + 100 ∧ value ≤ s.ptb + 100
  let since := if near then some (s.ptpSince.getD s.ptb) else none
  let z : State := { s with ptpSince := since, ptpLock := since.any (fun t => decide (t + 1000000000 ≤ s.ptb)), lastTime := s.ptb }
  let same (u : State) : Prop := u.agents = s.agents ∧ u.mem = s.mem ∧ u.cycle = s.cycle
  Steps .ptbCode s (fun u => ((s.no n).powered = true → (s.no n).fenced = false → (u.no n).lag = 0) ∧ ((s.no n).powered = false → (u.no n).lag = (s.no n).lag) ∧
    u.ptb = s.ptb ∧ same u) ∧
  (s.timeSource = true → exec (.timeBeacon value) s = .next s) ∧
  (s.timeSource = false → Steps (.timeBeacon value) s (fun u => follows s u ∧ same u)) ∧
  (s.timeSource = false → s.ptb + 1000000 ≤ value → tfind s.timetable e = some t → t.next = some first → t.enable = true → 0 < t.period →
    Steps (.timeBeacon value) s (fun u => let k := (u.ptbAt ioNode - first) / t.period
      tget u.timetable e = { t with skipped := t.skipped + BitVec.ofNat 32 k, next := some (first + k * t.period) })) ∧
  exec (.ptpMessage value false) s = .next s ∧
  (z.timeSource = false → exec (.ptpMessage value true) s = .next z) ∧
  (z.timeSource = true → Steps (.ptpMessage value true) s (fun u => u.ptpSince = z.ptpSince ∧ u.ptpLock = z.ptpLock ∧ follows s u ∧ same u)) ∧
  (s.lastTime + 10000000000 ≤ s.ptb → exec .timeLockLoss s = .next { s with timeLock := false }) ∧
  (s.ptb < s.lastTime + 10000000000 → exec .timeLockLoss s = .next s)

/-- R398, R418, R419, R420, R427, R428, R430, R432, R447: a frame out of order is dropped and a bad one asked for again, which is a transient error once the resend
succeeds; a port loses lanes, one whose sync plane is resent too often too, and is down under three of them, comes up with all of them; traffic takes the port its route
gives for its plane; a packet goes along x, then along y, a flit that fails its CRC is sent again by the router before, and a malformed header counts against its source;
modules leave a node; and a held release goes out once. The start value and bit order of the flit's CRC are the model's (log 106). -/
def Sys2Proof.Claims.Links : Prop := ∀ (s : State) (port seq lane pkg x y node mo pa t0 : Nat) (bulk crcOk : Bool) (h : Held) (f k : FlitHdr),
  let p := tget s.ports port
  let want := if bulk then p.seqB else p.seqS
  let fr := Instr.aflFrame port seq bulk crcOk
  let redo := if bulk then p.redoB else p.redoS
  let asks (u : State) : Prop := ∃ l, u.out = s.out ++ [{ chan := 128 + port, typ := 4, session := if bulk then 1 else 0, seq := want, status := 0, payload := [] }] ++ l
  let often := bulk = false ∧ 1000 ≤ (p.resends.filter (fun t => decide (s.ptbAt ioNode < t + 1000000))).length
  let src := f.src.toNat
  let go := routerOf f.dst.toNat
  let hop := if x < go.1 then (x + 1, y) else if go.1 < x then (x - 1, y) else if y < go.2 then (x, y + 1) else (x, y - 1)
  let back := if y = (routerOf src).2 then (if (routerOf src).1 < x then x - 1 else x + 1, y) else (x, if (routerOf src).2 < y then y - 1 else y + 1)
  let whole := f.crcOk = true ∧ (f.crc = none ∨ f.crc = some (flitCrc (flitWord f)))
  let malformed := 4 < f.len.toNat ∨ 32 < f.dst.toNat
  let flit := Instr.flitReceive x y f
  let gone := { s with mesh := s.mesh.erase (x, y, f) }
  let kept := (tget s.links (linkNo back (x, y))).reverse.find? (fun z => z.src == f.src && z.tag == f.tag)
  let up := (tget s.routes pkg).filter (fun i => (tget s.ports i).up)
  let lanes := p.lanes &&& ~~~ BitVec.twoPow 8 lane
  let n := s.no node
  let left := n.modules &&& ~~~ BitVec.twoPow 14 mo
  let same (u : State) : Prop := u.agents = s.agents ∧ u.mem = s.mem
  (16 ≤ port ∨ p.up = false → exec fr s = .next s) ∧
  (port < 16 → p.up = true → crcOk = false → ¬ often → Steps fr s (fun u => asks u ∧ (tget u.ports port).lanes = p.lanes ∧ (tget u.ports port).up = p.up ∧ same u)) ∧
  (port < 16 → p.up = true → crcOk = false → often → p.syncLane = some lane → Steps fr s (fun u => asks u ∧ (tget u.ports port).lanes = lanes)) ∧
  (port < 16 → p.up = true → crcOk = true → seq ≠ want → exec fr s = .next s) ∧
  (port < 16 → p.up = true → crcOk = true → seq = want → Steps fr s (fun u =>
    tget u.ports port = (if bulk then { p with seqB := want + 1, redoB := none } else { p with seqS := want + 1, redoS := none }) ∧
    (∀ i, i ≠ port → tget u.ports i = tget s.ports i) ∧ (redo = none → (u.no ioNode).trans = (s.no ioNode).trans) ∧
    (redo = some t0 → (u.no ioNode).trans = min 0xFFFF ((s.no ioNode).trans + 1)) ∧ same u)) ∧
  (∀ i, p.syncLane = some i → p.lanes.getLsbD i = true ∧ i ∉ p.bulkLanes ∧ (∀ j, j < i → p.lanes.getLsbD j = false) ∧ (∀ j, j < 8 → p.lanes.getLsbD j = true → j ≠ i → j ∈ p.bulkLanes)) ∧
  (16 ≤ port ∨ p.up = true → exec (.aflPortUp port) s = .next s) ∧
  (port < 16 → p.up = false → Steps (.aflPortUp port) s (fun u => tget u.ports port = { p with up := true, lanes := 255 } ∧ u.capGen = (s.capGen + 1) % 2 ^ 32)) ∧
  (16 ≤ port ∨ 8 ≤ lane ∨ p.lanes.getLsbD lane = false → exec (.laneRetrain port lane) s = .next s) ∧
  (port < 16 → lane < 8 → p.lanes.getLsbD lane = true → Steps (.laneRetrain port lane) s (fun u => (tget u.ports port).lanes = lanes ∧
    (tget u.ports port).up = (p.up && decide (3 ≤ popCount lanes)) ∧ (u.no ioNode).lasting = min 255 ((s.no ioNode).lasting + 1) ∧ (u.no ioNode).icause = 0x07)) ∧
  (32 < src → exec flit s = .next s) ∧
  (src ≤ 32 → whole → malformed → routerOf src ≠ (x, y) → exec flit s = .next gone) ∧
  (src ≤ 32 → whole → malformed → routerOf src = (x, y) → Steps flit s (fun u =>
    (u.no src).lasting = min 255 ((s.no src).lasting + 1) ∧ (u.no src).icause = 0x06 ∧ u.mesh = gone.mesh ∧ same u)) ∧
  (src ≤ 32 → whole → ¬ malformed → go = (x, y) → exec flit s = .next gone) ∧
  (src ≤ 32 → whole → ¬ malformed → go ≠ (x, y) → Steps flit s (fun u => u.mesh = gone.mesh ++ [(hop.1, hop.2, f)] ∧
    (tget u.links (linkNo (x, y) hop)).getLast? = some f ∧ same u)) ∧
  (src ≤ 32 → ¬ whole → routerOf src = (x, y) → exec flit s = .next { s with mesh := s.mesh ++ [(x, y, { f with crcOk := true, crc := none })] }) ∧
  (src ≤ 32 → ¬ whole → routerOf src ≠ (x, y) → kept = some k → exec flit s = .next { s with mesh := s.mesh ++ [(x, y, k)] }) ∧
  (src ≤ 32 → ¬ whole → routerOf src ≠ (x, y) → kept = none → exec flit s = .next s) ∧
  (f.crc = none → flitHdr (flitWord f) f.crcOk = f) ∧
  s.syncPort pkg = (if pkg < 64 then up.head? else none) ∧ s.bulkPort pkg pa = (if pkg < 64 then up[pa / 128 % 512 % up.length]? else none) ∧
  (n.modules.getLsbD mo = false ∨ 14 ≤ mo ∨ 32 < node → exec (.ucieModuleRemove node mo) s = .next s) ∧
  (n.modules.getLsbD mo = true → mo < 14 → node ≤ 32 → Steps (.ucieModuleRemove node mo) s (fun u => (u.no node).modules = left ∧
    (u.no node).lasting = min 255 (n.lasting + 1) ∧ (node < 22 → popCount left < 3 → Todo.nodeFence node ∈ u.todo) ∧ (left = 0 → Todo.nodeFence node ∈ u.todo) ∧ same u)) ∧
  (s.held.find? (fun h => h.pkg == pkg) = none → exec (.syncReleaseForward pkg) s = .next s) ∧
  (s.held.find? (fun h => h.pkg == pkg) = some h → exec (.syncReleaseForward pkg) s = .next { s with held := s.held.erase h, out := s.out ++ [s.peerOut pkg 8 h.die 0 []] })

/-- R398, R403, R418–R420, R423, R424, R427–R432, R443, R447: the time base and the fabric's links. -/
def Obligations.TimeAndLinks : Prop := Claims.Time ∧ Claims.Links

/-! ## Fencing and joining (R76, R378, R398, R413, R422, R426, R452–R459) -/

/-- R53, R76, R228, R390, R413, R422, R426, R452–R457: a fence closes the node and takes a die's agents with it, but for the courier contexts of saved teams; a notice goes out, every home, of every
package of the domain, marks the die and its lines, the capacity record changes, and the die's block groups are listed again or their launches end DIE_LOST. A fence of the I/O die is fatal to the package. -/
def Obligations.Fencing : Prop := ∀ (s : State) (n home die l lid key : Nat) (y : Dir) (t : Team) (mv : MigCmd × W64),
  let x := s.no n
  let q := s.fenceSeq die
  let up := homes.filter (fun h => !(s.no h).fenced)
  let joining : Prop := ∃ a b, (s.di n).st = .joining a b
  let pkgs := s.domain.filter (· != Config.pkg)
  let peers := pkgs.map (fun p => s.peerOut p 3 die 0 [])
  let marked (u : State) : Prop := die ∈ (u.no home).marks ∧ ∀ h, h ≠ home → u.no h = s.no h
  let la := s.la lid
  (32 < n → exec (.nodeFence n) s = .next s ∧ exec (.watchdogFence n) s = .next s) ∧
  (n ≠ 32 → x.fenced = true → ¬ (n < 22 ∧ joining) → exec (.nodeFence n) s = .next s) ∧
  (x.fenced = true → exec (.watchdogFence n) s = .next s) ∧
  Steps (.nodeFence 32) s (fun u => u.fatal = true ∧ u.domain = [] ∧ u.mem = s.mem ∧ ∀ p ∈ u.agents, p.2.live = true → p.2.kind = .firmware) ∧
  (n < 32 → x.fenced = false → Steps (.nodeFence n) s (fun u => (u.no n).fenced = true ∧ (u.no n).powered = false ∧ (u.no n).modules = 0 ∧ u.mem = s.mem ∧
    u.fenceSeq n = { stage := 1, homes := [] } ∧ Todo.fenceNotice n ∈ u.todo ∧
    (n < 22 → (∀ p ∈ u.agents, p.2.die = n → p.2.kind = .firmware ∨ (s.tm p.2.team).pre = .saved) ∧ (∀ c, c < 16 → u.co (coreKey n c) = default) ∧ (u.di n).l2 = [] ∧ (u.di n).ws = []) ∧
    (22 ≤ n → u.agents = s.agents))) ∧
  (n < 32 → x.fenced = false → Steps (.watchdogFence n) s (fun u => (u.no n).fenced = true ∧ (u.no n).icause = 0x0A ∧ Todo.fenceNotice n ∈ u.todo)) ∧
  (q.stage ≠ 1 → exec (.fenceNotice die) s = .next s) ∧
  (q.stage = 1 → die < 22 → up ≠ [] ∨ pkgs ≠ [] → Steps (.fenceNotice die) s (fun u => u.fenceSeq die = { stage := 2, homes := up, pkgs := pkgs } ∧ u.out = s.out ++ peers ∧
    (∀ h ∈ up, Todo.homeMark h die ∈ u.todo) ∧ (∀ h ∈ u.held, h.die ≠ die) ∧ u.agents = s.agents ∧ u.mem = s.mem)) ∧
  (q.stage = 1 → die < 22 → up = [] → pkgs = [] → Steps (.fenceNotice die) s (fun u => u.fenceSeq die = { stage := 3, homes := [] } ∧ u.out = s.out ++ peers ∧ Todo.fenceCapacity die ∈ u.todo)) ∧
  (q.stage = 1 → 22 ≤ die → s.moving = [] → Steps (.fenceNotice die) s (fun u => tfind u.fencing die = none ∧ u.out = s.out ++ peers ∧ u.agents = s.agents ∧ u.mem = s.mem ∧
    (30 ≤ die → u.losses.length = s.losses.length + 1 ∧ u.capGen = (s.capGen + 1) % 2 ^ 32))) ∧
  (q.stage = 1 → 22 ≤ die → s.moving = [mv] → s.homeOf mv.1.src = die ∨ s.homeOf mv.1.dst = die → Steps (.fenceNotice die) s (fun u =>
    u.moving = [] ∧ u.migDone = s.migDone ++ [(mv.1, false)] ∧ u.agents = s.agents)) ∧
  (home ∉ homes ∨ die < 32 ∧ (q.stage ≠ 2 ∨ home ∉ q.homes) → exec (.homeFenceMark home die) s = .next s) ∧
  (home ∈ homes → 32 ≤ die → Steps (.homeFenceMark home die) s (fun u => marked u ∧ u.agents = s.agents ∧ u.mem = s.mem)) ∧
  (home ∈ homes → die < 32 → q.stage = 2 → q.homes.contains home = true → s.dirs = [(l, y)] → y.busy = none → s.homeOf (128 * l) = home → paPkg (128 * l) = Config.pkg →
    (∀ m ∈ s.net, m.kind ≠ .dirtyNotice) → Steps (.homeFenceMark home die) s (fun u => marked u ∧ u.mem = s.mem ∧ 
      u.fenceSeq die = (if q.homes.filter (· != home) = [] ∧ ∀ p ∈ q.pkgs, s.domain.contains p = false then { stage := 3, homes := [] } else { q with homes := q.homes.filter (· != home) }) ∧
      (u.dr l).lost = (y.lost || y.sc == .x die || y.dirty.getLsbD die) ∧ (u.dr l).owner = (if y.owner = some die then none else y.owner) ∧
      (die < 22 → (u.dr l).hold.getLsbD die = false ∧ (u.dr l).dirty.getLsbD die = false) ∧ (u.dr l).sc ≠ .x die)) ∧
  (home ∈ homes → die < 22 → q.stage = 2 → q.homes.contains home = true → s.homeOf (128 * l) = home → paPkg (128 * l) = Config.pkg → (s.dr l).busy = none →
    (∃ m ∈ s.net, m.kind = .dirtyNotice ∧ m.die = die ∧ m.line = l) → Steps (.homeFenceMark home die) s (fun u => (u.dr l).lost = true)) ∧
  (q.stage ≠ 3 → exec (.fenceCapacityUpdate die) s = .next s) ∧
  (q.stage = 3 → Steps (.fenceCapacityUpdate die) s (fun u => (u.di die).st = .fenced ∧ u.capGen = (s.capGen + 1) % 2 ^ 32 ∧ u.fenceSeq die = { stage := 4, homes := [] } ∧
    Todo.fenceLaunches die ∈ u.todo ∧ u.agents = s.agents ∧ u.mem = s.mem)) ∧
  (q.stage ≠ 4 → exec (.fenceLaunchHandling die) s = .next s) ∧
  (q.stage = 4 → (s.no die).fenced = true → Steps (.fenceLaunchHandling die) s (fun u => tfind u.fencing die = none ∧ (∀ p ∈ u.teams, p.2.live = true → p.2.die = die → p.2.pre = .saved) ∧
    Todo.spareJoin ∈ u.todo ∧ Todo.placement ∈ u.todo ∧
    (tfind s.launches lid = some la → la.live = true → la.cause = 0 → (key, t) ∈ s.teams → t.live = true → t.die = die → t.pre ≠ .saved → t.lid = lid →
      (la.hdr.restartable = true → t.bg ∈ (u.la lid).rerun) ∧
      ((∀ p ∈ s.teams, p.2.live = true → p.2.lid = lid → p.2.pre ≠ .saved ∧ s.cycle < p.2.started) → t.bg ∈ (u.la lid).rerun) ∧
      (la.hdr.restartable = false → t.started ≤ s.cycle → (u.la lid).live = false ∨ (u.la lid).cause = 0x29))))

/-- R453, R458, R459: the lowest spare, or a fenced die firmware returns, joins: once its controller's image is accepted its self-test harvests cores, every home of the
domain clears its mark, and then it is in service; a die that has no working core, fewer than 12 slices or fewer than 3 modules is fenced again. -/
def Obligations.Joining : Prop := ∀ (s : State) (die home : Nat) (bad slices : BitVec 16) (f : Bool),
  let d := s.di die
  let n := s.no home
  let notice := Instr.rejoinNotice home die
  let joins (n : Nat) (g : Bool) : Prop := d.st = .joining n g ∧ tfind s.fencing die = none
  let tests (g : Bool) : Prop := joins 1 g ∧ d.checked = true
  let ok : Prop := 32 ≤ die ∨ ∃ g, joins 2 g
  let begun (g : Bool) : Prop := Steps (.spareJoinStart die) s (fun u => (u.di die).st = .joining 1 g ∧ (u.no die).powered = true ∧ (u.no die).modules = 0x3F ∧
    (u.no die).lag = 0 ∧ (∀ k, k ≠ die → u.di k = s.di k) ∧ u.mem = s.mem)
  let cores := d.cores &&& ~~~ bad
  let pkgs := s.domain.filter (· != Config.pkg)
  let marks := homes.any (fun h => !(s.no h).fenced && (s.no h).marks.contains die) || (tget s.rejoins die).any (fun p => s.domain.contains p)
  (d.st = .inService ∨ d.st = .absent ∨ (∃ a b, d.st = .joining a b) ∨ (d.st = .spare ∧ ∃ i, i < die ∧ (s.di i).st = .spare) →
    exec (.spareJoinStart die) s = .next s) ∧
  (d.st = .spare → (∀ i, i < die → (s.di i).st ≠ .spare) → begun false) ∧
  (d.st = .fenced → tfind s.fencing die = none → begun true) ∧
  ((∀ g, ¬ tests g) → exec (.dieSelfTest die bad slices) s = .next s) ∧
  (tests f → die < 22 → cores = 0 ∨ popCount slices < 12 ∨ popCount (s.no die).modules < 3 → Steps (.dieSelfTest die bad slices) s (fun u =>
    u.fenceSeq die = { stage := 1, homes := [] } ∧ Todo.fenceNotice die ∈ u.todo ∧ (u.no die).fenced = true ∧ (u.no die).powered = false ∧ u.mem = s.mem)) ∧
  (tests f → cores ≠ 0 → 3 ≤ popCount (s.no die).modules → popCount slices = 12 ∨ popCount slices = 14 ∨ popCount slices = 15 ∨ popCount slices = 16 →
    Steps (.dieSelfTest die bad slices) s (fun u => (u.di die).st = .joining 2 f ∧ (u.di die).cores = cores ∧ (u.di die).slices = slices ∧
      variantCount (u.di die).variant = popCount slices ∧ (u.di die).ws = [] ∧ (u.di die).wsOwner = none ∧ (u.di die).l2 = [] ∧
      tget u.rejoins die = pkgs ∧ u.out = s.out ++ pkgs.map (fun p => s.peerOut p 6 die 0 []) ∧ u.mem = s.mem ∧ u.agents = s.agents)) ∧
  (¬ ok ∨ home ∉ homes → exec notice s = .next s) ∧
  (ok → home ∈ homes → Steps notice s (fun u => (u.no home).marks = n.marks.filter (· != die) ∧ (∀ k, k ≠ home → u.no k = s.no k) ∧ u.dies = s.dies ∧ u.mem = s.mem)) ∧
  ((∀ g, ¬ joins 2 g) ∨ marks = true → exec (.joinComplete die) s = .next s) ∧
  (joins 2 f → marks = false → Steps (.joinComplete die) s (fun u => (u.di die).st = .inService ∧ (u.no die).fenced = false ∧
    u.capGen = (s.capGen + 1) % 2 ^ 32 ∧ Todo.placement ∈ u.todo ∧ (∀ k, k ≠ die → u.di k = s.di k) ∧ u.mem = s.mem))

/-! ## Errors, losses and tiers (R378, R384–R390, R445–R450) -/

/-- R358, R378, R445–R450, R452: errors are counted by what their retry makes of them, 1,024 corrected ones of an array within a second are one lasting error, a location with
a lasting error withholds its bytes, a die whose distributors, walker or controller have one is fenced, CLR and THRESH are written, a word that runs when it is replayed had a transient error, and a slice that fails leaves the hash with its modified lines LOST. -/
def Obligations.Errors : Prop := ∀ (s : State) (e : ErrInfo) (node die slice t0 : Nat) (th : BitVec 8) (x : L2Line) (pc : W64),
  let n := s.no e.node
  let pend := s.errPend.find? (fun p => p.2 == e)
  let rest := s.errPend.erase (t0, e)
  let ck := coreKey e.node e.unit
  let control := e.node < 22 ∧ e.cause = 0x01 ∧ e.part = .control
  let now := s.ptbAt ioNode
  let ts := (tget s.corrTimes (errArray e)).filter (fun t => decide (now < t + 1000000000)) ++ [now]
  let d := s.di die
  let left := d.slices &&& ~~~ BitVec.twoPow 16 slice
  let same (u : State) : Prop := u.agents = s.agents ∧ u.mem = s.mem
  (32 < e.node → exec (.errorDetected e true) s = .next s ∧ exec (.errorDetected e false) s = .next s) ∧
  (e.node ≤ 32 → exec (.errorDetected e false) s = .next { s with errPend := s.errPend ++ [(now, e)] }) ∧
  (e.node ≤ 32 → ts.length < 1024 → Steps (.errorDetected e true) s (fun u => (u.no e.node).corr = min 0xFFFF (n.corr + 1) ∧ (u.no e.node).lasting = n.lasting ∧
    tget u.corrTimes (errArray e) = ts ∧ u.todo = s.todo ∧ same u)) ∧
  (e.node ≤ 32 → 1024 ≤ ts.length → Steps (.errorDetected e true) s (fun u => (u.no e.node).corr = min 0xFFFF (n.corr + 1) ∧ (u.no e.node).lasting = min 255 (n.lasting + 1) ∧
    (u.no e.node).icause = e.cause ∧ tget u.corrTimes (errArray e) = [] ∧ same u)) ∧
  (pend = none → exec (.errorRetry e true) s = .next s ∧ exec (.errorRetry e false) s = .next s) ∧
  (pend = some (t0, e) → Steps (.errorRetry e false) s (fun u => u.errPend = rest ∧ (u.no e.node).trans = min 0xFFFF (n.trans + 1) ∧
    (u.no e.node).lasting = n.lasting ∧ u.todo = s.todo ∧ same u)) ∧
  (pend = some (t0, e) → e.cause ≠ 0x06 → ¬ (e.node = 32 ∧ e.cause = 0x01) → Steps (.errorRetry e true) s (fun u => u.errPend = rest ∧
    (u.no e.node).lasting = min 255 (n.lasting + 1) ∧ (u.no e.node).icause = e.cause ∧
    (n.thresh ≠ 0 → n.thresh.toNat ≤ min 255 (n.lasting + 1) → n.fenced = false → Todo.nodeFence e.node ∈ u.todo) ∧
    (e.cause = 0x03 ∨ e.cause = 0x04 → e.addr ≠ 0 → (u.dr (e.addr / 128)).bad = true) ∧
    (e.cause = 0x02 → e.node < 22 → e.addr / 32 ∈ (u.di e.node).wsBad) ∧
    (e.cause = 0x01 → e.node < 22 → e.part = .l2 → (u.di e.node).line? (e.addr / 128) = none) ∧
    (e.cause = 0x01 → e.node < 22 → e.part = .l1 → ∀ y ∈ (u.co ck).l1, y.line ≠ e.addr / 128) ∧
    (e.cause = 0x01 → e.node < 22 → e.part = .scratch → e.addr / 8 ∈ (u.co ck).bad) ∧ (control → Todo.nodeFence e.node ∈ u.todo) ∧ same u)) ∧
  (pend = some (t0, e) → e.cause = 0x06 ∨ e.node = 32 ∧ e.cause = 0x01 → Steps (.errorRetry e true) s (fun u => u.fatal = true ∧ u.domain = [] ∧ u.mem = s.mem)) ∧
  Steps (.healthClear node) s (fun u => (u.no node).corr = 0 ∧ (u.no node).trans = 0 ∧ (u.no node).lasting = 0 ∧ (u.no node).thresh = (s.no node).thresh ∧
    (∀ k, k ≠ node → u.no k = s.no k) ∧ same u) ∧
  Steps (.registerWrite node th) s (fun u => (u.no node).thresh = th ∧ (u.no node).lasting = (s.no node).lasting ∧ (∀ k, k ≠ node → u.no k = s.no k) ∧
    u.todo = s.todo ++ (if th ≠ 0 ∧ th.toNat ≤ (s.no node).lasting ∧ (s.no node).fenced = false then [.nodeFence node] else []) ∧ same u) ∧
  (s.me.retried = some pc → s.me.pc ≠ pc → (s.retryEnd.no s.me.die).trans = min 0xFFFF ((s.no s.me.die).trans + 1) ∧ s.retryEnd.me = { s.me with retried := none } ∧ s.retryEnd.mem = s.mem) ∧
  (16 ≤ slice ∨ d.slices.getLsbD slice = false → exec (.sliceFailure die slice) s = .next s) ∧
  (slice < 16 → d.slices.getLsbD slice = true → die < 22 → Steps (.sliceFailure die slice) s (fun u => (u.di die).slices = left ∧ (u.di die).stall = true ∧
    (popCount left < 12 → Todo.nodeFence die ∈ u.todo) ∧ same u ∧
    (x ∈ d.l2 → sliceOf d.placed d.variant x.line = slice → (u.di die).line? x.line = none ∧ (x.st = .m ∨ (x.st = .d ∧ x.cls = .rc) → (u.dr x.line).lost = true))))

/-- R384–R390: a stack or a channel that is lost enters the loss map and leaves the placement; the walk of a re-hash, which firmware starts, moves a unit at a time from the highest
down, each once every die has the boundary; a page moves between tiers, its class with it, while its entry stays as the forwarder left it, but for lines that are lost. -/
def Sys2Proof.Claims.LossAndTiers : Prop := ∀ (s z v : State) (i home c src dst a : Nat) (m : MigCmd) (e w : W64),
  let b : BitVec 8 := BitVec.twoPow 8 i
  let n := s.no home
  let left := n.chans &&& ~~~ BitVec.twoPow 48 c
  let due := s.forwarder = true ∧ (s.stackHash home = true ∨ s.chanHash home = true)
  let same (u : State) : Prop := u.agents = s.agents ∧ u.mem = s.mem
  let may := v.tableAbort m.pte = none ∧ v.forwarder = true ∧ v.pageServed m.src = true ∧ v.pageServed m.dst = true ∧ pteIs e m.src 0 = true
  let stays := v.tableAbort m.pte = none ∧ v.pageServed m.src = true ∧ v.pageServed m.dst = true ∧ pteKept e w = true
  let go := Instr.tierMigration m
  (8 ≤ i ∨ s.stackUp &&& b = 0 → exec (.stackLoss i) s = .next s) ∧
  (i < 8 → s.stackUp &&& b ≠ 0 → Steps (.stackLoss i) s (fun u => u.stackUp = s.stackUp &&& ~~~ b ∧ u.hbm = (if s.hbm = 0xFF then s.hbm &&& ~~~ b else s.hbm) ∧
    u.losses.length = s.losses.length + (if s.hbm = 0xFF ∨ s.oldHbm = s.hbm then 1 else 2) ∧ u.capGen = (s.capGen + 1) % 2 ^ 32 ∧ u.oldHbm = s.oldHbm ∧ same u)) ∧
  (home < 22 ∨ 32 ≤ home ∨ n.chans.getLsbD c = false → exec (.channelLoss home c) s = .next s) ∧
  (22 ≤ home → home < 32 → c < 48 → n.chans.getLsbD c = true → minChans home ≤ popCount left → Steps (.channelLoss home c) s (fun u => (u.no home).chans = variantChans home left ∧
    (u.no home).oldChans = n.oldChans ∧ u.losses.length = s.losses.length + 1 ∧ u.capGen = (s.capGen + 1) % 2 ^ 32 ∧ (∀ h, h ≠ home → u.no h = s.no h) ∧ same u)) ∧
  (30 ≤ home → home < 32 → c < 48 → n.chans.getLsbD c = true → popCount left < minChans home → exec (.channelLoss home c) s = .next { s with todo := s.todo ++ [.nodeFence home] }) ∧
  (22 ≤ home → home < 30 → c < 48 → n.chans.getLsbD c = true → popCount left < minChans home → exec (.channelLoss home c) s = exec (.stackLoss (home - 22)) s) ∧
  (¬ due ∨ n.rehash = true ∧ n.moved = true → exec (.rehashUnitMove home) s = .next s) ∧
  (due → n.rehash = false → Steps (.rehashUnitMove home) s (fun u => (u.no home).rehash = true ∧ (u.no home).boundary = s.topUnit home ∧ (u.no home).moved = true ∧
    u.agents = s.agents)) ∧
  (due → n.rehash = true → n.moved = false → Steps (.rehashUnitMove home) s (fun u => u.no home = { n with moved := true } ∧ u.agents = s.agents)) ∧
  (n.rehash = false → s.stackHash home = true ∨ s.chanHash home = true →
    s.rehashStart home = s.setNo home { n with rehash := true, boundary := s.topUnit home, moved := false }) ∧
  (n.rehash = false ∨ n.moved = false ∨ s.boundSeen home = false → exec (.boundaryAdvance home) s = .next s) ∧
  (n.rehash = true → n.moved = true → s.boundSeen home = true → n.boundary ≠ 0 →
    exec (.boundaryAdvance home) s = .next (s.setNo home { n with boundary := n.boundary - 1, moved := false })) ∧
  (n.rehash = true → n.moved = true → s.boundSeen home = true → n.boundary = 0 → Steps (.boundaryAdvance home) s (fun u => (u.no home).rehash = false ∧ (u.no home).moved = false ∧
    (∀ d, tfind (u.di d).bound home = none) ∧ (s.stackHash home = true → u.oldHbm = s.hbm) ∧ (s.stackHash home = false → (u.no home).oldChans = n.chans) ∧ same u)) ∧
  ((∀ x ∈ s.moving, x.1 ≠ m) → s.tableWord m.pte = (e, v) →
    (¬ may → Steps go s (fun u => u = { v with migDone := v.migDone ++ [(m, false)] })) ∧
    (may → Steps go s (fun u => u.moving = v.moving ++ [(m, pteFrame e m.src 2)] ∧ u.classAt (m.dst / 65536) = v.classAt (m.src / 65536) ∧ u.migDone = v.migDone ∧
      u.agents = s.agents))) ∧
  (s.moving.find? (fun x => x.1 == m) = some (m, w) → s.tableWord m.pte = (e, v) →
    (¬ stays → Steps go s (fun u => u.moving = s.moving.erase (m, w) ∧ u.migDone = s.migDone ++ [(m, false)] ∧ u.classes = s.classes ∧ u.agents = s.agents)) ∧
    (stays → v.forwarder = false → exec go s = .next v) ∧
    (stays → v.forwarder = true → Steps go s (fun u => u.moving = s.moving.erase (m, w) ∧ u.migDone = s.migDone ++ [(m, true)] ∧
      (∀ p ∈ u.dies, ∀ t ∈ p.2.tlb, t.ptePa ≠ m.pte) ∧
      (m.src / 65536 ≠ m.dst / 65536 → ∀ p ∈ u.agents, ∀ e ∈ p.2.sq, ∀ pa, e.place = .phys pa → pa / 65536 ≠ m.src / 65536)))) ∧
  (Mem.wf z.mem = true → src % 65536 = 0 → dst % 65536 = 0 → src ≠ dst →
    (a < 65536 → z.lineLost ((dst + a) / 128) = false → memGet (z.pageCopy src dst).mem (dst + a) = memGet z.mem (src + a)) ∧
    (a < 65536 → z.lineLost ((dst + a) / 128) = true → memGet (z.pageCopy src dst).mem (dst + a) = memGet z.mem (dst + a)) ∧
    (a < 512 → z.lineLost (src / 128 + a) = true ∨ (z.dr (src / 128 + a)).bad = true ∨ (z.dr (dst / 128 + a)).lost = true → ((z.pageCopy src dst).dr (dst / 128 + a)).lost = true) ∧
    (¬ (dst ≤ a ∧ a < dst + 65536) → memGet (z.pageCopy src dst).mem a = memGet z.mem a))

/-- R46, R85, R300, R356, R385, R387, R398, R432: what firmware decides, or learns from another package (log 92), is done in the step that takes it: a lost line
initialised anew keeps its bytes, a re-hash starts, the domain, a route, a context's error area, the port's addresses and a session's context are set. -/
def Sys2Proof.Claims.FirmwareSteps : Prop := ∀ (s : State) (l home p c k : Nat) (ps is : List Nat) (a : W64) (fs : List FwAct),
  let y : State := { s with missed := false, fw := fs }
  let does (f : FwAct) (g : State → Prop) : Prop := s.go = false → s.dark = false → s.todo = [] → s.fw = f :: fs → ∃ t, step s = .next t ∧ g t
  does (.reinit l) (fun t => (t.dr l).lost = false ∧ (t.dr l).bad = (s.dr l).bad ∧ ((∀ x ∈ s.losses, x.forGood = false) → t.lineLost l = false) ∧ t.mem = s.mem ∧ t.agents = s.agents ∧
    ∀ j, j ≠ l → t.dr j = s.dr j) ∧
  does (.rehash home) (fun t => t = y.rehashStart home) ∧
  does (.domain ps) (fun t => (s.reqs = [] → t.domain = ps.dedup) ∧ (∀ q ∈ ps, s.reqs = [] → q ∉ t.lostPkgs) ∧
    (s.reqs = [] → t.capGen % 2 ^ 32 = (s.capGen + (s.domain.filter (fun q => !ps.contains q)).length + (ps.dedup.filter (fun q => !s.domain.contains q)).length) % 2 ^ 32)) ∧
  does (.route p is) (fun t => s.reqs = [] → tget t.routes p = (if p < 64 then is.take 4 else tget s.routes p) ∧ (∀ q, q ≠ p → tget t.routes q = tget s.routes q) ∧ t.mem = s.mem) ∧
  does (.errBase c a) (fun t => (t.cx c).errBase = a ∧ (∀ j, j ≠ c → t.cx j = s.cx j) ∧ t.mem = s.mem) ∧
  does (.bind k c p) (fun t => tget t.sessions k = { bound := true, peer := p, ctx := c } ∧ (∀ j, j ≠ k → tget t.sessions j = tget s.sessions j)) ∧
  does (.fuses p) (fun t => t.rollback = s.rollback ||| p % 2 ^ 64 ∧ t.power = s.power ∧ t.mem = s.mem) ∧
  does (.peerLock p true) (fun t => p ∈ t.locked) ∧ does (.peerLock p false) (fun t => p ∉ t.locked) ∧
  does (.drain p) (fun t => p ≠ Config.pkg → p ∈ t.draining) ∧ does (.address (some p) none) (fun t => t.ipv4 = some p ∧ t.ipv6 = none) ∧
  does (.cleared p k) (fun t => tget t.rejoins k = (tget s.rejoins k).filter (· != p)) ∧
  does (.marked p k) (fun t => (s.fenceSeq k).stage = 2 → (s.fenceSeq k).homes ≠ [] → (t.fenceSeq k).pkgs = (s.fenceSeq k).pkgs.filter (· != p)) ∧
  does (.unbind k) (fun t => tget t.sessions k = {} ∧ (∀ j, j ≠ k → tget t.sessions j = tget s.sessions j))

/-- R356, R384–R390: losses of stacks and channels, re-hashing, the moves between tiers, and what firmware decides. -/
def Obligations.LossAndMigration : Prop := Claims.LossAndTiers ∧ Claims.FirmwareSteps

/-! ## The host port (R326, R360, R400–R405, R438–R442, R460–R465) -/

/-- R360, R400–R402, R438–R441, R462: a frame of at most 9,216 bytes is taken, and the header of its datagram read; a DHP message that is the next of its session is performed once and answered, one performed already gets its kept answer and one far ahead
of a gap is dropped; and what reading, writing, launching, the timetable, the capacity record and redirecting answer. -/
def Obligations.HostMessages : Prop := ∀ (s v : State) (m : Dhp) (e : Instr) (typ pa : Nat) (cls : PClass) (moving large : Bool) (pte : W64) (ptePa : Nat) (o : Out) (k : EthKind),
  let all : List (Instr × Nat) := [(.dhpRead m, 1), (.dhpWrite m, 2), (.dhpLaunch m, 3), (.dhpTtset m, 4), (.dhpTtsetRead m, 260), (.dhpCapq m, 5), (.dhpRedirect m, 7)]
  let r := s.acked m.session m.ack
  let se := tget r.sessions m.session
  let n := m.payload.length
  let good (typ : Nat) : Prop := s.knows m.peer = true ∧ m.session < 256 ∧ se.bound = true ∧ se.peer = m.peer ∧ se.ctx = m.ctx ∧ m.magic = 0xD4A7 ∧ m.version = 1 ∧ m.rsv = 0 ∧
    n ≤ 8192 ∧ (if typ = 1 then n = 0 else n = m.len)
  let next (typ : Nat) : Prop := good typ ∧ m.seq = se.want ∧ se.want < 2 ^ 32 ∧ se.ahead = [] ∧ s.hostPending m.session = false
  let got (typ : Nat) : State := r.setSe m.session { se with ahead := [(typ, m)], acks := true }
  let out (typ st : Nat) (bs : List Byte) : Out := { chan := 0, typ := typ, session := m.session, seq := se.next, status := st, payload := bs, ack := m.seq }
  let answers (typ st : Nat) (bs : List Byte) (u : State) : Prop := (tget u.sessions m.session).want = (se.want + 1) % 2 ^ 32 ∧ (tget u.sessions m.session).next = (se.next + 1) % 2 ^ 32 ∧
    (m.seq, out typ st bs) ∈ (tget u.sessions m.session).kept ∧ (tget u.sessions m.session).ahead = []
  let tells (typ st : Nat) (bs : List Byte) (u : State) : Prop := u.out = s.out ++ [out typ st bs] ∧ answers typ st bs u ∧ u.agents = s.agents
  let va := m.arg
  let line (n : Nat) : Prop := 1 ≤ n ∧ n ≤ 8192 ∧ va % 128 + n ≤ 128 ∧ va + n ≤ 2 ^ 56 ∧ s.redir.on = false
  let prio := fld m.payload 8 1
  let w (o n : Nat) : Nat := fld m.payload o n
  let bad := Cause.illegal.code
  let rq : LReq := { lid := s.nextLid, handle := BitVec.ofNat 64 va, args := BitVec.ofNat 64 (w 0 8), ctx := se.ctx, prio := prio, device := false, entry := none, front := false, slot := 0, born := s.cycle }
  let frame (ok : Bool) (k : EthKind) : Instr := .ethFrame ok k typ m
  let arrives := s.serving = true ∧ m.frame ≤ 9216
  let p := dhpParse m.raw m.peer
  let asked (t : Nat) : State := { s with out := s.out ++ [{ chan := 0, typ := t, session := 0, seq := 0, status := 0, payload := [] }] }
  ((e, typ) ∈ all →
    (s.knows m.peer = false → (tget s.sessions m.session).ahead = [] → exec e s = .next s) ∧
    (s.knows m.peer = true → ¬ good typ → (tget s.sessions m.session).ahead = [] → exec e s = .next { s with badDhp := s.badDhp + 1 }) ∧
    (good typ → 2 ^ 31 ≤ seqAhead m.seq se.want → se.kept.find? (fun p => p.1 == m.seq) = some (m.seq, o) → se.ahead = [] → Steps e s (fun u =>
      u.out = s.out ++ [{ o with ack := (se.want + 2 ^ 32 - 1) % 2 ^ 32 }] ∧ tget u.sessions m.session = { se with acks := false } ∧ u.mem = s.mem ∧ u.admq = s.admq)) ∧
    (good typ → seqAhead m.seq se.want < 2 ^ 31 → se.ahead.find? (fun p => p.2.seq == se.want) = none → m.seq ≠ se.want → se.ahead.any (fun p => p.2.seq == m.seq) = false →
      Steps e s (fun u => (tget u.sessions m.session).ahead = (if 64 ≤ se.beyond then se.ahead else se.ahead ++ [(typ, m)]) ∧ u.out = s.out ∧ u.mem = s.mem ∧ u.admq = s.admq)) ∧
    (arrives → m.raw = [] → exec (frame true .dhp) s = exec e s)) ∧
  (arrives → 32 ≤ m.raw.length → exec (frame true .dhp) s = exec (.ethFrame true .dhp p.1 p.2) s) ∧
  (arrives → m.raw ≠ [] → m.raw.length < 32 → s.knows m.peer = true → exec (frame true .dhp) s = .next { s with badDhp := s.badDhp + 1 }) ∧
  (s.serving = false ∨ 9216 < m.frame → exec (frame true k) s = .next s ∧ exec (frame false k) s = .next s) ∧
  (arrives → exec (frame false k) s = .next { s with badFrames := s.badFrames + 1 }) ∧
  (k = .ptp ∨ k = .other → exec (frame true k) s = .next s) ∧
  (arrives → s.ipv4 = some m.arg → exec (frame true .arp) s = .next (asked 0x806)) ∧
  (arrives → s.ipv6 = some m.arg → exec (frame true .nd) s = .next (asked 0x86DD)) ∧
  (s.ipv4 ≠ some m.arg → exec (frame true .arp) s = .next s) ∧ (s.ipv6 ≠ some m.arg → exec (frame true .nd) s = .next s) ∧
  (next 1 → line m.len → (got 1).translate s.admDie se.ctx va .read = (.ok pa cls false moving pte ptePa large, v) → v.homeAbort (pa / 128) cls = none → cls ≠ .sc →
    v.sessions = (got 1).sessions → Steps (.dhpRead m) s (fun u => u.out = v.out ++ [out 1 0 (memBytes v.mem pa m.len)] ∧ answers 1 0 (memBytes v.mem pa m.len) u ∧ u.mem = v.mem)) ∧
  (next 2 → line n → (got 2).translate s.admDie se.ctx va .write = (.ok pa cls false moving pte ptePa large, v) → v.homeAbort (pa / 128) cls = none → cls ≠ .sc →
    v.sessions = (got 2).sessions → v.moving = [] → Steps (.dhpWrite m) s (fun u => u.out = v.out ++ [out 2 0 []] ∧ answers 2 0 [] u ∧ u.mem = memPutBytes v.mem pa m.payload)) ∧
  (next 1 → m.len = 0 ∨ 8192 < m.len → Steps (.dhpRead m) s (fun u => tells 1 bad [] u ∧ u.mem = s.mem)) ∧
  (next 3 → n ≠ 9 ∨ 3 < prio → Steps (.dhpLaunch m) s (fun u => tells 3 bad [] u ∧ u.admq = s.admq)) ∧
  (next 3 → n = 9 → prio ≤ 3 → s.redir.on = false → s.admFull prio = false → Steps (.dhpLaunch m) s (fun u => tells 3 0 (leBytes 4 s.nextLid) u ∧
    u.nextLid = (s.nextLid + 1) % 2 ^ 32 ∧ u.todo = s.todo ++ [.admission] ∧ tget u.admq prio = tget s.admq prio ++ [rq])) ∧
  (next 4 → n ≠ 36 ∨ 255 < va ∨ s.ttOk m.payload = false → s.redir.on = false → Steps (.dhpTtset m) s (fun u => tells 4 bad [] u ∧ u.timetable = s.timetable)) ∧
  (next 4 → n = 36 → va ≤ 255 → s.ttOk m.payload = true → s.redir.on = false → Steps (.dhpTtset m) s (fun u => tells 4 0 [] u ∧
    let t := tget u.timetable va
    t.start = w 0 8 ∧ t.period = w 8 8 ∧ t.handle = BitVec.ofNat 64 (w 16 8) ∧ t.args = BitVec.ofNat 64 (w 24 8) ∧ t.ctx = w 32 1 ∧ t.prio = w 33 1 % 4 ∧
    t.policy = w 33 1 / 4 % 4 ∧ t.enable = decide (128 ≤ w 33 1) ∧ t.skipped = 0 ∧ t.late = 0 ∧ (∀ i, i ≠ va → tget u.timetable i = tget s.timetable i))) ∧
  (next 260 → Steps (.dhpTtsetRead m) s (fun u => tells 260 (if n ≠ 0 ∨ 255 < va then bad else 0) (if n ≠ 0 ∨ 255 < va then [] else (tget s.timetable va).bytes) u ∧ u.timetable = s.timetable)) ∧
  (next 5 → Steps (.dhpCapq m) s (fun u => tells 5 (if va = 0xFF ∨ va ≤ 21 then 0 else bad) (if va = 0xFF ∨ va ≤ 21 then s.capBytes va else []) u)) ∧
  (next 7 → s.redir.step = 0 ∨ s.redir.step = 7 ∧ s.redir.target ≠ va → Steps (.dhpRedirect m) s (fun u => u.redir.step = 1 ∧ u.redir.target = va ∧ u.redir.sent = 0 ∧ tells 7 0 u.redir.bytes u ∧
    Todo.redirGo ∈ u.todo ∧ ∀ c ∈ u.ctxs, c.2.admStop = true)) ∧
  (next 7 → s.redir.step ≠ 0 → (s.redir.step = 7 → s.redir.target = va) → Steps (.dhpRedirect m) s (fun u => u.redir = s.redir ∧
    tells 7 (if s.redir.target = va then 0 else Cause.resources.code) (if s.redir.target = va then s.redir.bytes else []) u))

/-- R326, R405, R441: events go out in order to the session of their context and again each millisecond until acknowledged; a side with nothing else to send
acknowledges. The choice of the lowest bound session is the model's (log 48). -/
def Sys2Proof.Claims.HostEvents : Prop := ∀ (s : State) (ctx k seq ack : Nat) (e : Event) (q : List Event) (x : Nat × Out),
  let c := s.cx ctx
  let se := tget s.sessions k
  let now := s.ptbAt ioNode
  let o : Out := { chan := 0, typ := 6, session := k, seq := se.next, status := 0, payload := e.bytes, ack := se.ackSeq }
  let others (u : State) : Prop := (∀ j, j ≠ k → tget u.sessions j = tget s.sessions j) ∧ u.agents = s.agents ∧ u.mem = s.mem
  (c.evq = [] ∨ s.eventSession ctx = none → exec (.eventSend ctx) s = .next s) ∧
  (c.evq = e :: q → s.eventSession ctx = some k → Steps (.eventSend ctx) s (fun u => (u.cx ctx).evq = q ∧ u.out = s.out ++ [o] ∧
    tget u.sessions k = { se with next := (se.next + 1) % 2 ^ 32, acks := false, unacked := se.unacked ++ [(now, o)] } ∧ others u)) ∧
  (se.unacked.find? (fun p => p.2.seq == seq && decide (p.1 + 1000000 ≤ now)) = none → exec (.eventResend k seq) s = .next s) ∧
  (se.unacked.find? (fun p => p.2.seq == seq && decide (p.1 + 1000000 ≤ now)) = some x → Steps (.eventResend k seq) s (fun u => u.out = s.out ++ [{ x.2 with ack := se.ackSeq }] ∧ (tget u.sessions k).acks = false ∧
    (∀ p ∈ (tget u.sessions k).unacked, p.2.seq = seq → p.1 = now) ∧ (tget u.sessions k).unacked.length = se.unacked.length ∧ others u)) ∧
  (se.bound = false → exec (.dhpAckonly k ack) s = .next s) ∧
  (se.bound = true → 256 ≤ k → exec (.dhpAckonly k ack) s = .next { s with badDhp := s.badDhp + 1 }) ∧
  (se.bound = true → k < 256 → Steps (.dhpAckonly k ack) s (fun u => tget u.sessions k = { se with unacked := se.unacked.filter (fun p => decide (2 ^ 31 ≤ seqAhead ack p.2.seq)) } ∧ u.out = s.out ∧ others u)) ∧
  (se.bound = false ∨ se.acks = false → exec (.dhpAckTimer k) s = .next s) ∧
  (se.bound = true → se.acks = true → Steps (.dhpAckTimer k) s (fun u => tget u.sessions k = { se with acks := false } ∧ others u ∧
    u.out = s.out ++ [{ chan := 0, typ := 512, session := k, seq := se.next, status := 0, payload := [], ack := se.ackSeq }]))

/-- R460, R462, R465: a redirection's stream goes to its neighbour, every peer drains, unlatching is permitted and reported; a refusal, or 1 s without a working port toward the neighbour, makes it fail. -/
def Sys2Proof.Claims.Redirection : Prop := ∀ (s : State) (n peer : Nat),
  let r := s.redir
  let sent := min r.total (r.sent + n)
  let same (u : State) : Prop := u.agents = s.agents ∧ u.mem = s.mem
  let fails := r.step = 3 ∨ r.step = 4 ∧ ∃ t, r.lostAt = some t ∧ t + 1000000000 ≤ s.ptbAt ioNode
  let lost : Option Nat := if s.reachable r.target then none else some (r.lostAt.getD (s.ptbAt ioNode))
  (r.step ≠ 3 ∨ s.reachable r.target = false → exec (.redirectStream n) s = .next s) ∧
  (r.step = 3 → s.reachable r.target = true → sent < r.total → exec (.redirectStream n) s = .next { s with redir := { r with sent := sent } }) ∧
  (r.step = 3 → s.reachable r.target = true → r.total ≤ r.sent + n → Steps (.redirectStream n) s (fun u => u.redir.sent = r.total ∧
    u.redir.step = (if s.peers = [] then 5 else 4) ∧ u.out = s.out ++ s.peers.map (fun p => s.peerOut p 5 0 0 []) ∧ same u)) ∧
  (r.step ≠ 4 ∨ peer ∉ s.peers ∨ peer ∈ r.acks → exec (.routeDrain peer) s = .next s) ∧
  (r.step = 4 → peer ∈ s.peers → peer ∉ r.acks → Steps (.routeDrain peer) s (fun u => u.redir.acks = r.acks ++ [peer] ∧
    (u.redir.step = 5 ↔ ∀ p ∈ s.peers, p ∈ r.acks ∨ p = peer) ∧ u.redir.target = r.target ∧ same u)) ∧
  (r.step ≠ 5 → exec .unlatchPermitted s = .next s) ∧
  (r.step = 5 → Steps .unlatchPermitted s (fun u => u.redir.step = 6 ∧ u.unlatch = true ∧
    u.out = s.out ++ [{ chan := 1, typ := 0x08, session := 0, seq := 0, status := 0, payload := [0x02] }] ∧ same u)) ∧
  (fails → exec .redirectFailure s = .next { s with redir := { r with step := 7 } }) ∧
  (¬ fails → exec .redirectFailure s = .next s) ∧
  (r.step = 3 ∨ r.step = 4 → (∀ t, lost = some t → s.ptbAt ioNode < t + 1000000000) → s.redirWatch = { s with redir := { r with lostAt := lost } }) ∧
  (∀ t, r.step = 3 ∨ r.step = 4 → lost = some t → t + 1000000000 ≤ s.ptbAt ioNode → s.redirWatch = { s with redir := { r with lostAt := lost, step := 7 } }) ∧
  (r.step ≠ 3 → r.step ≠ 4 → s.redirWatch = s)

/-- R326, R405, R441, R460, R462, R465: events, acknowledgements and redirection. The session an event goes to is the model's choice (log 48). -/
def Obligations.HostEventsAndRedirection : Prop := Claims.HostEvents ∧ Claims.Redirection

/-! ## Management, power and temperature (R463–R472) -/

/-- R462–R464, R466, R469: with main power on and an address the endpoint performs the command that reaches it, or keeps it behind those that wait; the identity ROM answers
always. The values of the ROM, of sensors, hashes and signatures are free, and the power state's codes are the model's (logs 10 and 49). -/
def Obligations.Management : Prop := ∀ (s : State) (sel node seq off len cmd target : Nat) (addr : BitVec 7) (vendor : BitVec 32) (p nonce : List Byte),
  let bad := Cause.illegal.code
  let busy := Cause.resources.code
  let on := s.dark = false
  let takes := on ∧ s.mgmtAddr ≠ none
  let idle := takes ∧ s.mgmtq = []
  let waits := takes ∧ s.mgmtq ≠ []
  let tells (e : Instr) (cmd st : Nat) (bs : List Byte) : Prop := Steps e s (fun u => u.out = s.out ++ [mgmtOut cmd st bs] ∧ u.mgmtq = [] ∧ u.mem = s.mem ∧ u.agents = s.agents)
  let behind (e : Instr) (cmd : Nat) (p : List Byte) : Prop := exec e s = exec (.mctpMessage 0x0000C940 cmd p) s
  let message := Instr.mctpMessage vendor cmd p
  (¬ takes → exec .getId s = .next s ∧ exec (.getCap sel) s = .next s ∧ exec (.getHealth node seq) s = .next s ∧ exec .getThermal s = .next s ∧
    exec (.mgmtRedirect target) s = .next s ∧ exec (.getAttest nonce) s = .next s ∧ exec .getStatus s = .next s ∧ exec (.setPower off len) s = .next s ∧ exec message s = .next s) ∧
  (¬ on → exec (.i3cEntdaa addr) s = .next s) ∧
  (on → exec (.i3cEntdaa addr) s = .next { s with mgmtAddr := some addr }) ∧
  Steps (.identityRomRead off len) s (fun u => ∃ o, u = { s with out := s.out ++ [o] } ∧ o.chan = 1 ∧ o.payload.length = len ∧
    ∀ i, i < len → o.payload[i]? = romBytes[(off + i) % 256]?) ∧
  (∀ i, 16 ≤ i → i < 32 → (romByteAt i).toNat < 128) ∧
  (waits → behind .getId 0x01 [] ∧ behind (.getCap sel) 0x02 (byteOf sel) ∧ behind (.getHealth node seq) 0x03 (byteOf node ++ leBytes 4 seq) ∧ behind .getThermal 0x04 [] ∧
    behind (.setPower off len) 0x05 (byteOf off ++ leBytes 2 len) ∧ behind (.mgmtRedirect target) 0x06 (byteOf target) ∧ behind (.getAttest nonce) 0x07 nonce ∧ behind .getStatus 0x08 []) ∧
  (idle → tells .getId 0x01 0 romBytes) ∧
  (idle → sel = 0xFF ∨ sel ≤ 21 → tells (.getCap sel) 0x02 0 (s.capBytes sel)) ∧
  (idle → ¬ (sel = 0xFF ∨ sel ≤ 21) → tells (.getCap sel) 0x02 bad []) ∧
  (idle → 32 < node → tells (.getHealth node seq) 0x03 bad []) ∧
  (idle → node ≤ 32 → tells (.getHealth node seq) 0x03 0 (leBytes 8 (s.healthReg node).toNat ++ s.healthFrom seq)) ∧
  (idle → ∃ bs, bs.length = 70 ∧ tells .getThermal 0x04 0 bs ∧ (∀ x, node ≤ 32 → (s.no node).temp = some x → (bs.drop (2 * node)).take 2 = leBytes 2 x) ∧
    ∀ w, w < 2 ^ 16 → s.power = .capped w → leNat (bs.drop 68) ≤ w) ∧
  (idle → s.redir.step = 0 ∨ s.redir.step = 7 ∧ s.redir.target ≠ target → Steps (.mgmtRedirect target) s (fun u => u.redir.step = 1 ∧ u.redir.target = target ∧
    u.out = s.out ++ [mgmtOut 0x06 0 u.redir.bytes] ∧ Todo.redirGo ∈ u.todo ∧ u.mem = s.mem ∧ ∀ c ∈ u.ctxs, c.2.admStop = true)) ∧
  (idle → s.redir.step ≠ 0 → (s.redir.step = 7 → s.redir.target = target) →
    tells (.mgmtRedirect target) 0x06 (if s.redir.target = target then 0 else busy) (if s.redir.target = target then s.redir.bytes else [])) ∧
  (idle → nonce.length ≠ 32 → tells (.getAttest nonce) 0x07 bad []) ∧
  (idle → nonce.length = 32 → ∃ bs, tells (.getAttest nonce) 0x07 0 bs ∧ bs.take 32 = nonce ∧
    ∃ sig, bs = nonce ++ (List.range 16).map (fun i => romByteAt (16 + i)) ++ s.imageHashes ++ leBytes 8 s.rollback ++ leBytes 4 s.capGen ++ leBytes 8 (s.ptbAt ioNode) ++ sig ∧
      sig.length = 384 + 16224) ∧
  (∀ n, n ∈ s.images ↔ s.ioImage = true ∧ n = 32 + s.bootSlot ∨ n < 22 ∧ (s.di n).checked = true ∧ (s.di n).noCtl = false) ∧
  (idle → tells .getStatus 0x08 (if s.bootFail then busy else 0)
    (leBytes 1 ((if s.timeLock then 1 else 0) + (if s.unlatch then 2 else 0) + (if s.fatal then 4 else 0) + (if s.bootSlot = 1 then 8 else 0)))) ∧
  (1017 < p.length → exec message s = .next s) ∧
  (takes → p.length ≤ 1017 → vendor ≠ 0x0000C940 ∨ cmd = 0 ∨ 8 < cmd → exec message s = .next { s with out := s.out ++ [mgmtOut cmd bad []] }) ∧
  (takes → p.length ≤ 1017 → vendor = 0x0000C940 → 1 ≤ cmd → cmd ≤ 8 → 9 ≤ s.mgmtq.length → exec message s = .next { s with out := s.out ++ [mgmtOut cmd busy []] }) ∧
  (takes → p.length ≤ 1017 → vendor = 0x0000C940 → 1 ≤ cmd → cmd ≤ 8 → s.mgmtq.length < 9 →
    exec message s = .next { s with mgmtq := s.mgmtq ++ [(cmd, p)], todo := s.todo ++ [.mgmtGo] })

/-- R467, R468, R471, R472: power on boots, with every rail up, and BOOT ends once the I/O die's image is accepted and every controller's
checked; a rejected one makes way for the second slot, fails a die's join or leaves its controller unreleased; caps between 1,500 and 3,100 W are set; and each
temperature threshold has its effect, the highest crossed deciding. -/
def Obligations.PowerAndTemperature : Prop := ∀ (s : State) (slot rollback code cap node temp die : Nat) (a b c f : Bool) (st : Nat),
  let ok := imageOk s.rollback rollback a b c
  let check := Instr.bootImageCheck slot rollback a b c
  let boots := s.power = .boot ∧ s.bootFail = false ∧ s.ioImage = false ∧ slot = s.bootSlot ∧ slot < 2
  let ctl := slot = 2 + die ∧ s.ioImage = true
  let x := s.setDi die { s.di die with noCtl := !ok, checked := true }
  let checked (u : State) : Prop := ∀ d, d < 22 → (u.di d).inService = true → (u.di d).checked = true
  let bus := s.dark = false ∧ s.mgmtAddr ≠ none ∧ s.mgmtq = []
  let redirecting := 1 ≤ s.redir.step ∧ s.redir.step ≤ 5
  let runs := s.power = .run ∨ ∃ w, s.power = .capped w
  let tells (st : Nat) (u : State) : Prop := u.out = s.out ++ [mgmtOut 0x05 st []] ∧ u.mem = s.mem ∧ u.agents = s.agents
  let n := s.no node
  (s.power = .off → Steps .mainPowerOn s (fun u => u.power = .boot ∧ u.railIx = true ∧ u.mem = s.mem ∧ u.agents = s.agents ∧
    ∀ n, (u.no n).powered = (State.reset.no n).powered)) ∧
  (s.power ≠ .off → exec .mainPowerOn s = .next s) ∧
  Steps .mainPowerOff s (fun u => u.power = .off ∧ u.agents = State.reset.agents ∧ u.dies = State.reset.dies ∧ u.mem = [] ∧ u.teams = [] ∧ u.launches = [] ∧ u.rollback = s.rollback ∧
    u.railIx = false ∧ ∀ p ∈ u.nodes, p.2.powered = false) ∧
  (slot < 2 → s.power ≠ .boot ∨ s.bootFail = true ∨ s.ioImage = true ∨ slot ≠ s.bootSlot → exec check s = .next s) ∧
  (boots → ok = true → checked s → exec check s = .next { s with ioImage := true, power := .run }) ∧
  (boots → ok = true → ¬ checked s → exec check s = .next { s with ioImage := true }) ∧
  (boots → ok = false → slot = 0 → exec check s = .next { s with bootSlot := 1 }) ∧
  (boots → ok = false → slot = 1 → exec check s = .next { s with bootFail := true }) ∧
  (slot = 2 + die → s.ioImage = false → exec check s = .next s) ∧
  (ctl → (s.di die).st = .joining st f → ok = true → exec check s = .next x) ∧
  (ctl → (s.di die).st = .joining st f → die < 22 → ok = false → Steps check s (fun u => u.fenceSeq die = { stage := 1, homes := [] } ∧ Todo.fenceNotice die ∈ u.todo ∧
    (u.no die).fenced = true ∧ (u.no die).powered = false)) ∧
  (ctl → (s.di die).st = .inService → s.power = .boot → checked x → exec check s = .next { x with power := .run }) ∧
  (ctl → (s.di die).st = .inService → ¬ (s.power = .boot ∧ checked x) → exec check s = .next x) ∧
  (ctl → (s.di die).st ≠ .inService → (∀ i g, (s.di die).st ≠ .joining i g) → exec check s = .next s) ∧
  (ok = true ↔ a = true ∧ b = true ∧ c = true ∧ rollback < 64 ∧ (s.rollback = 0 ∨ Nat.log2 s.rollback ≤ rollback)) ∧
  (bus → redirecting → Steps (.setPower code cap) s (fun u => u.power = s.power ∧ tells Cause.resources.code u)) ∧
  (bus → runs → ¬ redirecting → 1500 ≤ cap → cap ≤ 3100 → Steps (.setPower 3 cap) s (fun u => u.power = .capped cap ∧ tells 0 u)) ∧
  (bus → runs → ¬ redirecting → cap < 1500 ∨ 3100 < cap → Steps (.setPower 3 cap) s (fun u => u.power = s.power ∧ tells Cause.illegal.code u)) ∧
  (bus → runs → ¬ redirecting → Steps (.setPower 2 cap) s (fun u => u.power = .run ∧ tells 0 u)) ∧
  (32 < node → exec (.thermalSample node temp) s = .next s) ∧
  (node ≤ 32 → temp < 880 → Steps (.thermalSample node temp) s (fun u => (u.no node).temp = some temp ∧
    (u.no node).stretch = (decide (760 ≤ temp ∧ temp < 840) || (n.stretch && decide (736 ≤ temp))) ∧ u.thermtrip = s.thermtrip ∧
    u.todo = s.todo ++ (if 840 ≤ temp ∧ n.powered = true then [.nodeFence node] else []) ∧ (840 ≤ temp → n.powered = true → (u.no node).icause = 0x0B) ∧ (∀ k, k ≠ node → u.no k = s.no k) ∧ u.agents = s.agents ∧ u.mem = s.mem)) ∧
  (node ≤ 32 → 880 ≤ temp → Steps (.thermalSample node temp) s (fun u => u.thermtrip = true ∧ u.todo = [] ∧ u.mem = s.mem ∧
    (∀ p ∈ u.nodes, p.2.powered = false) ∧ ∀ p ∈ u.agents, p.2.wait = .halted))

/-! ## The machine as a whole: words, steps, reset, memory -/

/-- R113, R115, R118, R121: a well-formed instruction's words decode to it again, with every operand at every value its encoding admits. -/
def Obligations.EncodingRoundTrip : Prop := ∀ (i : Instr) (ws : List W64), i.wf = true → encode i = some ws →
  decodeWord (ws.headD 0) ws[1]? = .ok i ∧ i.size = 8 * ws.length ∧ ∀ rest, decode (ws.flatMap (fun w => leBytes 8 w.toNat) ++ rest) = .ok (i, rest)

/-- R113, R118, R149, R154: what decodes is well-formed and has those words and no others, so no bit of a word is passed over; reserved kinds, a literal without its word, a word that
lacks its literal and unassigned opcodes are refused by name. -/
def Obligations.Decoding : Prop := ∀ (w : W64) (x : Option W64) (i : Instr),
  (decodeWord w x = .ok i → i.wf = true ∧ encode i = some (w :: (if wantsLit w then x.toList else []))) ∧
  (kindOf w = 2 → decodeWord w x = .error .strayLiteral) ∧ (kindOf w = 3 → decodeWord w x = .error .reservedKind) ∧
  (wantsLit w = true → x.bind litOf = none → decodeWord w x = .error .missingLiteral) ∧
  (kindOf w = 0 → wantsLit w = false → (assigned.all (fun r => (w.extractLsb' 42 10).toNat < r.1 || r.2 < (w.extractLsb' 42 10).toNat)) = true →
    decodeWord w x = .error .undefinedOpcode)

/-- R115, R121, R147–R152: words of each family, put together bit by bit from the encoding tables, decode to the instructions they stand for. -/
def Obligations.EncodedWords : Prop :=
  let c : Ctl := ⟨0, none, false, 0⟩
  decodeWord 0x1E00000000000C00 none = .ok (.nop { c with stall := 7, safe := some 3 }) ∧
  decodeWord 0x0001042021000201 none = .ok (.sadd c ⟨true, 8, 8, .imm 64⟩) ∧
  decodeWord 0x00002C0017FC0000 none = .ok (.loop c 5 (.off8 0xFF)) ∧
  decodeWord 0x00001800040C0000 none = .ok (.brk c 1 (.off8 3)) ∧
  decodeWord 0x10A28C2024282C01 none = .ok (.fmaF32 { c with stall := 4, neg := true, k := 2 } .rz ⟨8, 9, .v 10⟩ 11) ∧
  decodeWord 0x0C020010140C0104 none = .ok (.vadd { c with stall := 3 } true ⟨false, 4, 5, .s 3⟩) ∧
  decodeWord 0x000508201009004B none = .ok (.ldB32 c ⟨8, ⟨4, some (.x4, 2), .imm 64⟩, .none, some .die⟩) ∧
  decodeWord 0x0005602810181CFA none = .ok (.atom c ⟨false, .cas, some (.ar, .pkg), 10, 4, 6, 7⟩) ∧
  decodeWord 0x0006040814400008 none = .ok (.mma c true .bf16 2 5 16) ∧
  decodeWord 0x0007000C08001989 none = .ok (.copy c ⟨false, false, true, some 6, 2, 1, 3, 2⟩) ∧
  decodeWord 0x00078000001C0000 none = .ok (.trap c 7) ∧
  decodeWord 0x0207A80000000C00 none = .ok (.safepoint { c with safe := some 3 }) ∧
  decodeWord 0x4004102000084868 none = .ok (.hWord ⟨0, 0, .vi .vadd false 4 (.v 8)⟩ ⟨0, 0, .vi .vadd false 9 (.v 13)⟩)

/-- R62, R113, R118, R378, R416, R447, R463, R471: a chosen agent's step runs the instruction its words decode to, and traps ILLEGAL on one that does not decode or is not aligned; a word that
missed while its die's L2 holds misses back has no effect and comes again in the next cycle; an error that the replay of its word did not show again is settled first (R447). A step of an engine that misses so comes again too; a slot of the timetable goes before a message that launches; without main power only the identity ROM and the
switch answer. The order of the other steps is the model's (logs 6 and 92). -/
def Obligations.StepRuns : Prop := ∀ (s t u : State) (i : Instr) (w x : W64) (td : Todo) (ts : List Todo) (f : FwAct) (fs : List FwAct) (is : List Instr),
  let y : State := { s with missed := false }
  let z0 : State := { y with go := false }
  let z : State := z0.retryEnd
  let a := z.me
  let bad (b : Bool) : Trap := { cause := .illegal, halfB := b }
  let lit := s.go = false ∧ s.dark = false
  let gives (r : Host.Outcome State Fault Refusal) : Prop :=
    (∀ v, r = .next v → v.missed = false → step s = .next v) ∧
    (∀ v, r = .next v → v.missed = true → step s = .next (z0.setAg s.cur { s.me with ready := max s.me.ready (s.cycle + 1) })) ∧
    (∀ e, r = .fault e → step s = .fault e)
  (s.go = true → z.fetchWord a a.pc = (.ok w, t) → wantsLit w = false → (decodeWord w none = .ok i → gives (exec i t)) ∧
    ((∀ j, decodeWord w none ≠ .ok j) → gives (t.takeTrap t.cur (bad (badHalfB w))))) ∧
  (s.go = true → z.fetchWord a a.pc = (.ok w, t) → wantsLit w = true → t.fetchWord a (a.pc + 8) = (.ok x, u) → (decodeWord w (some x) = .ok i → gives (exec i u)) ∧
    ((∀ j, decodeWord w (some x) ≠ .ok j) → gives (u.takeTrap u.cur (bad (badHalfB w))))) ∧
  (s.go = true → a.pc.toNat % 8 ≠ 0 → gives (z.takeTrap z.cur (bad false))) ∧
  (a.kind = .firmware → a.pc.toNat % 8 = 0 → a.pc.toNat < 2 ^ 20 → z.fetchWord a a.pc = (.ok (BitVec.ofNat 64 (leNat (s.privBytes a.die a.pc.toNat 8))), z)) ∧
  (∀ r, s.go = true → z.fetchWord a a.pc = (.error r, t) → gives (t.takeTrap t.cur r)) ∧
  (lit → s.todo = td :: ts → let v := State.runTodo { y with todo := ts } td
    step s = .next (if v.missed = true then { y with todo := ts, later := s.later ++ [td] } else v)) ∧
  (lit → s.todo = [] → s.fw = f :: fs → step s = .next (State.runFw { y with fw := fs } f)) ∧
  (lit → s.todo = [] → s.fw = [] → s.inbox = i :: is → startsLaunch i = false ∨ y.dueSlot = none → step s = exec i { y with inbox := is }) ∧
  (lit → s.todo = [] → s.fw = [] → s.inbox = i :: is → startsLaunch i = true → y.dueSlot = some u → step s = .next u) ∧
  (lit → s.todo = [] → s.fw = [] → s.inbox = [] → step s = .next y.idle) ∧
  (s.go = false → s.dark = true → s.inbox = [] → step s = .next y) ∧
  (s.go = false → s.dark = true → s.inbox = i :: is → standby i = false → step s = .next { y with inbox := is }) ∧
  (s.go = false → s.dark = true → s.inbox = i :: is → standby i = true → step s = exec i { y with inbox := is })

/-- No instruction is without a meaning: none is refused, and a step of the part that is no word answers a next state in every state. -/
def Obligations.NothingRefused : Prop := ∀ (i : Instr) (s : State) (r : Refusal),
  exec i s ≠ .refused r ∧ step s ≠ .refused r ∧ (encode i = none → ∃ t, exec i s = .next t)

/-- R2, R47, R50, R308, R398, R419, R422, R471: after power-on the package is in BOOT with no agent but its die controllers, no memory written, 20 dies in service and two spares, and its
memory keeps the canonical form. The values the spec does not give are the model's choices (logs 1, 2, 11 and 12). -/
def Obligations.ResetState : Prop :=
  let s := State.reset
  s.power = .boot ∧ s.mem = [] ∧ Mem.wf s.mem = true ∧ (∀ p ∈ s.agents, p.2.kind = .firmware ∧ p.2.wait = .halted ∧ p.2.sreg = []) ∧ s.teams = [] ∧ s.launches = [] ∧
  (∀ d, d < 20 → (s.di d).st = .inService ∧ (s.no d).powered = true) ∧ (s.di 20).st = .spare ∧ (s.di 21).st = .spare ∧ (∀ d, 22 ≤ d → (s.di d).st = .absent) ∧
  (∀ d, d < 22 → (s.di d).cores = 0xFFFF ∧ (s.di d).slices = 0xFFFF ∧ (s.di d).variant = 0 ∧ (s.di d).mxchk = 0 ∧ (s.di d).shadow = false ∧ (s.di d).ring = []) ∧
  (∀ n, n ≤ 32 → (s.no n).fenced = false ∧ (s.no n).corr = 0 ∧ (s.no n).lasting = 0) ∧ s.capGen = 0 ∧ s.timeLock = false ∧ s.unlatch = false ∧ s.fatal = false ∧ s.ptb = 0 ∧
  step s = .next s.idle

/-- Every step keeps memory in its canonical form: addresses strictly rising and no byte listed that reads as an unlisted one (log 1). -/
def Obligations.MemoryForm : Prop := ∀ (s t : State), Mem.wf s.mem = true → step s = .next t → Mem.wf t.mem = true

/-- R431: a line goes over the bulk plane as the shortest of three forms of the lengths the spec gives, and the receiver's decoding of each form is the line; the worked
case takes 74 bytes and a line of zeros 5. The values of the encoding byte and the choice between forms of one length are the model's (log 93). -/
def Obligations.BulkLines : Prop := ∀ (d : BitVec 1024),
  let forms := [bulkRaw d, bulkWords d, bulkShared d]
  let nonzero := ((List.range 32).filter (fun i => lineWord d i != 0)).length
  bulkDecode (bulkEncode d) = some d ∧ (∀ f ∈ forms, bulkDecode f = some d) ∧
  bulkEncode d ∈ forms ∧ (∀ f ∈ forms, (bulkEncode d).length ≤ f.length) ∧
  (bulkRaw d).length = 129 ∧ (bulkWords d).length = 5 + 4 * nonzero ∧
  (bulkShared d).length = 2 + ((List.range 8).map (fun g => if sameExp d g then 9 else 16)).sum ∧
  (d = 0 → (bulkEncode d).length = 5) ∧
  ((∀ g e, g < 8 → e < 8 → bfExp (bulkElem d g e) = 0x7F) → (∀ i, i < 32 → lineWord d i ≠ 0) → (bulkEncode d).length = 74)

/-! ## Completion -/

/-- R178, R179, R181, R243, R245, R249, R251, R252: `exit`, `yield`, `reform`, `gangset` and `mma` complete, the last by waiting at the latch or by latching, and so do the
start of the matrix engine and its tile write. -/
def Sys2Proof.Claims.WordsComplete : Prop := ∀ (s : State) (c : Ctl) (sa ta : BitVec 6) (va vb : BitVec 8) (acc : Bool) (f : MFmt) (zd : BitVec 4) (die core : Nat) (q : Mma) (qs : List Mma),
  let me := s.me
  let left := me.pres &&& ~~~ s.lanes (.exit c)
  let next (l : Nat) : W64 := (s.sees (.reform c va)).v64 va.toNat l
  let free := ((List.range 16).filter (fun h => !(tget (s.co me.ck).holes h).live)).length
  let g := (s.sees (.gangSet c sa)).s32 sa.toNat
  let w := Instr.mma c acc f zd ta vb
  let m := gangSize me.gang
  let waiting := s.latchWaiters me.ck me.gang
  let keys := (gangSlots me.gang).map (fun x => 64 * me.ck + x)
  let ck := coreKey die core
  let arrived := (me.held ≠ none ∨ me.passes ≤ 1) ∧ s.owes s.cur = false
  (s.ready (.yield c) = true → ∃ t, exec (.yield c) s = .next t ∧ t.me.pc = s.after (.yield c) ∧ t.me.wait = (if me.kind = .group then .yielded 8 else .none)) ∧
  (s.ready (.exit c) = true → me.inSave = true → ∃ t, exec (.exit c) s = .next t ∧ (t.ag s.cur).wait = .saved ∧ Todo.teamSaved me.team ∈ t.todo) ∧
  (s.ready (.exit c) = true → me.inSave = false → me.kind = .courier ∨ me.kind = .group ∧ left = 0 →
    ∃ t, exec (.exit c) s = .next t ∧ (t.ag s.cur).live = false ∧ Todo.teamEnd me.team ∈ t.todo) ∧
  (s.ready (.exit c) = true → me.inSave = false → me.kind = .group → left ≠ 0 → me.act &&& left ≠ 0 ∨ me.depth = 0 →
    ∃ t, exec (.exit c) s = .next t ∧ t.me.pres = left ∧ t.me.pc = s.after (.exit c) ∧ t.me.live = true) ∧
  (s.ready (.reform c va) = true → me.kind = .group → me.depth = 0 → (∀ l, (s.lanes (.reform c va)).getLsbD l = true → (next l).toNat % 8 = 0) →
    (lanesOf (s.lanes (.reform c va))).length ≤ free → ∃ t, exec (.reform c va) s = .next t ∧ (t.ag s.cur).live = false) ∧
  (s.ready (.gangSet c sa) = true → s.latchWaiters me.ck me.gang = [] → g = 0 → ∃ t, exec (.gangSet c sa) s = .next t ∧ t.me.gang = 0 ∧ t.me.pc = s.after (.gangSet c sa)) ∧
  (s.ready w = true → m ≠ 0 → arrived → s.brokenSlot me.ck me.gang = none → waiting.length + 1 < m → ∃ t, exec w s = .next t ∧ t.me.wait = .latch ∧ t.me.pc = s.after w) ∧
  (s.ready w = true → m ≠ 0 → arrived → s.brokenSlot me.ck me.gang = none → m ≤ waiting.length + 1 → s.cur ∈ keys →
    (∀ k ∈ keys, k ≠ s.cur → ∃ x, (s.ag k).latch = some x ∧ x.zd = zd.toNat ∧ x.ta = ta.toNat ∧ x.acc = acc ∧ x.fmt = mfNum f) →
    (s.entry me ta).ill = false → aTensOk s me f m (s.entry me ta).t = true →
    ∃ t, exec w s = .next t ∧ t.me.wait = .engine ∧ t.me.pc = s.after w ∧ (t.co me.ck).mmas.length = (s.co me.ck).mmas.length + 1) ∧
  ((s.co ck).mmas = q :: qs → q.started = false → (s.ag q.lead).wait = .engine → q.word.acc = false ∨ (s.tile ck q.word.zd).valid = true → (s.co ck).badAt q.base (1024 * q.size) = false →
    mfmtOf q.word.fmt ≠ .p4 → ∃ t r, exec (.mmaEngineStart die core) s = .next t ∧ (t.co ck).mmas = r :: qs ∧ r.started = true ∧ r.members = q.members ∧ r.word = q.word) ∧
  ((s.co ck).mmas = q :: qs → q.started = true → q.checked = false → q.members.Nodup →
    ∃ t, exec (.mmaTileWrite die core) s = .next t ∧ (t.co ck).mmas.length = qs.length ∧ (t.tile ck q.word.zd).valid = ((s.tile ck q.word.zd).valid || !q.word.acc))

/-- R226, R228, R230, R326, R348, R398, R441, R460–R472: the steps of the host port, of a redirection, of the management bus, of power, boot and temperature, and the homes' and
links' last ones complete, each where it has something to do. -/
def Sys2Proof.Claims.EventsComplete : Prop := ∀ (s : State) (ctx k seq ack n peer target sel node off len cmd die core home port l t0 cap : Nat) (e : Event) (q : List Event) (x : Nat × Out)
    (addr : BitVec 7) (p nonce : List Byte) (ts : List Nat) (m : Msg),
  let se := tget s.sessions k
  let now := s.ptbAt ioNode
  let r := s.redir
  let on := s.dark = false ∧ s.mgmtAddr ≠ none ∧ s.mgmtq = []
  let sends (i : Instr) (o : Out) : Prop := ∃ t, exec i s = .next t ∧ t.out = s.out ++ [o]
  let hk := coreKey die core * 2 ^ 14 + home
  let seen (k : MKind) : Prop := s.net.find? (fun y => y.kind == k && y.die == die && y.line == l) = some m
  let has (k : MKind) : Prop := seen k ∧ s.ripe m = true
  let served := (s.no (s.homeOf (128 * l))).marks.contains die = false
  (se.bound = true → k < 256 → ∃ t, exec (.dhpAckonly k ack) s = .next t ∧
    (tget t.sessions k).unacked = se.unacked.filter (fun p => decide (2 ^ 31 ≤ seqAhead ack p.2.seq))) ∧
  (se.bound = true → se.acks = true → ∃ t, exec (.dhpAckTimer k) s = .next t ∧ (tget t.sessions k).acks = false ∧ t.out.length = s.out.length + 1) ∧
  ((s.cx ctx).evq = e :: q → s.eventSession ctx = some k → ∃ t, exec (.eventSend ctx) s = .next t ∧ (t.cx ctx).evq = q ∧ t.out.length = s.out.length + 1) ∧
  (se.unacked.find? (fun p => p.2.seq == seq && decide (p.1 + 1000000 ≤ now)) = some x → sends (.eventResend k seq) { x.2 with ack := se.ackSeq }) ∧
  (r.step = 3 → s.reachable r.target = true → ∃ t, exec (.redirectStream n) s = .next t ∧ t.redir.sent = min r.total (r.sent + n)) ∧
  (r.step = 4 → peer ∈ s.peers → peer ∉ r.acks → ∃ t, exec (.routeDrain peer) s = .next t ∧ t.redir.acks = r.acks ++ [peer]) ∧
  (r.step = 5 → ∃ t, exec .unlatchPermitted s = .next t ∧ t.redir.step = 6 ∧ t.unlatch = true) ∧
  (r.step = 3 ∨ r.step = 4 ∧ s.redirCut = true → ∃ t, exec .redirectFailure s = .next t ∧ t.redir.step = 7) ∧
  (s.dark = false → ∃ t, exec (.i3cEntdaa addr) s = .next t ∧ t.mgmtAddr = some addr) ∧
  (∃ t, exec (.identityRomRead off len) s = .next t ∧ t.out.length = s.out.length + 1) ∧
  (on → sends .getId (mgmtOut 0x01 0 romBytes)) ∧
  (on → sel = 0xFF ∨ sel ≤ 21 → sends (.getCap sel) (mgmtOut 0x02 0 (s.capBytes sel))) ∧
  (on → node ≤ 32 → sends (.getHealth node seq) (mgmtOut 0x03 0 (leBytes 8 (s.healthReg node).toNat ++ s.healthFrom seq))) ∧
  (on → ∃ bs, bs.length = 70 ∧ sends .getThermal (mgmtOut 0x04 0 bs)) ∧
  (on → s.power = .run → r.step = 0 → 1500 ≤ cap → cap ≤ 3100 → ∃ t, exec (.setPower 3 cap) s = .next t ∧ t.power = .capped cap) ∧
  (on → r.step = 0 ∨ r.step = 7 ∧ r.target ≠ target → ∃ t, exec (.mgmtRedirect target) s = .next t ∧ t.redir.step = 1 ∧ t.redir.target = target) ∧
  (on → nonce.length = 32 → ∃ bs, bs.take 32 = nonce ∧ sends (.getAttest nonce) (mgmtOut 0x07 0 bs)) ∧
  (on → ∃ st bs, sends .getStatus (mgmtOut 0x08 st bs)) ∧
  (s.power = .off → ∃ t, exec .mainPowerOn s = .next t ∧ t.power = .boot) ∧
  (∃ t, exec .mainPowerOff s = .next t ∧ t.power = .off) ∧
  (s.power = .boot → s.bootFail = false → s.ioImage = false → s.bootSlot = 0 → s.rollback = 0 → ∃ t, exec (.bootImageCheck 0 0 true true true) s = .next t ∧ t.ioImage = true) ∧
  (s.ioImage = true → s.rollback = 0 → die < 22 → (s.di die).st = .inService → ∃ t, exec (.bootImageCheck (2 + die) 0 true true true) s = .next t ∧
    (t.di die).checked = true ∧ (t.di die).noCtl = false) ∧
  (node ≤ 32 → n < 840 → ∃ t, exec (.thermalSample node n) s = .next t ∧ (t.no node).temp = some n) ∧
  (s.dark = false → s.mgmtAddr ≠ none → p.length ≤ 1017 → 1 ≤ cmd → cmd ≤ 8 → s.mgmtq.length < 9 → ∃ t, exec (.mctpMessage 0x0000C940 cmd p) s = .next t ∧ t.mgmtq = s.mgmtq ++ [(cmd, p)]) ∧
  (tget s.recent hk = t0 :: ts → t0 + 1000000 ≤ s.ptbAt die → s.reqs = [] → ∃ t, exec (.remoteTagAgeOut die core home) s = .next t ∧ tget t.recent hk = ts) ∧
  (has .wsRead → served → s.homeAbort l (s.classAt (linePage l)) = none → ∃ t, exec (.wsPvLineRead die l) s = .next t ∧ ((t.di die).line? l).isSome = true ∧ t.net = s.net.erase m) ∧
  (has .wsWrite → served → s.genAt l m.ctx ≤ m.gen → s.lineLost l = false → s.homeFenced l = false → s.moving = [] → ∃ t, exec (.wsPvWriteBack die l) s = .next t ∧ t.mem = memPutLine s.mem l m.data m.mask) ∧
  (seen .lineset → s.lineGone l = false → ∃ t, exec (.linesetAtHome die l) s = .next t ∧ (t.dr l).lost = false ∧ t.net = s.net.erase m) ∧
  (s.net = [] → s.moving = [] → (s.di die).line? l = none → s.homeAbort l (s.classAt (linePage l)) = none → s.genAt l 0 ≤ (s.cx 0).gen →
    ∃ t, exec (.atomicAtHome die (128 * l) false .add 1 0) s = .next t ∧ t.mem = memPutBytes s.mem (128 * l) (leBytes 4 ((leNat (memBytes s.mem (128 * l) 4) + 1) % 2 ^ 32))) ∧
  (port < 16 → (tget s.ports port).up = false → ∃ t, exec (.aflPortUp port) s = .next t ∧ (tget t.ports port).up = true)

/-- R178, R179, R181, R243–R251, R258–R260, R326, R382, R441, R460–R472: words that end, yield, regroup or join a gang, the matrix engine's steps, `epi`, and the host port's, the management bus's and the homes' steps complete. -/
def Obligations.Completions : Prop := Claims.WordsComplete ∧ Claims.EventsComplete ∧ Claims.EpilogueCompletes
end

