-- ==== Sys2Proof/Laws/State.lean ====
section
/-! SUPPORT. What each update of the state leaves and gives: one lemma per field per update, and the reads of the numbered records. -/

namespace Sys2Proof.Machine

/-! ## Tables -/

theorem tfind_tput_same (t : Tab α) (k : Nat) (x : α) : tfind (tput t k x) k = some x := by
  induction t with
  | nil => simp [tput, tfind]
  | cons p t ih =>
    unfold tput
    split
    · next h => simpa [tfind, Nat.ne_of_lt h] using ih
    · split <;> simp [tfind]

theorem tfind_tput_other (t : Tab α) {k j : Nat} (x : α) (h : j ≠ k) : tfind (tput t k x) j = tfind t j := by
  induction t with
  | nil => simp [tput, tfind, h.symm]
  | cons p t ih =>
    unfold tput
    split
    · by_cases hp : p.1 = j
      · simp [tfind, hp]
      · simpa [tfind, hp] using ih
    · split
      · next _ hk => simp [tfind, hk, h.symm]
      · simp [tfind, h.symm]

/-- What was put under a key is what is read there. -/
@[simp] theorem tget_tput_same [Inhabited α] (t : Tab α) (k : Nat) (x : α) : tget (tput t k x) k = x := by simp [tget, tfind_tput_same]

/-- A put leaves every other key alone. -/
theorem tget_tput_other [Inhabited α] (t : Tab α) {k j : Nat} (x : α) (h : j ≠ k) : tget (tput t k x) j = tget t j := by
  simp [tget, tfind_tput_other t x h]

/-- A read after a put, for any two keys. -/
theorem tget_tput [Inhabited α] (t : Tab α) (k j : Nat) (x : α) : tget (tput t k x) j = if j = k then x else tget t j := by
  split
  · next h => simp [h]
  · next h => exact tget_tput_other t x h

/-- A removed key reads as the default. -/
theorem tget_tdel_same [Inhabited α] (t : Tab α) (k : Nat) : tget (tdel t k) k = default := by
  have h : List.find? (fun _ : Nat × α => false) t = none := by simp
  simp [tget, tfind, tdel, List.find?_filter, h]

/-- A removal leaves every other key alone. -/
theorem tget_tdel_other [Inhabited α] (t : Tab α) {k j : Nat} (h : j ≠ k) : tget (tdel t k) j = tget t j := by
  simp only [tget, tfind, tdel, List.find?_filter]
  congr 3
  funext p
  by_cases hp : p.1 = j <;> simp [hp, h]

/-! ## agents -/

@[simp] theorem State.setAg_ag (s : State) (k : Nat) (x : Agent) : (s.setAg k x).ag k = x := tget_tput_same _ _ _
theorem State.setAg_ag_other (s : State) {k j : Nat} (x : Agent) (h : j ≠ k) : (s.setAg k x).ag j = s.ag j := tget_tput_other _ _ h
@[simp] theorem State.setAg_cc (s : State) (k : Nat) (x : Agent) : (s.setAg k x).cc = s.cc := rfl
@[simp] theorem State.setAg_tm (s : State) (k : Nat) (x : Agent) : (s.setAg k x).tm = s.tm := rfl
@[simp] theorem State.setAg_la (s : State) (k : Nat) (x : Agent) : (s.setAg k x).la = s.la := rfl
@[simp] theorem State.setAg_cx (s : State) (k : Nat) (x : Agent) : (s.setAg k x).cx = s.cx := rfl
@[simp] theorem State.setAg_co (s : State) (k : Nat) (x : Agent) : (s.setAg k x).co = s.co := rfl
@[simp] theorem State.setAg_di (s : State) (k : Nat) (x : Agent) : (s.setAg k x).di = s.di := rfl
@[simp] theorem State.setAg_no (s : State) (k : Nat) (x : Agent) : (s.setAg k x).no = s.no := rfl
@[simp] theorem State.setAg_dr (s : State) (k : Nat) (x : Agent) : (s.setAg k x).dr = s.dr := rfl
@[simp] theorem State.setAg_cur (s : State) (k : Nat) (x : Agent) : (s.setAg k x).cur = s.cur := rfl
@[simp] theorem State.setAg_go (s : State) (k : Nat) (x : Agent) : (s.setAg k x).go = s.go := rfl
@[simp] theorem State.setAg_inbox (s : State) (k : Nat) (x : Agent) : (s.setAg k x).inbox = s.inbox := rfl
@[simp] theorem State.setAg_todo (s : State) (k : Nat) (x : Agent) : (s.setAg k x).todo = s.todo := rfl
@[simp] theorem State.setAg_fw (s : State) (k : Nat) (x : Agent) : (s.setAg k x).fw = s.fw := rfl
@[simp] theorem State.setAg_cycle (s : State) (k : Nat) (x : Agent) : (s.setAg k x).cycle = s.cycle := rfl
@[simp] theorem State.setAg_ptb (s : State) (k : Nat) (x : Agent) : (s.setAg k x).ptb = s.ptb := rfl
@[simp] theorem State.setAg_frac (s : State) (k : Nat) (x : Agent) : (s.setAg k x).frac = s.frac := rfl
@[simp] theorem State.setAg_timeLock (s : State) (k : Nat) (x : Agent) : (s.setAg k x).timeLock = s.timeLock := rfl
@[simp] theorem State.setAg_slew (s : State) (k : Nat) (x : Agent) : (s.setAg k x).slew = s.slew := rfl
@[simp] theorem State.setAg_slewFrac (s : State) (k : Nat) (x : Agent) : (s.setAg k x).slewFrac = s.slewFrac := rfl
@[simp] theorem State.setAg_ptpLock (s : State) (k : Nat) (x : Agent) : (s.setAg k x).ptpLock = s.ptpLock := rfl
@[simp] theorem State.setAg_lastTime (s : State) (k : Nat) (x : Agent) : (s.setAg k x).lastTime = s.lastTime := rfl
@[simp] theorem State.setAg_fresh (s : State) (k : Nat) (x : Agent) : (s.setAg k x).fresh = s.fresh := rfl
@[simp] theorem State.setAg_missed (s : State) (k : Nat) (x : Agent) : (s.setAg k x).missed = s.missed := rfl
@[simp] theorem State.setAg_mem (s : State) (k : Nat) (x : Agent) : (s.setAg k x).mem = s.mem := rfl
@[simp] theorem State.setAg_classes (s : State) (k : Nat) (x : Agent) : (s.setAg k x).classes = s.classes := rfl
@[simp] theorem State.setAg_dirs (s : State) (k : Nat) (x : Agent) : (s.setAg k x).dirs = s.dirs := rfl
@[simp] theorem State.setAg_moving (s : State) (k : Nat) (x : Agent) : (s.setAg k x).moving = s.moving := rfl
@[simp] theorem State.setAg_migDone (s : State) (k : Nat) (x : Agent) : (s.setAg k x).migDone = s.migDone := rfl
@[simp] theorem State.setAg_losses (s : State) (k : Nat) (x : Agent) : (s.setAg k x).losses = s.losses := rfl
@[simp] theorem State.setAg_hbm (s : State) (k : Nat) (x : Agent) : (s.setAg k x).hbm = s.hbm := rfl
@[simp] theorem State.setAg_oldHbm (s : State) (k : Nat) (x : Agent) : (s.setAg k x).oldHbm = s.oldHbm := rfl
@[simp] theorem State.setAg_stackUp (s : State) (k : Nat) (x : Agent) : (s.setAg k x).stackUp = s.stackUp := rfl
@[simp] theorem State.setAg_couriers (s : State) (k : Nat) (x : Agent) : (s.setAg k x).couriers = s.couriers := rfl
@[simp] theorem State.setAg_teams (s : State) (k : Nat) (x : Agent) : (s.setAg k x).teams = s.teams := rfl
@[simp] theorem State.setAg_launches (s : State) (k : Nat) (x : Agent) : (s.setAg k x).launches = s.launches := rfl
@[simp] theorem State.setAg_ctxs (s : State) (k : Nat) (x : Agent) : (s.setAg k x).ctxs = s.ctxs := rfl
@[simp] theorem State.setAg_cores (s : State) (k : Nat) (x : Agent) : (s.setAg k x).cores = s.cores := rfl
@[simp] theorem State.setAg_dies (s : State) (k : Nat) (x : Agent) : (s.setAg k x).dies = s.dies := rfl
@[simp] theorem State.setAg_nodes (s : State) (k : Nat) (x : Agent) : (s.setAg k x).nodes = s.nodes := rfl
@[simp] theorem State.setAg_net (s : State) (k : Nat) (x : Agent) : (s.setAg k x).net = s.net := rfl
@[simp] theorem State.setAg_window (s : State) (k : Nat) (x : Agent) : (s.setAg k x).window = s.window := rfl
@[simp] theorem State.setAg_reqs (s : State) (k : Nat) (x : Agent) : (s.setAg k x).reqs = s.reqs := rfl
@[simp] theorem State.setAg_nextReq (s : State) (k : Nat) (x : Agent) : (s.setAg k x).nextReq = s.nextReq := rfl
@[simp] theorem State.setAg_tags (s : State) (k : Nat) (x : Agent) : (s.setAg k x).tags = s.tags := rfl
@[simp] theorem State.setAg_recent (s : State) (k : Nat) (x : Agent) : (s.setAg k x).recent = s.recent := rfl
@[simp] theorem State.setAg_capGen (s : State) (k : Nat) (x : Agent) : (s.setAg k x).capGen = s.capGen := rfl
@[simp] theorem State.setAg_capRec (s : State) (k : Nat) (x : Agent) : (s.setAg k x).capRec = s.capRec := rfl
@[simp] theorem State.setAg_domain (s : State) (k : Nat) (x : Agent) : (s.setAg k x).domain = s.domain := rfl
@[simp] theorem State.setAg_lostPkgs (s : State) (k : Nat) (x : Agent) : (s.setAg k x).lostPkgs = s.lostPkgs := rfl
@[simp] theorem State.setAg_admq (s : State) (k : Nat) (x : Agent) : (s.setAg k x).admq = s.admq := rfl
@[simp] theorem State.setAg_admLast (s : State) (k : Nat) (x : Agent) : (s.setAg k x).admLast = s.admLast := rfl
@[simp] theorem State.setAg_nextLid (s : State) (k : Nat) (x : Agent) : (s.setAg k x).nextLid = s.nextLid := rfl
@[simp] theorem State.setAg_nextOrder (s : State) (k : Nat) (x : Agent) : (s.setAg k x).nextOrder = s.nextOrder := rfl
@[simp] theorem State.setAg_nextTeam (s : State) (k : Nat) (x : Agent) : (s.setAg k x).nextTeam = s.nextTeam := rfl
@[simp] theorem State.setAg_nextMark (s : State) (k : Nat) (x : Agent) : (s.setAg k x).nextMark = s.nextMark := rfl
@[simp] theorem State.setAg_prioWait (s : State) (k : Nat) (x : Agent) : (s.setAg k x).prioWait = s.prioWait := rfl
@[simp] theorem State.setAg_distFree (s : State) (k : Nat) (x : Agent) : (s.setAg k x).distFree = s.distFree := rfl
@[simp] theorem State.setAg_timetable (s : State) (k : Nat) (x : Agent) : (s.setAg k x).timetable = s.timetable := rfl
@[simp] theorem State.setAg_sessions (s : State) (k : Nat) (x : Agent) : (s.setAg k x).sessions = s.sessions := rfl
@[simp] theorem State.setAg_out (s : State) (k : Nat) (x : Agent) : (s.setAg k x).out = s.out := rfl
@[simp] theorem State.setAg_ports (s : State) (k : Nat) (x : Agent) : (s.setAg k x).ports = s.ports := rfl
@[simp] theorem State.setAg_routes (s : State) (k : Nat) (x : Agent) : (s.setAg k x).routes = s.routes := rfl
@[simp] theorem State.setAg_held (s : State) (k : Nat) (x : Agent) : (s.setAg k x).held = s.held := rfl
@[simp] theorem State.setAg_redir (s : State) (k : Nat) (x : Agent) : (s.setAg k x).redir = s.redir := rfl
@[simp] theorem State.setAg_fencing (s : State) (k : Nat) (x : Agent) : (s.setAg k x).fencing = s.fencing := rfl
@[simp] theorem State.setAg_power (s : State) (k : Nat) (x : Agent) : (s.setAg k x).power = s.power := rfl
@[simp] theorem State.setAg_bootSlot (s : State) (k : Nat) (x : Agent) : (s.setAg k x).bootSlot = s.bootSlot := rfl
@[simp] theorem State.setAg_bootFail (s : State) (k : Nat) (x : Agent) : (s.setAg k x).bootFail = s.bootFail := rfl
@[simp] theorem State.setAg_rollback (s : State) (k : Nat) (x : Agent) : (s.setAg k x).rollback = s.rollback := rfl
@[simp] theorem State.setAg_fatal (s : State) (k : Nat) (x : Agent) : (s.setAg k x).fatal = s.fatal := rfl
@[simp] theorem State.setAg_unlatch (s : State) (k : Nat) (x : Agent) : (s.setAg k x).unlatch = s.unlatch := rfl
@[simp] theorem State.setAg_errPend (s : State) (k : Nat) (x : Agent) : (s.setAg k x).errPend = s.errPend := rfl
@[simp] theorem State.setAg_corrTimes (s : State) (k : Nat) (x : Agent) : (s.setAg k x).corrTimes = s.corrTimes := rfl
@[simp] theorem State.setAg_healthSeq (s : State) (k : Nat) (x : Agent) : (s.setAg k x).healthSeq = s.healthSeq := rfl
@[simp] theorem State.setAg_thermtrip (s : State) (k : Nat) (x : Agent) : (s.setAg k x).thermtrip = s.thermtrip := rfl
@[simp] theorem State.setAg_mgmtAddr (s : State) (k : Nat) (x : Agent) : (s.setAg k x).mgmtAddr = s.mgmtAddr := rfl
@[simp] theorem State.setAg_mgmtq (s : State) (k : Nat) (x : Agent) : (s.setAg k x).mgmtq = s.mgmtq := rfl
@[simp] theorem State.setAg_badFrames (s : State) (k : Nat) (x : Agent) : (s.setAg k x).badFrames = s.badFrames := rfl
@[simp] theorem State.setAg_badDhp (s : State) (k : Nat) (x : Agent) : (s.setAg k x).badDhp = s.badDhp := rfl
@[simp] theorem State.setAg_ptpSince (s : State) (k : Nat) (x : Agent) : (s.setAg k x).ptpSince = s.ptpSince := rfl
@[simp] theorem State.setAg_locked (s : State) (k : Nat) (x : Agent) : (s.setAg k x).locked = s.locked := rfl
@[simp] theorem State.setAg_codeTime (s : State) (k : Nat) (x : Agent) : (s.setAg k x).codeTime = s.codeTime := rfl
@[simp] theorem State.setAg_beaconTime (s : State) (k : Nat) (x : Agent) : (s.setAg k x).beaconTime = s.beaconTime := rfl
@[simp] theorem State.setAg_later (s : State) (k : Nat) (x : Agent) : (s.setAg k x).later = s.later := rfl
@[simp] theorem State.setAg_mesh (s : State) (k : Nat) (x : Agent) : (s.setAg k x).mesh = s.mesh := rfl
@[simp] theorem State.setAg_links (s : State) (k : Nat) (x : Agent) : (s.setAg k x).links = s.links := rfl
@[simp] theorem State.setAg_draining (s : State) (k : Nat) (x : Agent) : (s.setAg k x).draining = s.draining := rfl
@[simp] theorem State.setAg_rejoins (s : State) (k : Nat) (x : Agent) : (s.setAg k x).rejoins = s.rejoins := rfl
@[simp] theorem State.setAg_ioImage (s : State) (k : Nat) (x : Agent) : (s.setAg k x).ioImage = s.ioImage := rfl
@[simp] theorem State.setAg_railIx (s : State) (k : Nat) (x : Agent) : (s.setAg k x).railIx = s.railIx := rfl
@[simp] theorem State.setAg_ipv4 (s : State) (k : Nat) (x : Agent) : (s.setAg k x).ipv4 = s.ipv4 := rfl
@[simp] theorem State.setAg_ipv6 (s : State) (k : Nat) (x : Agent) : (s.setAg k x).ipv6 = s.ipv6 := rfl

/-! ## couriers -/

@[simp] theorem State.setCc_cc (s : State) (k : Nat) (x : CCtx) : (s.setCc k x).cc k = x := tget_tput_same _ _ _
theorem State.setCc_cc_other (s : State) {k j : Nat} (x : CCtx) (h : j ≠ k) : (s.setCc k x).cc j = s.cc j := tget_tput_other _ _ h
@[simp] theorem State.setCc_ag (s : State) (k : Nat) (x : CCtx) : (s.setCc k x).ag = s.ag := rfl
@[simp] theorem State.setCc_tm (s : State) (k : Nat) (x : CCtx) : (s.setCc k x).tm = s.tm := rfl
@[simp] theorem State.setCc_la (s : State) (k : Nat) (x : CCtx) : (s.setCc k x).la = s.la := rfl
@[simp] theorem State.setCc_cx (s : State) (k : Nat) (x : CCtx) : (s.setCc k x).cx = s.cx := rfl
@[simp] theorem State.setCc_co (s : State) (k : Nat) (x : CCtx) : (s.setCc k x).co = s.co := rfl
@[simp] theorem State.setCc_di (s : State) (k : Nat) (x : CCtx) : (s.setCc k x).di = s.di := rfl
@[simp] theorem State.setCc_no (s : State) (k : Nat) (x : CCtx) : (s.setCc k x).no = s.no := rfl
@[simp] theorem State.setCc_dr (s : State) (k : Nat) (x : CCtx) : (s.setCc k x).dr = s.dr := rfl
@[simp] theorem State.setCc_cur (s : State) (k : Nat) (x : CCtx) : (s.setCc k x).cur = s.cur := rfl
@[simp] theorem State.setCc_go (s : State) (k : Nat) (x : CCtx) : (s.setCc k x).go = s.go := rfl
@[simp] theorem State.setCc_inbox (s : State) (k : Nat) (x : CCtx) : (s.setCc k x).inbox = s.inbox := rfl
@[simp] theorem State.setCc_todo (s : State) (k : Nat) (x : CCtx) : (s.setCc k x).todo = s.todo := rfl
@[simp] theorem State.setCc_fw (s : State) (k : Nat) (x : CCtx) : (s.setCc k x).fw = s.fw := rfl
@[simp] theorem State.setCc_cycle (s : State) (k : Nat) (x : CCtx) : (s.setCc k x).cycle = s.cycle := rfl
@[simp] theorem State.setCc_ptb (s : State) (k : Nat) (x : CCtx) : (s.setCc k x).ptb = s.ptb := rfl
@[simp] theorem State.setCc_frac (s : State) (k : Nat) (x : CCtx) : (s.setCc k x).frac = s.frac := rfl
@[simp] theorem State.setCc_timeLock (s : State) (k : Nat) (x : CCtx) : (s.setCc k x).timeLock = s.timeLock := rfl
@[simp] theorem State.setCc_slew (s : State) (k : Nat) (x : CCtx) : (s.setCc k x).slew = s.slew := rfl
@[simp] theorem State.setCc_slewFrac (s : State) (k : Nat) (x : CCtx) : (s.setCc k x).slewFrac = s.slewFrac := rfl
@[simp] theorem State.setCc_ptpLock (s : State) (k : Nat) (x : CCtx) : (s.setCc k x).ptpLock = s.ptpLock := rfl
@[simp] theorem State.setCc_lastTime (s : State) (k : Nat) (x : CCtx) : (s.setCc k x).lastTime = s.lastTime := rfl
@[simp] theorem State.setCc_fresh (s : State) (k : Nat) (x : CCtx) : (s.setCc k x).fresh = s.fresh := rfl
@[simp] theorem State.setCc_missed (s : State) (k : Nat) (x : CCtx) : (s.setCc k x).missed = s.missed := rfl
@[simp] theorem State.setCc_mem (s : State) (k : Nat) (x : CCtx) : (s.setCc k x).mem = s.mem := rfl
@[simp] theorem State.setCc_classes (s : State) (k : Nat) (x : CCtx) : (s.setCc k x).classes = s.classes := rfl
@[simp] theorem State.setCc_dirs (s : State) (k : Nat) (x : CCtx) : (s.setCc k x).dirs = s.dirs := rfl
@[simp] theorem State.setCc_moving (s : State) (k : Nat) (x : CCtx) : (s.setCc k x).moving = s.moving := rfl
@[simp] theorem State.setCc_migDone (s : State) (k : Nat) (x : CCtx) : (s.setCc k x).migDone = s.migDone := rfl
@[simp] theorem State.setCc_losses (s : State) (k : Nat) (x : CCtx) : (s.setCc k x).losses = s.losses := rfl
@[simp] theorem State.setCc_hbm (s : State) (k : Nat) (x : CCtx) : (s.setCc k x).hbm = s.hbm := rfl
@[simp] theorem State.setCc_oldHbm (s : State) (k : Nat) (x : CCtx) : (s.setCc k x).oldHbm = s.oldHbm := rfl
@[simp] theorem State.setCc_stackUp (s : State) (k : Nat) (x : CCtx) : (s.setCc k x).stackUp = s.stackUp := rfl
@[simp] theorem State.setCc_agents (s : State) (k : Nat) (x : CCtx) : (s.setCc k x).agents = s.agents := rfl
@[simp] theorem State.setCc_teams (s : State) (k : Nat) (x : CCtx) : (s.setCc k x).teams = s.teams := rfl
@[simp] theorem State.setCc_launches (s : State) (k : Nat) (x : CCtx) : (s.setCc k x).launches = s.launches := rfl
@[simp] theorem State.setCc_ctxs (s : State) (k : Nat) (x : CCtx) : (s.setCc k x).ctxs = s.ctxs := rfl
@[simp] theorem State.setCc_cores (s : State) (k : Nat) (x : CCtx) : (s.setCc k x).cores = s.cores := rfl
@[simp] theorem State.setCc_dies (s : State) (k : Nat) (x : CCtx) : (s.setCc k x).dies = s.dies := rfl
@[simp] theorem State.setCc_nodes (s : State) (k : Nat) (x : CCtx) : (s.setCc k x).nodes = s.nodes := rfl
@[simp] theorem State.setCc_net (s : State) (k : Nat) (x : CCtx) : (s.setCc k x).net = s.net := rfl
@[simp] theorem State.setCc_window (s : State) (k : Nat) (x : CCtx) : (s.setCc k x).window = s.window := rfl
@[simp] theorem State.setCc_reqs (s : State) (k : Nat) (x : CCtx) : (s.setCc k x).reqs = s.reqs := rfl
@[simp] theorem State.setCc_nextReq (s : State) (k : Nat) (x : CCtx) : (s.setCc k x).nextReq = s.nextReq := rfl
@[simp] theorem State.setCc_tags (s : State) (k : Nat) (x : CCtx) : (s.setCc k x).tags = s.tags := rfl
@[simp] theorem State.setCc_recent (s : State) (k : Nat) (x : CCtx) : (s.setCc k x).recent = s.recent := rfl
@[simp] theorem State.setCc_capGen (s : State) (k : Nat) (x : CCtx) : (s.setCc k x).capGen = s.capGen := rfl
@[simp] theorem State.setCc_capRec (s : State) (k : Nat) (x : CCtx) : (s.setCc k x).capRec = s.capRec := rfl
@[simp] theorem State.setCc_domain (s : State) (k : Nat) (x : CCtx) : (s.setCc k x).domain = s.domain := rfl
@[simp] theorem State.setCc_lostPkgs (s : State) (k : Nat) (x : CCtx) : (s.setCc k x).lostPkgs = s.lostPkgs := rfl
@[simp] theorem State.setCc_admq (s : State) (k : Nat) (x : CCtx) : (s.setCc k x).admq = s.admq := rfl
@[simp] theorem State.setCc_admLast (s : State) (k : Nat) (x : CCtx) : (s.setCc k x).admLast = s.admLast := rfl
@[simp] theorem State.setCc_nextLid (s : State) (k : Nat) (x : CCtx) : (s.setCc k x).nextLid = s.nextLid := rfl
@[simp] theorem State.setCc_nextOrder (s : State) (k : Nat) (x : CCtx) : (s.setCc k x).nextOrder = s.nextOrder := rfl
@[simp] theorem State.setCc_nextTeam (s : State) (k : Nat) (x : CCtx) : (s.setCc k x).nextTeam = s.nextTeam := rfl
@[simp] theorem State.setCc_nextMark (s : State) (k : Nat) (x : CCtx) : (s.setCc k x).nextMark = s.nextMark := rfl
@[simp] theorem State.setCc_prioWait (s : State) (k : Nat) (x : CCtx) : (s.setCc k x).prioWait = s.prioWait := rfl
@[simp] theorem State.setCc_distFree (s : State) (k : Nat) (x : CCtx) : (s.setCc k x).distFree = s.distFree := rfl
@[simp] theorem State.setCc_timetable (s : State) (k : Nat) (x : CCtx) : (s.setCc k x).timetable = s.timetable := rfl
@[simp] theorem State.setCc_sessions (s : State) (k : Nat) (x : CCtx) : (s.setCc k x).sessions = s.sessions := rfl
@[simp] theorem State.setCc_out (s : State) (k : Nat) (x : CCtx) : (s.setCc k x).out = s.out := rfl
@[simp] theorem State.setCc_ports (s : State) (k : Nat) (x : CCtx) : (s.setCc k x).ports = s.ports := rfl
@[simp] theorem State.setCc_routes (s : State) (k : Nat) (x : CCtx) : (s.setCc k x).routes = s.routes := rfl
@[simp] theorem State.setCc_held (s : State) (k : Nat) (x : CCtx) : (s.setCc k x).held = s.held := rfl
@[simp] theorem State.setCc_redir (s : State) (k : Nat) (x : CCtx) : (s.setCc k x).redir = s.redir := rfl
@[simp] theorem State.setCc_fencing (s : State) (k : Nat) (x : CCtx) : (s.setCc k x).fencing = s.fencing := rfl
@[simp] theorem State.setCc_power (s : State) (k : Nat) (x : CCtx) : (s.setCc k x).power = s.power := rfl
@[simp] theorem State.setCc_bootSlot (s : State) (k : Nat) (x : CCtx) : (s.setCc k x).bootSlot = s.bootSlot := rfl
@[simp] theorem State.setCc_bootFail (s : State) (k : Nat) (x : CCtx) : (s.setCc k x).bootFail = s.bootFail := rfl
@[simp] theorem State.setCc_rollback (s : State) (k : Nat) (x : CCtx) : (s.setCc k x).rollback = s.rollback := rfl
@[simp] theorem State.setCc_fatal (s : State) (k : Nat) (x : CCtx) : (s.setCc k x).fatal = s.fatal := rfl
@[simp] theorem State.setCc_unlatch (s : State) (k : Nat) (x : CCtx) : (s.setCc k x).unlatch = s.unlatch := rfl
@[simp] theorem State.setCc_errPend (s : State) (k : Nat) (x : CCtx) : (s.setCc k x).errPend = s.errPend := rfl
@[simp] theorem State.setCc_corrTimes (s : State) (k : Nat) (x : CCtx) : (s.setCc k x).corrTimes = s.corrTimes := rfl
@[simp] theorem State.setCc_healthSeq (s : State) (k : Nat) (x : CCtx) : (s.setCc k x).healthSeq = s.healthSeq := rfl
@[simp] theorem State.setCc_thermtrip (s : State) (k : Nat) (x : CCtx) : (s.setCc k x).thermtrip = s.thermtrip := rfl
@[simp] theorem State.setCc_mgmtAddr (s : State) (k : Nat) (x : CCtx) : (s.setCc k x).mgmtAddr = s.mgmtAddr := rfl
@[simp] theorem State.setCc_mgmtq (s : State) (k : Nat) (x : CCtx) : (s.setCc k x).mgmtq = s.mgmtq := rfl
@[simp] theorem State.setCc_badFrames (s : State) (k : Nat) (x : CCtx) : (s.setCc k x).badFrames = s.badFrames := rfl
@[simp] theorem State.setCc_badDhp (s : State) (k : Nat) (x : CCtx) : (s.setCc k x).badDhp = s.badDhp := rfl
@[simp] theorem State.setCc_ptpSince (s : State) (k : Nat) (x : CCtx) : (s.setCc k x).ptpSince = s.ptpSince := rfl
@[simp] theorem State.setCc_locked (s : State) (k : Nat) (x : CCtx) : (s.setCc k x).locked = s.locked := rfl
@[simp] theorem State.setCc_codeTime (s : State) (k : Nat) (x : CCtx) : (s.setCc k x).codeTime = s.codeTime := rfl
@[simp] theorem State.setCc_beaconTime (s : State) (k : Nat) (x : CCtx) : (s.setCc k x).beaconTime = s.beaconTime := rfl
@[simp] theorem State.setCc_later (s : State) (k : Nat) (x : CCtx) : (s.setCc k x).later = s.later := rfl
@[simp] theorem State.setCc_mesh (s : State) (k : Nat) (x : CCtx) : (s.setCc k x).mesh = s.mesh := rfl
@[simp] theorem State.setCc_links (s : State) (k : Nat) (x : CCtx) : (s.setCc k x).links = s.links := rfl
@[simp] theorem State.setCc_draining (s : State) (k : Nat) (x : CCtx) : (s.setCc k x).draining = s.draining := rfl
@[simp] theorem State.setCc_rejoins (s : State) (k : Nat) (x : CCtx) : (s.setCc k x).rejoins = s.rejoins := rfl
@[simp] theorem State.setCc_ioImage (s : State) (k : Nat) (x : CCtx) : (s.setCc k x).ioImage = s.ioImage := rfl
@[simp] theorem State.setCc_railIx (s : State) (k : Nat) (x : CCtx) : (s.setCc k x).railIx = s.railIx := rfl
@[simp] theorem State.setCc_ipv4 (s : State) (k : Nat) (x : CCtx) : (s.setCc k x).ipv4 = s.ipv4 := rfl
@[simp] theorem State.setCc_ipv6 (s : State) (k : Nat) (x : CCtx) : (s.setCc k x).ipv6 = s.ipv6 := rfl

/-! ## teams -/

@[simp] theorem State.setTm_tm (s : State) (k : Nat) (x : Team) : (s.setTm k x).tm k = x := tget_tput_same _ _ _
theorem State.setTm_tm_other (s : State) {k j : Nat} (x : Team) (h : j ≠ k) : (s.setTm k x).tm j = s.tm j := tget_tput_other _ _ h
@[simp] theorem State.setTm_ag (s : State) (k : Nat) (x : Team) : (s.setTm k x).ag = s.ag := rfl
@[simp] theorem State.setTm_cc (s : State) (k : Nat) (x : Team) : (s.setTm k x).cc = s.cc := rfl
@[simp] theorem State.setTm_la (s : State) (k : Nat) (x : Team) : (s.setTm k x).la = s.la := rfl
@[simp] theorem State.setTm_cx (s : State) (k : Nat) (x : Team) : (s.setTm k x).cx = s.cx := rfl
@[simp] theorem State.setTm_co (s : State) (k : Nat) (x : Team) : (s.setTm k x).co = s.co := rfl
@[simp] theorem State.setTm_di (s : State) (k : Nat) (x : Team) : (s.setTm k x).di = s.di := rfl
@[simp] theorem State.setTm_no (s : State) (k : Nat) (x : Team) : (s.setTm k x).no = s.no := rfl
@[simp] theorem State.setTm_dr (s : State) (k : Nat) (x : Team) : (s.setTm k x).dr = s.dr := rfl
@[simp] theorem State.setTm_cur (s : State) (k : Nat) (x : Team) : (s.setTm k x).cur = s.cur := rfl
@[simp] theorem State.setTm_go (s : State) (k : Nat) (x : Team) : (s.setTm k x).go = s.go := rfl
@[simp] theorem State.setTm_inbox (s : State) (k : Nat) (x : Team) : (s.setTm k x).inbox = s.inbox := rfl
@[simp] theorem State.setTm_todo (s : State) (k : Nat) (x : Team) : (s.setTm k x).todo = s.todo := rfl
@[simp] theorem State.setTm_fw (s : State) (k : Nat) (x : Team) : (s.setTm k x).fw = s.fw := rfl
@[simp] theorem State.setTm_cycle (s : State) (k : Nat) (x : Team) : (s.setTm k x).cycle = s.cycle := rfl
@[simp] theorem State.setTm_ptb (s : State) (k : Nat) (x : Team) : (s.setTm k x).ptb = s.ptb := rfl
@[simp] theorem State.setTm_frac (s : State) (k : Nat) (x : Team) : (s.setTm k x).frac = s.frac := rfl
@[simp] theorem State.setTm_timeLock (s : State) (k : Nat) (x : Team) : (s.setTm k x).timeLock = s.timeLock := rfl
@[simp] theorem State.setTm_slew (s : State) (k : Nat) (x : Team) : (s.setTm k x).slew = s.slew := rfl
@[simp] theorem State.setTm_slewFrac (s : State) (k : Nat) (x : Team) : (s.setTm k x).slewFrac = s.slewFrac := rfl
@[simp] theorem State.setTm_ptpLock (s : State) (k : Nat) (x : Team) : (s.setTm k x).ptpLock = s.ptpLock := rfl
@[simp] theorem State.setTm_lastTime (s : State) (k : Nat) (x : Team) : (s.setTm k x).lastTime = s.lastTime := rfl
@[simp] theorem State.setTm_fresh (s : State) (k : Nat) (x : Team) : (s.setTm k x).fresh = s.fresh := rfl
@[simp] theorem State.setTm_missed (s : State) (k : Nat) (x : Team) : (s.setTm k x).missed = s.missed := rfl
@[simp] theorem State.setTm_mem (s : State) (k : Nat) (x : Team) : (s.setTm k x).mem = s.mem := rfl
@[simp] theorem State.setTm_classes (s : State) (k : Nat) (x : Team) : (s.setTm k x).classes = s.classes := rfl
@[simp] theorem State.setTm_dirs (s : State) (k : Nat) (x : Team) : (s.setTm k x).dirs = s.dirs := rfl
@[simp] theorem State.setTm_moving (s : State) (k : Nat) (x : Team) : (s.setTm k x).moving = s.moving := rfl
@[simp] theorem State.setTm_migDone (s : State) (k : Nat) (x : Team) : (s.setTm k x).migDone = s.migDone := rfl
@[simp] theorem State.setTm_losses (s : State) (k : Nat) (x : Team) : (s.setTm k x).losses = s.losses := rfl
@[simp] theorem State.setTm_hbm (s : State) (k : Nat) (x : Team) : (s.setTm k x).hbm = s.hbm := rfl
@[simp] theorem State.setTm_oldHbm (s : State) (k : Nat) (x : Team) : (s.setTm k x).oldHbm = s.oldHbm := rfl
@[simp] theorem State.setTm_stackUp (s : State) (k : Nat) (x : Team) : (s.setTm k x).stackUp = s.stackUp := rfl
@[simp] theorem State.setTm_agents (s : State) (k : Nat) (x : Team) : (s.setTm k x).agents = s.agents := rfl
@[simp] theorem State.setTm_couriers (s : State) (k : Nat) (x : Team) : (s.setTm k x).couriers = s.couriers := rfl
@[simp] theorem State.setTm_launches (s : State) (k : Nat) (x : Team) : (s.setTm k x).launches = s.launches := rfl
@[simp] theorem State.setTm_ctxs (s : State) (k : Nat) (x : Team) : (s.setTm k x).ctxs = s.ctxs := rfl
@[simp] theorem State.setTm_cores (s : State) (k : Nat) (x : Team) : (s.setTm k x).cores = s.cores := rfl
@[simp] theorem State.setTm_dies (s : State) (k : Nat) (x : Team) : (s.setTm k x).dies = s.dies := rfl
@[simp] theorem State.setTm_nodes (s : State) (k : Nat) (x : Team) : (s.setTm k x).nodes = s.nodes := rfl
@[simp] theorem State.setTm_net (s : State) (k : Nat) (x : Team) : (s.setTm k x).net = s.net := rfl
@[simp] theorem State.setTm_window (s : State) (k : Nat) (x : Team) : (s.setTm k x).window = s.window := rfl
@[simp] theorem State.setTm_reqs (s : State) (k : Nat) (x : Team) : (s.setTm k x).reqs = s.reqs := rfl
@[simp] theorem State.setTm_nextReq (s : State) (k : Nat) (x : Team) : (s.setTm k x).nextReq = s.nextReq := rfl
@[simp] theorem State.setTm_tags (s : State) (k : Nat) (x : Team) : (s.setTm k x).tags = s.tags := rfl
@[simp] theorem State.setTm_recent (s : State) (k : Nat) (x : Team) : (s.setTm k x).recent = s.recent := rfl
@[simp] theorem State.setTm_capGen (s : State) (k : Nat) (x : Team) : (s.setTm k x).capGen = s.capGen := rfl
@[simp] theorem State.setTm_capRec (s : State) (k : Nat) (x : Team) : (s.setTm k x).capRec = s.capRec := rfl
@[simp] theorem State.setTm_domain (s : State) (k : Nat) (x : Team) : (s.setTm k x).domain = s.domain := rfl
@[simp] theorem State.setTm_lostPkgs (s : State) (k : Nat) (x : Team) : (s.setTm k x).lostPkgs = s.lostPkgs := rfl
@[simp] theorem State.setTm_admq (s : State) (k : Nat) (x : Team) : (s.setTm k x).admq = s.admq := rfl
@[simp] theorem State.setTm_admLast (s : State) (k : Nat) (x : Team) : (s.setTm k x).admLast = s.admLast := rfl
@[simp] theorem State.setTm_nextLid (s : State) (k : Nat) (x : Team) : (s.setTm k x).nextLid = s.nextLid := rfl
@[simp] theorem State.setTm_nextOrder (s : State) (k : Nat) (x : Team) : (s.setTm k x).nextOrder = s.nextOrder := rfl
@[simp] theorem State.setTm_nextTeam (s : State) (k : Nat) (x : Team) : (s.setTm k x).nextTeam = s.nextTeam := rfl
@[simp] theorem State.setTm_nextMark (s : State) (k : Nat) (x : Team) : (s.setTm k x).nextMark = s.nextMark := rfl
@[simp] theorem State.setTm_prioWait (s : State) (k : Nat) (x : Team) : (s.setTm k x).prioWait = s.prioWait := rfl
@[simp] theorem State.setTm_distFree (s : State) (k : Nat) (x : Team) : (s.setTm k x).distFree = s.distFree := rfl
@[simp] theorem State.setTm_timetable (s : State) (k : Nat) (x : Team) : (s.setTm k x).timetable = s.timetable := rfl
@[simp] theorem State.setTm_sessions (s : State) (k : Nat) (x : Team) : (s.setTm k x).sessions = s.sessions := rfl
@[simp] theorem State.setTm_out (s : State) (k : Nat) (x : Team) : (s.setTm k x).out = s.out := rfl
@[simp] theorem State.setTm_ports (s : State) (k : Nat) (x : Team) : (s.setTm k x).ports = s.ports := rfl
@[simp] theorem State.setTm_routes (s : State) (k : Nat) (x : Team) : (s.setTm k x).routes = s.routes := rfl
@[simp] theorem State.setTm_held (s : State) (k : Nat) (x : Team) : (s.setTm k x).held = s.held := rfl
@[simp] theorem State.setTm_redir (s : State) (k : Nat) (x : Team) : (s.setTm k x).redir = s.redir := rfl
@[simp] theorem State.setTm_fencing (s : State) (k : Nat) (x : Team) : (s.setTm k x).fencing = s.fencing := rfl
@[simp] theorem State.setTm_power (s : State) (k : Nat) (x : Team) : (s.setTm k x).power = s.power := rfl
@[simp] theorem State.setTm_bootSlot (s : State) (k : Nat) (x : Team) : (s.setTm k x).bootSlot = s.bootSlot := rfl
@[simp] theorem State.setTm_bootFail (s : State) (k : Nat) (x : Team) : (s.setTm k x).bootFail = s.bootFail := rfl
@[simp] theorem State.setTm_rollback (s : State) (k : Nat) (x : Team) : (s.setTm k x).rollback = s.rollback := rfl
@[simp] theorem State.setTm_fatal (s : State) (k : Nat) (x : Team) : (s.setTm k x).fatal = s.fatal := rfl
@[simp] theorem State.setTm_unlatch (s : State) (k : Nat) (x : Team) : (s.setTm k x).unlatch = s.unlatch := rfl
@[simp] theorem State.setTm_errPend (s : State) (k : Nat) (x : Team) : (s.setTm k x).errPend = s.errPend := rfl
@[simp] theorem State.setTm_corrTimes (s : State) (k : Nat) (x : Team) : (s.setTm k x).corrTimes = s.corrTimes := rfl
@[simp] theorem State.setTm_healthSeq (s : State) (k : Nat) (x : Team) : (s.setTm k x).healthSeq = s.healthSeq := rfl
@[simp] theorem State.setTm_thermtrip (s : State) (k : Nat) (x : Team) : (s.setTm k x).thermtrip = s.thermtrip := rfl
@[simp] theorem State.setTm_mgmtAddr (s : State) (k : Nat) (x : Team) : (s.setTm k x).mgmtAddr = s.mgmtAddr := rfl
@[simp] theorem State.setTm_mgmtq (s : State) (k : Nat) (x : Team) : (s.setTm k x).mgmtq = s.mgmtq := rfl
@[simp] theorem State.setTm_badFrames (s : State) (k : Nat) (x : Team) : (s.setTm k x).badFrames = s.badFrames := rfl
@[simp] theorem State.setTm_badDhp (s : State) (k : Nat) (x : Team) : (s.setTm k x).badDhp = s.badDhp := rfl
@[simp] theorem State.setTm_ptpSince (s : State) (k : Nat) (x : Team) : (s.setTm k x).ptpSince = s.ptpSince := rfl
@[simp] theorem State.setTm_locked (s : State) (k : Nat) (x : Team) : (s.setTm k x).locked = s.locked := rfl
@[simp] theorem State.setTm_codeTime (s : State) (k : Nat) (x : Team) : (s.setTm k x).codeTime = s.codeTime := rfl
@[simp] theorem State.setTm_beaconTime (s : State) (k : Nat) (x : Team) : (s.setTm k x).beaconTime = s.beaconTime := rfl
@[simp] theorem State.setTm_later (s : State) (k : Nat) (x : Team) : (s.setTm k x).later = s.later := rfl
@[simp] theorem State.setTm_mesh (s : State) (k : Nat) (x : Team) : (s.setTm k x).mesh = s.mesh := rfl
@[simp] theorem State.setTm_links (s : State) (k : Nat) (x : Team) : (s.setTm k x).links = s.links := rfl
@[simp] theorem State.setTm_draining (s : State) (k : Nat) (x : Team) : (s.setTm k x).draining = s.draining := rfl
@[simp] theorem State.setTm_rejoins (s : State) (k : Nat) (x : Team) : (s.setTm k x).rejoins = s.rejoins := rfl
@[simp] theorem State.setTm_ioImage (s : State) (k : Nat) (x : Team) : (s.setTm k x).ioImage = s.ioImage := rfl
@[simp] theorem State.setTm_railIx (s : State) (k : Nat) (x : Team) : (s.setTm k x).railIx = s.railIx := rfl
@[simp] theorem State.setTm_ipv4 (s : State) (k : Nat) (x : Team) : (s.setTm k x).ipv4 = s.ipv4 := rfl
@[simp] theorem State.setTm_ipv6 (s : State) (k : Nat) (x : Team) : (s.setTm k x).ipv6 = s.ipv6 := rfl

/-! ## launches -/

@[simp] theorem State.setLa_la (s : State) (k : Nat) (x : Launch) : (s.setLa k x).la k = x := tget_tput_same _ _ _
theorem State.setLa_la_other (s : State) {k j : Nat} (x : Launch) (h : j ≠ k) : (s.setLa k x).la j = s.la j := tget_tput_other _ _ h
@[simp] theorem State.setLa_ag (s : State) (k : Nat) (x : Launch) : (s.setLa k x).ag = s.ag := rfl
@[simp] theorem State.setLa_cc (s : State) (k : Nat) (x : Launch) : (s.setLa k x).cc = s.cc := rfl
@[simp] theorem State.setLa_tm (s : State) (k : Nat) (x : Launch) : (s.setLa k x).tm = s.tm := rfl
@[simp] theorem State.setLa_cx (s : State) (k : Nat) (x : Launch) : (s.setLa k x).cx = s.cx := rfl
@[simp] theorem State.setLa_co (s : State) (k : Nat) (x : Launch) : (s.setLa k x).co = s.co := rfl
@[simp] theorem State.setLa_di (s : State) (k : Nat) (x : Launch) : (s.setLa k x).di = s.di := rfl
@[simp] theorem State.setLa_no (s : State) (k : Nat) (x : Launch) : (s.setLa k x).no = s.no := rfl
@[simp] theorem State.setLa_dr (s : State) (k : Nat) (x : Launch) : (s.setLa k x).dr = s.dr := rfl
@[simp] theorem State.setLa_cur (s : State) (k : Nat) (x : Launch) : (s.setLa k x).cur = s.cur := rfl
@[simp] theorem State.setLa_go (s : State) (k : Nat) (x : Launch) : (s.setLa k x).go = s.go := rfl
@[simp] theorem State.setLa_inbox (s : State) (k : Nat) (x : Launch) : (s.setLa k x).inbox = s.inbox := rfl
@[simp] theorem State.setLa_todo (s : State) (k : Nat) (x : Launch) : (s.setLa k x).todo = s.todo := rfl
@[simp] theorem State.setLa_fw (s : State) (k : Nat) (x : Launch) : (s.setLa k x).fw = s.fw := rfl
@[simp] theorem State.setLa_cycle (s : State) (k : Nat) (x : Launch) : (s.setLa k x).cycle = s.cycle := rfl
@[simp] theorem State.setLa_ptb (s : State) (k : Nat) (x : Launch) : (s.setLa k x).ptb = s.ptb := rfl
@[simp] theorem State.setLa_frac (s : State) (k : Nat) (x : Launch) : (s.setLa k x).frac = s.frac := rfl
@[simp] theorem State.setLa_timeLock (s : State) (k : Nat) (x : Launch) : (s.setLa k x).timeLock = s.timeLock := rfl
@[simp] theorem State.setLa_slew (s : State) (k : Nat) (x : Launch) : (s.setLa k x).slew = s.slew := rfl
@[simp] theorem State.setLa_slewFrac (s : State) (k : Nat) (x : Launch) : (s.setLa k x).slewFrac = s.slewFrac := rfl
@[simp] theorem State.setLa_ptpLock (s : State) (k : Nat) (x : Launch) : (s.setLa k x).ptpLock = s.ptpLock := rfl
@[simp] theorem State.setLa_lastTime (s : State) (k : Nat) (x : Launch) : (s.setLa k x).lastTime = s.lastTime := rfl
@[simp] theorem State.setLa_fresh (s : State) (k : Nat) (x : Launch) : (s.setLa k x).fresh = s.fresh := rfl
@[simp] theorem State.setLa_missed (s : State) (k : Nat) (x : Launch) : (s.setLa k x).missed = s.missed := rfl
@[simp] theorem State.setLa_mem (s : State) (k : Nat) (x : Launch) : (s.setLa k x).mem = s.mem := rfl
@[simp] theorem State.setLa_classes (s : State) (k : Nat) (x : Launch) : (s.setLa k x).classes = s.classes := rfl
@[simp] theorem State.setLa_dirs (s : State) (k : Nat) (x : Launch) : (s.setLa k x).dirs = s.dirs := rfl
@[simp] theorem State.setLa_moving (s : State) (k : Nat) (x : Launch) : (s.setLa k x).moving = s.moving := rfl
@[simp] theorem State.setLa_migDone (s : State) (k : Nat) (x : Launch) : (s.setLa k x).migDone = s.migDone := rfl
@[simp] theorem State.setLa_losses (s : State) (k : Nat) (x : Launch) : (s.setLa k x).losses = s.losses := rfl
@[simp] theorem State.setLa_hbm (s : State) (k : Nat) (x : Launch) : (s.setLa k x).hbm = s.hbm := rfl
@[simp] theorem State.setLa_oldHbm (s : State) (k : Nat) (x : Launch) : (s.setLa k x).oldHbm = s.oldHbm := rfl
@[simp] theorem State.setLa_stackUp (s : State) (k : Nat) (x : Launch) : (s.setLa k x).stackUp = s.stackUp := rfl
@[simp] theorem State.setLa_agents (s : State) (k : Nat) (x : Launch) : (s.setLa k x).agents = s.agents := rfl
@[simp] theorem State.setLa_couriers (s : State) (k : Nat) (x : Launch) : (s.setLa k x).couriers = s.couriers := rfl
@[simp] theorem State.setLa_teams (s : State) (k : Nat) (x : Launch) : (s.setLa k x).teams = s.teams := rfl
@[simp] theorem State.setLa_ctxs (s : State) (k : Nat) (x : Launch) : (s.setLa k x).ctxs = s.ctxs := rfl
@[simp] theorem State.setLa_cores (s : State) (k : Nat) (x : Launch) : (s.setLa k x).cores = s.cores := rfl
@[simp] theorem State.setLa_dies (s : State) (k : Nat) (x : Launch) : (s.setLa k x).dies = s.dies := rfl
@[simp] theorem State.setLa_nodes (s : State) (k : Nat) (x : Launch) : (s.setLa k x).nodes = s.nodes := rfl
@[simp] theorem State.setLa_net (s : State) (k : Nat) (x : Launch) : (s.setLa k x).net = s.net := rfl
@[simp] theorem State.setLa_window (s : State) (k : Nat) (x : Launch) : (s.setLa k x).window = s.window := rfl
@[simp] theorem State.setLa_reqs (s : State) (k : Nat) (x : Launch) : (s.setLa k x).reqs = s.reqs := rfl
@[simp] theorem State.setLa_nextReq (s : State) (k : Nat) (x : Launch) : (s.setLa k x).nextReq = s.nextReq := rfl
@[simp] theorem State.setLa_tags (s : State) (k : Nat) (x : Launch) : (s.setLa k x).tags = s.tags := rfl
@[simp] theorem State.setLa_recent (s : State) (k : Nat) (x : Launch) : (s.setLa k x).recent = s.recent := rfl
@[simp] theorem State.setLa_capGen (s : State) (k : Nat) (x : Launch) : (s.setLa k x).capGen = s.capGen := rfl
@[simp] theorem State.setLa_capRec (s : State) (k : Nat) (x : Launch) : (s.setLa k x).capRec = s.capRec := rfl
@[simp] theorem State.setLa_domain (s : State) (k : Nat) (x : Launch) : (s.setLa k x).domain = s.domain := rfl
@[simp] theorem State.setLa_lostPkgs (s : State) (k : Nat) (x : Launch) : (s.setLa k x).lostPkgs = s.lostPkgs := rfl
@[simp] theorem State.setLa_admq (s : State) (k : Nat) (x : Launch) : (s.setLa k x).admq = s.admq := rfl
@[simp] theorem State.setLa_admLast (s : State) (k : Nat) (x : Launch) : (s.setLa k x).admLast = s.admLast := rfl
@[simp] theorem State.setLa_nextLid (s : State) (k : Nat) (x : Launch) : (s.setLa k x).nextLid = s.nextLid := rfl
@[simp] theorem State.setLa_nextOrder (s : State) (k : Nat) (x : Launch) : (s.setLa k x).nextOrder = s.nextOrder := rfl
@[simp] theorem State.setLa_nextTeam (s : State) (k : Nat) (x : Launch) : (s.setLa k x).nextTeam = s.nextTeam := rfl
@[simp] theorem State.setLa_nextMark (s : State) (k : Nat) (x : Launch) : (s.setLa k x).nextMark = s.nextMark := rfl
@[simp] theorem State.setLa_prioWait (s : State) (k : Nat) (x : Launch) : (s.setLa k x).prioWait = s.prioWait := rfl
@[simp] theorem State.setLa_distFree (s : State) (k : Nat) (x : Launch) : (s.setLa k x).distFree = s.distFree := rfl
@[simp] theorem State.setLa_timetable (s : State) (k : Nat) (x : Launch) : (s.setLa k x).timetable = s.timetable := rfl
@[simp] theorem State.setLa_sessions (s : State) (k : Nat) (x : Launch) : (s.setLa k x).sessions = s.sessions := rfl
@[simp] theorem State.setLa_out (s : State) (k : Nat) (x : Launch) : (s.setLa k x).out = s.out := rfl
@[simp] theorem State.setLa_ports (s : State) (k : Nat) (x : Launch) : (s.setLa k x).ports = s.ports := rfl
@[simp] theorem State.setLa_routes (s : State) (k : Nat) (x : Launch) : (s.setLa k x).routes = s.routes := rfl
@[simp] theorem State.setLa_held (s : State) (k : Nat) (x : Launch) : (s.setLa k x).held = s.held := rfl
@[simp] theorem State.setLa_redir (s : State) (k : Nat) (x : Launch) : (s.setLa k x).redir = s.redir := rfl
@[simp] theorem State.setLa_fencing (s : State) (k : Nat) (x : Launch) : (s.setLa k x).fencing = s.fencing := rfl
@[simp] theorem State.setLa_power (s : State) (k : Nat) (x : Launch) : (s.setLa k x).power = s.power := rfl
@[simp] theorem State.setLa_bootSlot (s : State) (k : Nat) (x : Launch) : (s.setLa k x).bootSlot = s.bootSlot := rfl
@[simp] theorem State.setLa_bootFail (s : State) (k : Nat) (x : Launch) : (s.setLa k x).bootFail = s.bootFail := rfl
@[simp] theorem State.setLa_rollback (s : State) (k : Nat) (x : Launch) : (s.setLa k x).rollback = s.rollback := rfl
@[simp] theorem State.setLa_fatal (s : State) (k : Nat) (x : Launch) : (s.setLa k x).fatal = s.fatal := rfl
@[simp] theorem State.setLa_unlatch (s : State) (k : Nat) (x : Launch) : (s.setLa k x).unlatch = s.unlatch := rfl
@[simp] theorem State.setLa_errPend (s : State) (k : Nat) (x : Launch) : (s.setLa k x).errPend = s.errPend := rfl
@[simp] theorem State.setLa_corrTimes (s : State) (k : Nat) (x : Launch) : (s.setLa k x).corrTimes = s.corrTimes := rfl
@[simp] theorem State.setLa_healthSeq (s : State) (k : Nat) (x : Launch) : (s.setLa k x).healthSeq = s.healthSeq := rfl
@[simp] theorem State.setLa_thermtrip (s : State) (k : Nat) (x : Launch) : (s.setLa k x).thermtrip = s.thermtrip := rfl
@[simp] theorem State.setLa_mgmtAddr (s : State) (k : Nat) (x : Launch) : (s.setLa k x).mgmtAddr = s.mgmtAddr := rfl
@[simp] theorem State.setLa_mgmtq (s : State) (k : Nat) (x : Launch) : (s.setLa k x).mgmtq = s.mgmtq := rfl
@[simp] theorem State.setLa_badFrames (s : State) (k : Nat) (x : Launch) : (s.setLa k x).badFrames = s.badFrames := rfl
@[simp] theorem State.setLa_badDhp (s : State) (k : Nat) (x : Launch) : (s.setLa k x).badDhp = s.badDhp := rfl
@[simp] theorem State.setLa_ptpSince (s : State) (k : Nat) (x : Launch) : (s.setLa k x).ptpSince = s.ptpSince := rfl
@[simp] theorem State.setLa_locked (s : State) (k : Nat) (x : Launch) : (s.setLa k x).locked = s.locked := rfl
@[simp] theorem State.setLa_codeTime (s : State) (k : Nat) (x : Launch) : (s.setLa k x).codeTime = s.codeTime := rfl
@[simp] theorem State.setLa_beaconTime (s : State) (k : Nat) (x : Launch) : (s.setLa k x).beaconTime = s.beaconTime := rfl
@[simp] theorem State.setLa_later (s : State) (k : Nat) (x : Launch) : (s.setLa k x).later = s.later := rfl
@[simp] theorem State.setLa_mesh (s : State) (k : Nat) (x : Launch) : (s.setLa k x).mesh = s.mesh := rfl
@[simp] theorem State.setLa_links (s : State) (k : Nat) (x : Launch) : (s.setLa k x).links = s.links := rfl
@[simp] theorem State.setLa_draining (s : State) (k : Nat) (x : Launch) : (s.setLa k x).draining = s.draining := rfl
@[simp] theorem State.setLa_rejoins (s : State) (k : Nat) (x : Launch) : (s.setLa k x).rejoins = s.rejoins := rfl
@[simp] theorem State.setLa_ioImage (s : State) (k : Nat) (x : Launch) : (s.setLa k x).ioImage = s.ioImage := rfl
@[simp] theorem State.setLa_railIx (s : State) (k : Nat) (x : Launch) : (s.setLa k x).railIx = s.railIx := rfl
@[simp] theorem State.setLa_ipv4 (s : State) (k : Nat) (x : Launch) : (s.setLa k x).ipv4 = s.ipv4 := rfl
@[simp] theorem State.setLa_ipv6 (s : State) (k : Nat) (x : Launch) : (s.setLa k x).ipv6 = s.ipv6 := rfl

/-! ## ctxs -/

@[simp] theorem State.setCx_cx (s : State) (k : Nat) (x : Ctx) : (s.setCx k x).cx k = x := tget_tput_same _ _ _
theorem State.setCx_cx_other (s : State) {k j : Nat} (x : Ctx) (h : j ≠ k) : (s.setCx k x).cx j = s.cx j := tget_tput_other _ _ h
@[simp] theorem State.setCx_ag (s : State) (k : Nat) (x : Ctx) : (s.setCx k x).ag = s.ag := rfl
@[simp] theorem State.setCx_cc (s : State) (k : Nat) (x : Ctx) : (s.setCx k x).cc = s.cc := rfl
@[simp] theorem State.setCx_tm (s : State) (k : Nat) (x : Ctx) : (s.setCx k x).tm = s.tm := rfl
@[simp] theorem State.setCx_la (s : State) (k : Nat) (x : Ctx) : (s.setCx k x).la = s.la := rfl
@[simp] theorem State.setCx_co (s : State) (k : Nat) (x : Ctx) : (s.setCx k x).co = s.co := rfl
@[simp] theorem State.setCx_di (s : State) (k : Nat) (x : Ctx) : (s.setCx k x).di = s.di := rfl
@[simp] theorem State.setCx_no (s : State) (k : Nat) (x : Ctx) : (s.setCx k x).no = s.no := rfl
@[simp] theorem State.setCx_dr (s : State) (k : Nat) (x : Ctx) : (s.setCx k x).dr = s.dr := rfl
@[simp] theorem State.setCx_cur (s : State) (k : Nat) (x : Ctx) : (s.setCx k x).cur = s.cur := rfl
@[simp] theorem State.setCx_go (s : State) (k : Nat) (x : Ctx) : (s.setCx k x).go = s.go := rfl
@[simp] theorem State.setCx_inbox (s : State) (k : Nat) (x : Ctx) : (s.setCx k x).inbox = s.inbox := rfl
@[simp] theorem State.setCx_todo (s : State) (k : Nat) (x : Ctx) : (s.setCx k x).todo = s.todo := rfl
@[simp] theorem State.setCx_fw (s : State) (k : Nat) (x : Ctx) : (s.setCx k x).fw = s.fw := rfl
@[simp] theorem State.setCx_cycle (s : State) (k : Nat) (x : Ctx) : (s.setCx k x).cycle = s.cycle := rfl
@[simp] theorem State.setCx_ptb (s : State) (k : Nat) (x : Ctx) : (s.setCx k x).ptb = s.ptb := rfl
@[simp] theorem State.setCx_frac (s : State) (k : Nat) (x : Ctx) : (s.setCx k x).frac = s.frac := rfl
@[simp] theorem State.setCx_timeLock (s : State) (k : Nat) (x : Ctx) : (s.setCx k x).timeLock = s.timeLock := rfl
@[simp] theorem State.setCx_slew (s : State) (k : Nat) (x : Ctx) : (s.setCx k x).slew = s.slew := rfl
@[simp] theorem State.setCx_slewFrac (s : State) (k : Nat) (x : Ctx) : (s.setCx k x).slewFrac = s.slewFrac := rfl
@[simp] theorem State.setCx_ptpLock (s : State) (k : Nat) (x : Ctx) : (s.setCx k x).ptpLock = s.ptpLock := rfl
@[simp] theorem State.setCx_lastTime (s : State) (k : Nat) (x : Ctx) : (s.setCx k x).lastTime = s.lastTime := rfl
@[simp] theorem State.setCx_fresh (s : State) (k : Nat) (x : Ctx) : (s.setCx k x).fresh = s.fresh := rfl
@[simp] theorem State.setCx_missed (s : State) (k : Nat) (x : Ctx) : (s.setCx k x).missed = s.missed := rfl
@[simp] theorem State.setCx_mem (s : State) (k : Nat) (x : Ctx) : (s.setCx k x).mem = s.mem := rfl
@[simp] theorem State.setCx_classes (s : State) (k : Nat) (x : Ctx) : (s.setCx k x).classes = s.classes := rfl
@[simp] theorem State.setCx_dirs (s : State) (k : Nat) (x : Ctx) : (s.setCx k x).dirs = s.dirs := rfl
@[simp] theorem State.setCx_moving (s : State) (k : Nat) (x : Ctx) : (s.setCx k x).moving = s.moving := rfl
@[simp] theorem State.setCx_migDone (s : State) (k : Nat) (x : Ctx) : (s.setCx k x).migDone = s.migDone := rfl
@[simp] theorem State.setCx_losses (s : State) (k : Nat) (x : Ctx) : (s.setCx k x).losses = s.losses := rfl
@[simp] theorem State.setCx_hbm (s : State) (k : Nat) (x : Ctx) : (s.setCx k x).hbm = s.hbm := rfl
@[simp] theorem State.setCx_oldHbm (s : State) (k : Nat) (x : Ctx) : (s.setCx k x).oldHbm = s.oldHbm := rfl
@[simp] theorem State.setCx_stackUp (s : State) (k : Nat) (x : Ctx) : (s.setCx k x).stackUp = s.stackUp := rfl
@[simp] theorem State.setCx_agents (s : State) (k : Nat) (x : Ctx) : (s.setCx k x).agents = s.agents := rfl
@[simp] theorem State.setCx_couriers (s : State) (k : Nat) (x : Ctx) : (s.setCx k x).couriers = s.couriers := rfl
@[simp] theorem State.setCx_teams (s : State) (k : Nat) (x : Ctx) : (s.setCx k x).teams = s.teams := rfl
@[simp] theorem State.setCx_launches (s : State) (k : Nat) (x : Ctx) : (s.setCx k x).launches = s.launches := rfl
@[simp] theorem State.setCx_cores (s : State) (k : Nat) (x : Ctx) : (s.setCx k x).cores = s.cores := rfl
@[simp] theorem State.setCx_dies (s : State) (k : Nat) (x : Ctx) : (s.setCx k x).dies = s.dies := rfl
@[simp] theorem State.setCx_nodes (s : State) (k : Nat) (x : Ctx) : (s.setCx k x).nodes = s.nodes := rfl
@[simp] theorem State.setCx_net (s : State) (k : Nat) (x : Ctx) : (s.setCx k x).net = s.net := rfl
@[simp] theorem State.setCx_window (s : State) (k : Nat) (x : Ctx) : (s.setCx k x).window = s.window := rfl
@[simp] theorem State.setCx_reqs (s : State) (k : Nat) (x : Ctx) : (s.setCx k x).reqs = s.reqs := rfl
@[simp] theorem State.setCx_nextReq (s : State) (k : Nat) (x : Ctx) : (s.setCx k x).nextReq = s.nextReq := rfl
@[simp] theorem State.setCx_tags (s : State) (k : Nat) (x : Ctx) : (s.setCx k x).tags = s.tags := rfl
@[simp] theorem State.setCx_recent (s : State) (k : Nat) (x : Ctx) : (s.setCx k x).recent = s.recent := rfl
@[simp] theorem State.setCx_capGen (s : State) (k : Nat) (x : Ctx) : (s.setCx k x).capGen = s.capGen := rfl
@[simp] theorem State.setCx_capRec (s : State) (k : Nat) (x : Ctx) : (s.setCx k x).capRec = s.capRec := rfl
@[simp] theorem State.setCx_domain (s : State) (k : Nat) (x : Ctx) : (s.setCx k x).domain = s.domain := rfl
@[simp] theorem State.setCx_lostPkgs (s : State) (k : Nat) (x : Ctx) : (s.setCx k x).lostPkgs = s.lostPkgs := rfl
@[simp] theorem State.setCx_admq (s : State) (k : Nat) (x : Ctx) : (s.setCx k x).admq = s.admq := rfl
@[simp] theorem State.setCx_admLast (s : State) (k : Nat) (x : Ctx) : (s.setCx k x).admLast = s.admLast := rfl
@[simp] theorem State.setCx_nextLid (s : State) (k : Nat) (x : Ctx) : (s.setCx k x).nextLid = s.nextLid := rfl
@[simp] theorem State.setCx_nextOrder (s : State) (k : Nat) (x : Ctx) : (s.setCx k x).nextOrder = s.nextOrder := rfl
@[simp] theorem State.setCx_nextTeam (s : State) (k : Nat) (x : Ctx) : (s.setCx k x).nextTeam = s.nextTeam := rfl
@[simp] theorem State.setCx_nextMark (s : State) (k : Nat) (x : Ctx) : (s.setCx k x).nextMark = s.nextMark := rfl
@[simp] theorem State.setCx_prioWait (s : State) (k : Nat) (x : Ctx) : (s.setCx k x).prioWait = s.prioWait := rfl
@[simp] theorem State.setCx_distFree (s : State) (k : Nat) (x : Ctx) : (s.setCx k x).distFree = s.distFree := rfl
@[simp] theorem State.setCx_timetable (s : State) (k : Nat) (x : Ctx) : (s.setCx k x).timetable = s.timetable := rfl
@[simp] theorem State.setCx_sessions (s : State) (k : Nat) (x : Ctx) : (s.setCx k x).sessions = s.sessions := rfl
@[simp] theorem State.setCx_out (s : State) (k : Nat) (x : Ctx) : (s.setCx k x).out = s.out := rfl
@[simp] theorem State.setCx_ports (s : State) (k : Nat) (x : Ctx) : (s.setCx k x).ports = s.ports := rfl
@[simp] theorem State.setCx_routes (s : State) (k : Nat) (x : Ctx) : (s.setCx k x).routes = s.routes := rfl
@[simp] theorem State.setCx_held (s : State) (k : Nat) (x : Ctx) : (s.setCx k x).held = s.held := rfl
@[simp] theorem State.setCx_redir (s : State) (k : Nat) (x : Ctx) : (s.setCx k x).redir = s.redir := rfl
@[simp] theorem State.setCx_fencing (s : State) (k : Nat) (x : Ctx) : (s.setCx k x).fencing = s.fencing := rfl
@[simp] theorem State.setCx_power (s : State) (k : Nat) (x : Ctx) : (s.setCx k x).power = s.power := rfl
@[simp] theorem State.setCx_bootSlot (s : State) (k : Nat) (x : Ctx) : (s.setCx k x).bootSlot = s.bootSlot := rfl
@[simp] theorem State.setCx_bootFail (s : State) (k : Nat) (x : Ctx) : (s.setCx k x).bootFail = s.bootFail := rfl
@[simp] theorem State.setCx_rollback (s : State) (k : Nat) (x : Ctx) : (s.setCx k x).rollback = s.rollback := rfl
@[simp] theorem State.setCx_fatal (s : State) (k : Nat) (x : Ctx) : (s.setCx k x).fatal = s.fatal := rfl
@[simp] theorem State.setCx_unlatch (s : State) (k : Nat) (x : Ctx) : (s.setCx k x).unlatch = s.unlatch := rfl
@[simp] theorem State.setCx_errPend (s : State) (k : Nat) (x : Ctx) : (s.setCx k x).errPend = s.errPend := rfl
@[simp] theorem State.setCx_corrTimes (s : State) (k : Nat) (x : Ctx) : (s.setCx k x).corrTimes = s.corrTimes := rfl
@[simp] theorem State.setCx_healthSeq (s : State) (k : Nat) (x : Ctx) : (s.setCx k x).healthSeq = s.healthSeq := rfl
@[simp] theorem State.setCx_thermtrip (s : State) (k : Nat) (x : Ctx) : (s.setCx k x).thermtrip = s.thermtrip := rfl
@[simp] theorem State.setCx_mgmtAddr (s : State) (k : Nat) (x : Ctx) : (s.setCx k x).mgmtAddr = s.mgmtAddr := rfl
@[simp] theorem State.setCx_mgmtq (s : State) (k : Nat) (x : Ctx) : (s.setCx k x).mgmtq = s.mgmtq := rfl
@[simp] theorem State.setCx_badFrames (s : State) (k : Nat) (x : Ctx) : (s.setCx k x).badFrames = s.badFrames := rfl
@[simp] theorem State.setCx_badDhp (s : State) (k : Nat) (x : Ctx) : (s.setCx k x).badDhp = s.badDhp := rfl
@[simp] theorem State.setCx_ptpSince (s : State) (k : Nat) (x : Ctx) : (s.setCx k x).ptpSince = s.ptpSince := rfl
@[simp] theorem State.setCx_locked (s : State) (k : Nat) (x : Ctx) : (s.setCx k x).locked = s.locked := rfl
@[simp] theorem State.setCx_codeTime (s : State) (k : Nat) (x : Ctx) : (s.setCx k x).codeTime = s.codeTime := rfl
@[simp] theorem State.setCx_beaconTime (s : State) (k : Nat) (x : Ctx) : (s.setCx k x).beaconTime = s.beaconTime := rfl
@[simp] theorem State.setCx_later (s : State) (k : Nat) (x : Ctx) : (s.setCx k x).later = s.later := rfl
@[simp] theorem State.setCx_mesh (s : State) (k : Nat) (x : Ctx) : (s.setCx k x).mesh = s.mesh := rfl
@[simp] theorem State.setCx_links (s : State) (k : Nat) (x : Ctx) : (s.setCx k x).links = s.links := rfl
@[simp] theorem State.setCx_draining (s : State) (k : Nat) (x : Ctx) : (s.setCx k x).draining = s.draining := rfl
@[simp] theorem State.setCx_rejoins (s : State) (k : Nat) (x : Ctx) : (s.setCx k x).rejoins = s.rejoins := rfl
@[simp] theorem State.setCx_ioImage (s : State) (k : Nat) (x : Ctx) : (s.setCx k x).ioImage = s.ioImage := rfl
@[simp] theorem State.setCx_railIx (s : State) (k : Nat) (x : Ctx) : (s.setCx k x).railIx = s.railIx := rfl
@[simp] theorem State.setCx_ipv4 (s : State) (k : Nat) (x : Ctx) : (s.setCx k x).ipv4 = s.ipv4 := rfl
@[simp] theorem State.setCx_ipv6 (s : State) (k : Nat) (x : Ctx) : (s.setCx k x).ipv6 = s.ipv6 := rfl

/-! ## cores -/

@[simp] theorem State.setCo_co (s : State) (k : Nat) (x : Core) : (s.setCo k x).co k = x := tget_tput_same _ _ _
theorem State.setCo_co_other (s : State) {k j : Nat} (x : Core) (h : j ≠ k) : (s.setCo k x).co j = s.co j := tget_tput_other _ _ h
@[simp] theorem State.setCo_ag (s : State) (k : Nat) (x : Core) : (s.setCo k x).ag = s.ag := rfl
@[simp] theorem State.setCo_cc (s : State) (k : Nat) (x : Core) : (s.setCo k x).cc = s.cc := rfl
@[simp] theorem State.setCo_tm (s : State) (k : Nat) (x : Core) : (s.setCo k x).tm = s.tm := rfl
@[simp] theorem State.setCo_la (s : State) (k : Nat) (x : Core) : (s.setCo k x).la = s.la := rfl
@[simp] theorem State.setCo_cx (s : State) (k : Nat) (x : Core) : (s.setCo k x).cx = s.cx := rfl
@[simp] theorem State.setCo_di (s : State) (k : Nat) (x : Core) : (s.setCo k x).di = s.di := rfl
@[simp] theorem State.setCo_no (s : State) (k : Nat) (x : Core) : (s.setCo k x).no = s.no := rfl
@[simp] theorem State.setCo_dr (s : State) (k : Nat) (x : Core) : (s.setCo k x).dr = s.dr := rfl
@[simp] theorem State.setCo_cur (s : State) (k : Nat) (x : Core) : (s.setCo k x).cur = s.cur := rfl
@[simp] theorem State.setCo_go (s : State) (k : Nat) (x : Core) : (s.setCo k x).go = s.go := rfl
@[simp] theorem State.setCo_inbox (s : State) (k : Nat) (x : Core) : (s.setCo k x).inbox = s.inbox := rfl
@[simp] theorem State.setCo_todo (s : State) (k : Nat) (x : Core) : (s.setCo k x).todo = s.todo := rfl
@[simp] theorem State.setCo_fw (s : State) (k : Nat) (x : Core) : (s.setCo k x).fw = s.fw := rfl
@[simp] theorem State.setCo_cycle (s : State) (k : Nat) (x : Core) : (s.setCo k x).cycle = s.cycle := rfl
@[simp] theorem State.setCo_ptb (s : State) (k : Nat) (x : Core) : (s.setCo k x).ptb = s.ptb := rfl
@[simp] theorem State.setCo_frac (s : State) (k : Nat) (x : Core) : (s.setCo k x).frac = s.frac := rfl
@[simp] theorem State.setCo_timeLock (s : State) (k : Nat) (x : Core) : (s.setCo k x).timeLock = s.timeLock := rfl
@[simp] theorem State.setCo_slew (s : State) (k : Nat) (x : Core) : (s.setCo k x).slew = s.slew := rfl
@[simp] theorem State.setCo_slewFrac (s : State) (k : Nat) (x : Core) : (s.setCo k x).slewFrac = s.slewFrac := rfl
@[simp] theorem State.setCo_ptpLock (s : State) (k : Nat) (x : Core) : (s.setCo k x).ptpLock = s.ptpLock := rfl
@[simp] theorem State.setCo_lastTime (s : State) (k : Nat) (x : Core) : (s.setCo k x).lastTime = s.lastTime := rfl
@[simp] theorem State.setCo_fresh (s : State) (k : Nat) (x : Core) : (s.setCo k x).fresh = s.fresh := rfl
@[simp] theorem State.setCo_missed (s : State) (k : Nat) (x : Core) : (s.setCo k x).missed = s.missed := rfl
@[simp] theorem State.setCo_mem (s : State) (k : Nat) (x : Core) : (s.setCo k x).mem = s.mem := rfl
@[simp] theorem State.setCo_classes (s : State) (k : Nat) (x : Core) : (s.setCo k x).classes = s.classes := rfl
@[simp] theorem State.setCo_dirs (s : State) (k : Nat) (x : Core) : (s.setCo k x).dirs = s.dirs := rfl
@[simp] theorem State.setCo_moving (s : State) (k : Nat) (x : Core) : (s.setCo k x).moving = s.moving := rfl
@[simp] theorem State.setCo_migDone (s : State) (k : Nat) (x : Core) : (s.setCo k x).migDone = s.migDone := rfl
@[simp] theorem State.setCo_losses (s : State) (k : Nat) (x : Core) : (s.setCo k x).losses = s.losses := rfl
@[simp] theorem State.setCo_hbm (s : State) (k : Nat) (x : Core) : (s.setCo k x).hbm = s.hbm := rfl
@[simp] theorem State.setCo_oldHbm (s : State) (k : Nat) (x : Core) : (s.setCo k x).oldHbm = s.oldHbm := rfl
@[simp] theorem State.setCo_stackUp (s : State) (k : Nat) (x : Core) : (s.setCo k x).stackUp = s.stackUp := rfl
@[simp] theorem State.setCo_agents (s : State) (k : Nat) (x : Core) : (s.setCo k x).agents = s.agents := rfl
@[simp] theorem State.setCo_couriers (s : State) (k : Nat) (x : Core) : (s.setCo k x).couriers = s.couriers := rfl
@[simp] theorem State.setCo_teams (s : State) (k : Nat) (x : Core) : (s.setCo k x).teams = s.teams := rfl
@[simp] theorem State.setCo_launches (s : State) (k : Nat) (x : Core) : (s.setCo k x).launches = s.launches := rfl
@[simp] theorem State.setCo_ctxs (s : State) (k : Nat) (x : Core) : (s.setCo k x).ctxs = s.ctxs := rfl
@[simp] theorem State.setCo_dies (s : State) (k : Nat) (x : Core) : (s.setCo k x).dies = s.dies := rfl
@[simp] theorem State.setCo_nodes (s : State) (k : Nat) (x : Core) : (s.setCo k x).nodes = s.nodes := rfl
@[simp] theorem State.setCo_net (s : State) (k : Nat) (x : Core) : (s.setCo k x).net = s.net := rfl
@[simp] theorem State.setCo_window (s : State) (k : Nat) (x : Core) : (s.setCo k x).window = s.window := rfl
@[simp] theorem State.setCo_reqs (s : State) (k : Nat) (x : Core) : (s.setCo k x).reqs = s.reqs := rfl
@[simp] theorem State.setCo_nextReq (s : State) (k : Nat) (x : Core) : (s.setCo k x).nextReq = s.nextReq := rfl
@[simp] theorem State.setCo_tags (s : State) (k : Nat) (x : Core) : (s.setCo k x).tags = s.tags := rfl
@[simp] theorem State.setCo_recent (s : State) (k : Nat) (x : Core) : (s.setCo k x).recent = s.recent := rfl
@[simp] theorem State.setCo_capGen (s : State) (k : Nat) (x : Core) : (s.setCo k x).capGen = s.capGen := rfl
@[simp] theorem State.setCo_capRec (s : State) (k : Nat) (x : Core) : (s.setCo k x).capRec = s.capRec := rfl
@[simp] theorem State.setCo_domain (s : State) (k : Nat) (x : Core) : (s.setCo k x).domain = s.domain := rfl
@[simp] theorem State.setCo_lostPkgs (s : State) (k : Nat) (x : Core) : (s.setCo k x).lostPkgs = s.lostPkgs := rfl
@[simp] theorem State.setCo_admq (s : State) (k : Nat) (x : Core) : (s.setCo k x).admq = s.admq := rfl
@[simp] theorem State.setCo_admLast (s : State) (k : Nat) (x : Core) : (s.setCo k x).admLast = s.admLast := rfl
@[simp] theorem State.setCo_nextLid (s : State) (k : Nat) (x : Core) : (s.setCo k x).nextLid = s.nextLid := rfl
@[simp] theorem State.setCo_nextOrder (s : State) (k : Nat) (x : Core) : (s.setCo k x).nextOrder = s.nextOrder := rfl
@[simp] theorem State.setCo_nextTeam (s : State) (k : Nat) (x : Core) : (s.setCo k x).nextTeam = s.nextTeam := rfl
@[simp] theorem State.setCo_nextMark (s : State) (k : Nat) (x : Core) : (s.setCo k x).nextMark = s.nextMark := rfl
@[simp] theorem State.setCo_prioWait (s : State) (k : Nat) (x : Core) : (s.setCo k x).prioWait = s.prioWait := rfl
@[simp] theorem State.setCo_distFree (s : State) (k : Nat) (x : Core) : (s.setCo k x).distFree = s.distFree := rfl
@[simp] theorem State.setCo_timetable (s : State) (k : Nat) (x : Core) : (s.setCo k x).timetable = s.timetable := rfl
@[simp] theorem State.setCo_sessions (s : State) (k : Nat) (x : Core) : (s.setCo k x).sessions = s.sessions := rfl
@[simp] theorem State.setCo_out (s : State) (k : Nat) (x : Core) : (s.setCo k x).out = s.out := rfl
@[simp] theorem State.setCo_ports (s : State) (k : Nat) (x : Core) : (s.setCo k x).ports = s.ports := rfl
@[simp] theorem State.setCo_routes (s : State) (k : Nat) (x : Core) : (s.setCo k x).routes = s.routes := rfl
@[simp] theorem State.setCo_held (s : State) (k : Nat) (x : Core) : (s.setCo k x).held = s.held := rfl
@[simp] theorem State.setCo_redir (s : State) (k : Nat) (x : Core) : (s.setCo k x).redir = s.redir := rfl
@[simp] theorem State.setCo_fencing (s : State) (k : Nat) (x : Core) : (s.setCo k x).fencing = s.fencing := rfl
@[simp] theorem State.setCo_power (s : State) (k : Nat) (x : Core) : (s.setCo k x).power = s.power := rfl
@[simp] theorem State.setCo_bootSlot (s : State) (k : Nat) (x : Core) : (s.setCo k x).bootSlot = s.bootSlot := rfl
@[simp] theorem State.setCo_bootFail (s : State) (k : Nat) (x : Core) : (s.setCo k x).bootFail = s.bootFail := rfl
@[simp] theorem State.setCo_rollback (s : State) (k : Nat) (x : Core) : (s.setCo k x).rollback = s.rollback := rfl
@[simp] theorem State.setCo_fatal (s : State) (k : Nat) (x : Core) : (s.setCo k x).fatal = s.fatal := rfl
@[simp] theorem State.setCo_unlatch (s : State) (k : Nat) (x : Core) : (s.setCo k x).unlatch = s.unlatch := rfl
@[simp] theorem State.setCo_errPend (s : State) (k : Nat) (x : Core) : (s.setCo k x).errPend = s.errPend := rfl
@[simp] theorem State.setCo_corrTimes (s : State) (k : Nat) (x : Core) : (s.setCo k x).corrTimes = s.corrTimes := rfl
@[simp] theorem State.setCo_healthSeq (s : State) (k : Nat) (x : Core) : (s.setCo k x).healthSeq = s.healthSeq := rfl
@[simp] theorem State.setCo_thermtrip (s : State) (k : Nat) (x : Core) : (s.setCo k x).thermtrip = s.thermtrip := rfl
@[simp] theorem State.setCo_mgmtAddr (s : State) (k : Nat) (x : Core) : (s.setCo k x).mgmtAddr = s.mgmtAddr := rfl
@[simp] theorem State.setCo_mgmtq (s : State) (k : Nat) (x : Core) : (s.setCo k x).mgmtq = s.mgmtq := rfl
@[simp] theorem State.setCo_badFrames (s : State) (k : Nat) (x : Core) : (s.setCo k x).badFrames = s.badFrames := rfl
@[simp] theorem State.setCo_badDhp (s : State) (k : Nat) (x : Core) : (s.setCo k x).badDhp = s.badDhp := rfl
@[simp] theorem State.setCo_ptpSince (s : State) (k : Nat) (x : Core) : (s.setCo k x).ptpSince = s.ptpSince := rfl
@[simp] theorem State.setCo_locked (s : State) (k : Nat) (x : Core) : (s.setCo k x).locked = s.locked := rfl
@[simp] theorem State.setCo_codeTime (s : State) (k : Nat) (x : Core) : (s.setCo k x).codeTime = s.codeTime := rfl
@[simp] theorem State.setCo_beaconTime (s : State) (k : Nat) (x : Core) : (s.setCo k x).beaconTime = s.beaconTime := rfl
@[simp] theorem State.setCo_later (s : State) (k : Nat) (x : Core) : (s.setCo k x).later = s.later := rfl
@[simp] theorem State.setCo_mesh (s : State) (k : Nat) (x : Core) : (s.setCo k x).mesh = s.mesh := rfl
@[simp] theorem State.setCo_links (s : State) (k : Nat) (x : Core) : (s.setCo k x).links = s.links := rfl
@[simp] theorem State.setCo_draining (s : State) (k : Nat) (x : Core) : (s.setCo k x).draining = s.draining := rfl
@[simp] theorem State.setCo_rejoins (s : State) (k : Nat) (x : Core) : (s.setCo k x).rejoins = s.rejoins := rfl
@[simp] theorem State.setCo_ioImage (s : State) (k : Nat) (x : Core) : (s.setCo k x).ioImage = s.ioImage := rfl
@[simp] theorem State.setCo_railIx (s : State) (k : Nat) (x : Core) : (s.setCo k x).railIx = s.railIx := rfl
@[simp] theorem State.setCo_ipv4 (s : State) (k : Nat) (x : Core) : (s.setCo k x).ipv4 = s.ipv4 := rfl
@[simp] theorem State.setCo_ipv6 (s : State) (k : Nat) (x : Core) : (s.setCo k x).ipv6 = s.ipv6 := rfl

/-! ## dies -/

@[simp] theorem State.setDi_di (s : State) (k : Nat) (x : Die) : (s.setDi k x).di k = x := tget_tput_same _ _ _
theorem State.setDi_di_other (s : State) {k j : Nat} (x : Die) (h : j ≠ k) : (s.setDi k x).di j = s.di j := tget_tput_other _ _ h
@[simp] theorem State.setDi_ag (s : State) (k : Nat) (x : Die) : (s.setDi k x).ag = s.ag := rfl
@[simp] theorem State.setDi_cc (s : State) (k : Nat) (x : Die) : (s.setDi k x).cc = s.cc := rfl
@[simp] theorem State.setDi_tm (s : State) (k : Nat) (x : Die) : (s.setDi k x).tm = s.tm := rfl
@[simp] theorem State.setDi_la (s : State) (k : Nat) (x : Die) : (s.setDi k x).la = s.la := rfl
@[simp] theorem State.setDi_cx (s : State) (k : Nat) (x : Die) : (s.setDi k x).cx = s.cx := rfl
@[simp] theorem State.setDi_co (s : State) (k : Nat) (x : Die) : (s.setDi k x).co = s.co := rfl
@[simp] theorem State.setDi_no (s : State) (k : Nat) (x : Die) : (s.setDi k x).no = s.no := rfl
@[simp] theorem State.setDi_dr (s : State) (k : Nat) (x : Die) : (s.setDi k x).dr = s.dr := rfl
@[simp] theorem State.setDi_cur (s : State) (k : Nat) (x : Die) : (s.setDi k x).cur = s.cur := rfl
@[simp] theorem State.setDi_go (s : State) (k : Nat) (x : Die) : (s.setDi k x).go = s.go := rfl
@[simp] theorem State.setDi_inbox (s : State) (k : Nat) (x : Die) : (s.setDi k x).inbox = s.inbox := rfl
@[simp] theorem State.setDi_todo (s : State) (k : Nat) (x : Die) : (s.setDi k x).todo = s.todo := rfl
@[simp] theorem State.setDi_fw (s : State) (k : Nat) (x : Die) : (s.setDi k x).fw = s.fw := rfl
@[simp] theorem State.setDi_cycle (s : State) (k : Nat) (x : Die) : (s.setDi k x).cycle = s.cycle := rfl
@[simp] theorem State.setDi_ptb (s : State) (k : Nat) (x : Die) : (s.setDi k x).ptb = s.ptb := rfl
@[simp] theorem State.setDi_frac (s : State) (k : Nat) (x : Die) : (s.setDi k x).frac = s.frac := rfl
@[simp] theorem State.setDi_timeLock (s : State) (k : Nat) (x : Die) : (s.setDi k x).timeLock = s.timeLock := rfl
@[simp] theorem State.setDi_slew (s : State) (k : Nat) (x : Die) : (s.setDi k x).slew = s.slew := rfl
@[simp] theorem State.setDi_slewFrac (s : State) (k : Nat) (x : Die) : (s.setDi k x).slewFrac = s.slewFrac := rfl
@[simp] theorem State.setDi_ptpLock (s : State) (k : Nat) (x : Die) : (s.setDi k x).ptpLock = s.ptpLock := rfl
@[simp] theorem State.setDi_lastTime (s : State) (k : Nat) (x : Die) : (s.setDi k x).lastTime = s.lastTime := rfl
@[simp] theorem State.setDi_fresh (s : State) (k : Nat) (x : Die) : (s.setDi k x).fresh = s.fresh := rfl
@[simp] theorem State.setDi_missed (s : State) (k : Nat) (x : Die) : (s.setDi k x).missed = s.missed := rfl
@[simp] theorem State.setDi_mem (s : State) (k : Nat) (x : Die) : (s.setDi k x).mem = s.mem := rfl
@[simp] theorem State.setDi_classes (s : State) (k : Nat) (x : Die) : (s.setDi k x).classes = s.classes := rfl
@[simp] theorem State.setDi_dirs (s : State) (k : Nat) (x : Die) : (s.setDi k x).dirs = s.dirs := rfl
@[simp] theorem State.setDi_moving (s : State) (k : Nat) (x : Die) : (s.setDi k x).moving = s.moving := rfl
@[simp] theorem State.setDi_migDone (s : State) (k : Nat) (x : Die) : (s.setDi k x).migDone = s.migDone := rfl
@[simp] theorem State.setDi_losses (s : State) (k : Nat) (x : Die) : (s.setDi k x).losses = s.losses := rfl
@[simp] theorem State.setDi_hbm (s : State) (k : Nat) (x : Die) : (s.setDi k x).hbm = s.hbm := rfl
@[simp] theorem State.setDi_oldHbm (s : State) (k : Nat) (x : Die) : (s.setDi k x).oldHbm = s.oldHbm := rfl
@[simp] theorem State.setDi_stackUp (s : State) (k : Nat) (x : Die) : (s.setDi k x).stackUp = s.stackUp := rfl
@[simp] theorem State.setDi_agents (s : State) (k : Nat) (x : Die) : (s.setDi k x).agents = s.agents := rfl
@[simp] theorem State.setDi_couriers (s : State) (k : Nat) (x : Die) : (s.setDi k x).couriers = s.couriers := rfl
@[simp] theorem State.setDi_teams (s : State) (k : Nat) (x : Die) : (s.setDi k x).teams = s.teams := rfl
@[simp] theorem State.setDi_launches (s : State) (k : Nat) (x : Die) : (s.setDi k x).launches = s.launches := rfl
@[simp] theorem State.setDi_ctxs (s : State) (k : Nat) (x : Die) : (s.setDi k x).ctxs = s.ctxs := rfl
@[simp] theorem State.setDi_cores (s : State) (k : Nat) (x : Die) : (s.setDi k x).cores = s.cores := rfl
@[simp] theorem State.setDi_nodes (s : State) (k : Nat) (x : Die) : (s.setDi k x).nodes = s.nodes := rfl
@[simp] theorem State.setDi_net (s : State) (k : Nat) (x : Die) : (s.setDi k x).net = s.net := rfl
@[simp] theorem State.setDi_window (s : State) (k : Nat) (x : Die) : (s.setDi k x).window = s.window := rfl
@[simp] theorem State.setDi_reqs (s : State) (k : Nat) (x : Die) : (s.setDi k x).reqs = s.reqs := rfl
@[simp] theorem State.setDi_nextReq (s : State) (k : Nat) (x : Die) : (s.setDi k x).nextReq = s.nextReq := rfl
@[simp] theorem State.setDi_tags (s : State) (k : Nat) (x : Die) : (s.setDi k x).tags = s.tags := rfl
@[simp] theorem State.setDi_recent (s : State) (k : Nat) (x : Die) : (s.setDi k x).recent = s.recent := rfl
@[simp] theorem State.setDi_capGen (s : State) (k : Nat) (x : Die) : (s.setDi k x).capGen = s.capGen := rfl
@[simp] theorem State.setDi_capRec (s : State) (k : Nat) (x : Die) : (s.setDi k x).capRec = s.capRec := rfl
@[simp] theorem State.setDi_domain (s : State) (k : Nat) (x : Die) : (s.setDi k x).domain = s.domain := rfl
@[simp] theorem State.setDi_lostPkgs (s : State) (k : Nat) (x : Die) : (s.setDi k x).lostPkgs = s.lostPkgs := rfl
@[simp] theorem State.setDi_admq (s : State) (k : Nat) (x : Die) : (s.setDi k x).admq = s.admq := rfl
@[simp] theorem State.setDi_admLast (s : State) (k : Nat) (x : Die) : (s.setDi k x).admLast = s.admLast := rfl
@[simp] theorem State.setDi_nextLid (s : State) (k : Nat) (x : Die) : (s.setDi k x).nextLid = s.nextLid := rfl
@[simp] theorem State.setDi_nextOrder (s : State) (k : Nat) (x : Die) : (s.setDi k x).nextOrder = s.nextOrder := rfl
@[simp] theorem State.setDi_nextTeam (s : State) (k : Nat) (x : Die) : (s.setDi k x).nextTeam = s.nextTeam := rfl
@[simp] theorem State.setDi_nextMark (s : State) (k : Nat) (x : Die) : (s.setDi k x).nextMark = s.nextMark := rfl
@[simp] theorem State.setDi_prioWait (s : State) (k : Nat) (x : Die) : (s.setDi k x).prioWait = s.prioWait := rfl
@[simp] theorem State.setDi_distFree (s : State) (k : Nat) (x : Die) : (s.setDi k x).distFree = s.distFree := rfl
@[simp] theorem State.setDi_timetable (s : State) (k : Nat) (x : Die) : (s.setDi k x).timetable = s.timetable := rfl
@[simp] theorem State.setDi_sessions (s : State) (k : Nat) (x : Die) : (s.setDi k x).sessions = s.sessions := rfl
@[simp] theorem State.setDi_out (s : State) (k : Nat) (x : Die) : (s.setDi k x).out = s.out := rfl
@[simp] theorem State.setDi_ports (s : State) (k : Nat) (x : Die) : (s.setDi k x).ports = s.ports := rfl
@[simp] theorem State.setDi_routes (s : State) (k : Nat) (x : Die) : (s.setDi k x).routes = s.routes := rfl
@[simp] theorem State.setDi_held (s : State) (k : Nat) (x : Die) : (s.setDi k x).held = s.held := rfl
@[simp] theorem State.setDi_redir (s : State) (k : Nat) (x : Die) : (s.setDi k x).redir = s.redir := rfl
@[simp] theorem State.setDi_fencing (s : State) (k : Nat) (x : Die) : (s.setDi k x).fencing = s.fencing := rfl
@[simp] theorem State.setDi_power (s : State) (k : Nat) (x : Die) : (s.setDi k x).power = s.power := rfl
@[simp] theorem State.setDi_bootSlot (s : State) (k : Nat) (x : Die) : (s.setDi k x).bootSlot = s.bootSlot := rfl
@[simp] theorem State.setDi_bootFail (s : State) (k : Nat) (x : Die) : (s.setDi k x).bootFail = s.bootFail := rfl
@[simp] theorem State.setDi_rollback (s : State) (k : Nat) (x : Die) : (s.setDi k x).rollback = s.rollback := rfl
@[simp] theorem State.setDi_fatal (s : State) (k : Nat) (x : Die) : (s.setDi k x).fatal = s.fatal := rfl
@[simp] theorem State.setDi_unlatch (s : State) (k : Nat) (x : Die) : (s.setDi k x).unlatch = s.unlatch := rfl
@[simp] theorem State.setDi_errPend (s : State) (k : Nat) (x : Die) : (s.setDi k x).errPend = s.errPend := rfl
@[simp] theorem State.setDi_corrTimes (s : State) (k : Nat) (x : Die) : (s.setDi k x).corrTimes = s.corrTimes := rfl
@[simp] theorem State.setDi_healthSeq (s : State) (k : Nat) (x : Die) : (s.setDi k x).healthSeq = s.healthSeq := rfl
@[simp] theorem State.setDi_thermtrip (s : State) (k : Nat) (x : Die) : (s.setDi k x).thermtrip = s.thermtrip := rfl
@[simp] theorem State.setDi_mgmtAddr (s : State) (k : Nat) (x : Die) : (s.setDi k x).mgmtAddr = s.mgmtAddr := rfl
@[simp] theorem State.setDi_mgmtq (s : State) (k : Nat) (x : Die) : (s.setDi k x).mgmtq = s.mgmtq := rfl
@[simp] theorem State.setDi_badFrames (s : State) (k : Nat) (x : Die) : (s.setDi k x).badFrames = s.badFrames := rfl
@[simp] theorem State.setDi_badDhp (s : State) (k : Nat) (x : Die) : (s.setDi k x).badDhp = s.badDhp := rfl
@[simp] theorem State.setDi_ptpSince (s : State) (k : Nat) (x : Die) : (s.setDi k x).ptpSince = s.ptpSince := rfl
@[simp] theorem State.setDi_locked (s : State) (k : Nat) (x : Die) : (s.setDi k x).locked = s.locked := rfl
@[simp] theorem State.setDi_codeTime (s : State) (k : Nat) (x : Die) : (s.setDi k x).codeTime = s.codeTime := rfl
@[simp] theorem State.setDi_beaconTime (s : State) (k : Nat) (x : Die) : (s.setDi k x).beaconTime = s.beaconTime := rfl
@[simp] theorem State.setDi_later (s : State) (k : Nat) (x : Die) : (s.setDi k x).later = s.later := rfl
@[simp] theorem State.setDi_mesh (s : State) (k : Nat) (x : Die) : (s.setDi k x).mesh = s.mesh := rfl
@[simp] theorem State.setDi_links (s : State) (k : Nat) (x : Die) : (s.setDi k x).links = s.links := rfl
@[simp] theorem State.setDi_draining (s : State) (k : Nat) (x : Die) : (s.setDi k x).draining = s.draining := rfl
@[simp] theorem State.setDi_rejoins (s : State) (k : Nat) (x : Die) : (s.setDi k x).rejoins = s.rejoins := rfl
@[simp] theorem State.setDi_ioImage (s : State) (k : Nat) (x : Die) : (s.setDi k x).ioImage = s.ioImage := rfl
@[simp] theorem State.setDi_railIx (s : State) (k : Nat) (x : Die) : (s.setDi k x).railIx = s.railIx := rfl
@[simp] theorem State.setDi_ipv4 (s : State) (k : Nat) (x : Die) : (s.setDi k x).ipv4 = s.ipv4 := rfl
@[simp] theorem State.setDi_ipv6 (s : State) (k : Nat) (x : Die) : (s.setDi k x).ipv6 = s.ipv6 := rfl

/-! ## nodes -/

@[simp] theorem State.setNo_no (s : State) (k : Nat) (x : Node) : (s.setNo k x).no k = x := tget_tput_same _ _ _
theorem State.setNo_no_other (s : State) {k j : Nat} (x : Node) (h : j ≠ k) : (s.setNo k x).no j = s.no j := tget_tput_other _ _ h
@[simp] theorem State.setNo_ag (s : State) (k : Nat) (x : Node) : (s.setNo k x).ag = s.ag := rfl
@[simp] theorem State.setNo_cc (s : State) (k : Nat) (x : Node) : (s.setNo k x).cc = s.cc := rfl
@[simp] theorem State.setNo_tm (s : State) (k : Nat) (x : Node) : (s.setNo k x).tm = s.tm := rfl
@[simp] theorem State.setNo_la (s : State) (k : Nat) (x : Node) : (s.setNo k x).la = s.la := rfl
@[simp] theorem State.setNo_cx (s : State) (k : Nat) (x : Node) : (s.setNo k x).cx = s.cx := rfl
@[simp] theorem State.setNo_co (s : State) (k : Nat) (x : Node) : (s.setNo k x).co = s.co := rfl
@[simp] theorem State.setNo_di (s : State) (k : Nat) (x : Node) : (s.setNo k x).di = s.di := rfl
@[simp] theorem State.setNo_dr (s : State) (k : Nat) (x : Node) : (s.setNo k x).dr = s.dr := rfl
@[simp] theorem State.setNo_cur (s : State) (k : Nat) (x : Node) : (s.setNo k x).cur = s.cur := rfl
@[simp] theorem State.setNo_go (s : State) (k : Nat) (x : Node) : (s.setNo k x).go = s.go := rfl
@[simp] theorem State.setNo_inbox (s : State) (k : Nat) (x : Node) : (s.setNo k x).inbox = s.inbox := rfl
@[simp] theorem State.setNo_todo (s : State) (k : Nat) (x : Node) : (s.setNo k x).todo = s.todo := rfl
@[simp] theorem State.setNo_fw (s : State) (k : Nat) (x : Node) : (s.setNo k x).fw = s.fw := rfl
@[simp] theorem State.setNo_cycle (s : State) (k : Nat) (x : Node) : (s.setNo k x).cycle = s.cycle := rfl
@[simp] theorem State.setNo_ptb (s : State) (k : Nat) (x : Node) : (s.setNo k x).ptb = s.ptb := rfl
@[simp] theorem State.setNo_frac (s : State) (k : Nat) (x : Node) : (s.setNo k x).frac = s.frac := rfl
@[simp] theorem State.setNo_timeLock (s : State) (k : Nat) (x : Node) : (s.setNo k x).timeLock = s.timeLock := rfl
@[simp] theorem State.setNo_slew (s : State) (k : Nat) (x : Node) : (s.setNo k x).slew = s.slew := rfl
@[simp] theorem State.setNo_slewFrac (s : State) (k : Nat) (x : Node) : (s.setNo k x).slewFrac = s.slewFrac := rfl
@[simp] theorem State.setNo_ptpLock (s : State) (k : Nat) (x : Node) : (s.setNo k x).ptpLock = s.ptpLock := rfl
@[simp] theorem State.setNo_lastTime (s : State) (k : Nat) (x : Node) : (s.setNo k x).lastTime = s.lastTime := rfl
@[simp] theorem State.setNo_fresh (s : State) (k : Nat) (x : Node) : (s.setNo k x).fresh = s.fresh := rfl
@[simp] theorem State.setNo_missed (s : State) (k : Nat) (x : Node) : (s.setNo k x).missed = s.missed := rfl
@[simp] theorem State.setNo_mem (s : State) (k : Nat) (x : Node) : (s.setNo k x).mem = s.mem := rfl
@[simp] theorem State.setNo_classes (s : State) (k : Nat) (x : Node) : (s.setNo k x).classes = s.classes := rfl
@[simp] theorem State.setNo_dirs (s : State) (k : Nat) (x : Node) : (s.setNo k x).dirs = s.dirs := rfl
@[simp] theorem State.setNo_moving (s : State) (k : Nat) (x : Node) : (s.setNo k x).moving = s.moving := rfl
@[simp] theorem State.setNo_migDone (s : State) (k : Nat) (x : Node) : (s.setNo k x).migDone = s.migDone := rfl
@[simp] theorem State.setNo_losses (s : State) (k : Nat) (x : Node) : (s.setNo k x).losses = s.losses := rfl
@[simp] theorem State.setNo_hbm (s : State) (k : Nat) (x : Node) : (s.setNo k x).hbm = s.hbm := rfl
@[simp] theorem State.setNo_oldHbm (s : State) (k : Nat) (x : Node) : (s.setNo k x).oldHbm = s.oldHbm := rfl
@[simp] theorem State.setNo_stackUp (s : State) (k : Nat) (x : Node) : (s.setNo k x).stackUp = s.stackUp := rfl
@[simp] theorem State.setNo_agents (s : State) (k : Nat) (x : Node) : (s.setNo k x).agents = s.agents := rfl
@[simp] theorem State.setNo_couriers (s : State) (k : Nat) (x : Node) : (s.setNo k x).couriers = s.couriers := rfl
@[simp] theorem State.setNo_teams (s : State) (k : Nat) (x : Node) : (s.setNo k x).teams = s.teams := rfl
@[simp] theorem State.setNo_launches (s : State) (k : Nat) (x : Node) : (s.setNo k x).launches = s.launches := rfl
@[simp] theorem State.setNo_ctxs (s : State) (k : Nat) (x : Node) : (s.setNo k x).ctxs = s.ctxs := rfl
@[simp] theorem State.setNo_cores (s : State) (k : Nat) (x : Node) : (s.setNo k x).cores = s.cores := rfl
@[simp] theorem State.setNo_dies (s : State) (k : Nat) (x : Node) : (s.setNo k x).dies = s.dies := rfl
@[simp] theorem State.setNo_net (s : State) (k : Nat) (x : Node) : (s.setNo k x).net = s.net := rfl
@[simp] theorem State.setNo_window (s : State) (k : Nat) (x : Node) : (s.setNo k x).window = s.window := rfl
@[simp] theorem State.setNo_reqs (s : State) (k : Nat) (x : Node) : (s.setNo k x).reqs = s.reqs := rfl
@[simp] theorem State.setNo_nextReq (s : State) (k : Nat) (x : Node) : (s.setNo k x).nextReq = s.nextReq := rfl
@[simp] theorem State.setNo_tags (s : State) (k : Nat) (x : Node) : (s.setNo k x).tags = s.tags := rfl
@[simp] theorem State.setNo_recent (s : State) (k : Nat) (x : Node) : (s.setNo k x).recent = s.recent := rfl
@[simp] theorem State.setNo_capGen (s : State) (k : Nat) (x : Node) : (s.setNo k x).capGen = s.capGen := rfl
@[simp] theorem State.setNo_capRec (s : State) (k : Nat) (x : Node) : (s.setNo k x).capRec = s.capRec := rfl
@[simp] theorem State.setNo_domain (s : State) (k : Nat) (x : Node) : (s.setNo k x).domain = s.domain := rfl
@[simp] theorem State.setNo_lostPkgs (s : State) (k : Nat) (x : Node) : (s.setNo k x).lostPkgs = s.lostPkgs := rfl
@[simp] theorem State.setNo_admq (s : State) (k : Nat) (x : Node) : (s.setNo k x).admq = s.admq := rfl
@[simp] theorem State.setNo_admLast (s : State) (k : Nat) (x : Node) : (s.setNo k x).admLast = s.admLast := rfl
@[simp] theorem State.setNo_nextLid (s : State) (k : Nat) (x : Node) : (s.setNo k x).nextLid = s.nextLid := rfl
@[simp] theorem State.setNo_nextOrder (s : State) (k : Nat) (x : Node) : (s.setNo k x).nextOrder = s.nextOrder := rfl
@[simp] theorem State.setNo_nextTeam (s : State) (k : Nat) (x : Node) : (s.setNo k x).nextTeam = s.nextTeam := rfl
@[simp] theorem State.setNo_nextMark (s : State) (k : Nat) (x : Node) : (s.setNo k x).nextMark = s.nextMark := rfl
@[simp] theorem State.setNo_prioWait (s : State) (k : Nat) (x : Node) : (s.setNo k x).prioWait = s.prioWait := rfl
@[simp] theorem State.setNo_distFree (s : State) (k : Nat) (x : Node) : (s.setNo k x).distFree = s.distFree := rfl
@[simp] theorem State.setNo_timetable (s : State) (k : Nat) (x : Node) : (s.setNo k x).timetable = s.timetable := rfl
@[simp] theorem State.setNo_sessions (s : State) (k : Nat) (x : Node) : (s.setNo k x).sessions = s.sessions := rfl
@[simp] theorem State.setNo_out (s : State) (k : Nat) (x : Node) : (s.setNo k x).out = s.out := rfl
@[simp] theorem State.setNo_ports (s : State) (k : Nat) (x : Node) : (s.setNo k x).ports = s.ports := rfl
@[simp] theorem State.setNo_routes (s : State) (k : Nat) (x : Node) : (s.setNo k x).routes = s.routes := rfl
@[simp] theorem State.setNo_held (s : State) (k : Nat) (x : Node) : (s.setNo k x).held = s.held := rfl
@[simp] theorem State.setNo_redir (s : State) (k : Nat) (x : Node) : (s.setNo k x).redir = s.redir := rfl
@[simp] theorem State.setNo_fencing (s : State) (k : Nat) (x : Node) : (s.setNo k x).fencing = s.fencing := rfl
@[simp] theorem State.setNo_power (s : State) (k : Nat) (x : Node) : (s.setNo k x).power = s.power := rfl
@[simp] theorem State.setNo_bootSlot (s : State) (k : Nat) (x : Node) : (s.setNo k x).bootSlot = s.bootSlot := rfl
@[simp] theorem State.setNo_bootFail (s : State) (k : Nat) (x : Node) : (s.setNo k x).bootFail = s.bootFail := rfl
@[simp] theorem State.setNo_rollback (s : State) (k : Nat) (x : Node) : (s.setNo k x).rollback = s.rollback := rfl
@[simp] theorem State.setNo_fatal (s : State) (k : Nat) (x : Node) : (s.setNo k x).fatal = s.fatal := rfl
@[simp] theorem State.setNo_unlatch (s : State) (k : Nat) (x : Node) : (s.setNo k x).unlatch = s.unlatch := rfl
@[simp] theorem State.setNo_errPend (s : State) (k : Nat) (x : Node) : (s.setNo k x).errPend = s.errPend := rfl
@[simp] theorem State.setNo_corrTimes (s : State) (k : Nat) (x : Node) : (s.setNo k x).corrTimes = s.corrTimes := rfl
@[simp] theorem State.setNo_healthSeq (s : State) (k : Nat) (x : Node) : (s.setNo k x).healthSeq = s.healthSeq := rfl
@[simp] theorem State.setNo_thermtrip (s : State) (k : Nat) (x : Node) : (s.setNo k x).thermtrip = s.thermtrip := rfl
@[simp] theorem State.setNo_mgmtAddr (s : State) (k : Nat) (x : Node) : (s.setNo k x).mgmtAddr = s.mgmtAddr := rfl
@[simp] theorem State.setNo_mgmtq (s : State) (k : Nat) (x : Node) : (s.setNo k x).mgmtq = s.mgmtq := rfl
@[simp] theorem State.setNo_badFrames (s : State) (k : Nat) (x : Node) : (s.setNo k x).badFrames = s.badFrames := rfl
@[simp] theorem State.setNo_badDhp (s : State) (k : Nat) (x : Node) : (s.setNo k x).badDhp = s.badDhp := rfl
@[simp] theorem State.setNo_ptpSince (s : State) (k : Nat) (x : Node) : (s.setNo k x).ptpSince = s.ptpSince := rfl
@[simp] theorem State.setNo_locked (s : State) (k : Nat) (x : Node) : (s.setNo k x).locked = s.locked := rfl
@[simp] theorem State.setNo_codeTime (s : State) (k : Nat) (x : Node) : (s.setNo k x).codeTime = s.codeTime := rfl
@[simp] theorem State.setNo_beaconTime (s : State) (k : Nat) (x : Node) : (s.setNo k x).beaconTime = s.beaconTime := rfl
@[simp] theorem State.setNo_later (s : State) (k : Nat) (x : Node) : (s.setNo k x).later = s.later := rfl
@[simp] theorem State.setNo_mesh (s : State) (k : Nat) (x : Node) : (s.setNo k x).mesh = s.mesh := rfl
@[simp] theorem State.setNo_links (s : State) (k : Nat) (x : Node) : (s.setNo k x).links = s.links := rfl
@[simp] theorem State.setNo_draining (s : State) (k : Nat) (x : Node) : (s.setNo k x).draining = s.draining := rfl
@[simp] theorem State.setNo_rejoins (s : State) (k : Nat) (x : Node) : (s.setNo k x).rejoins = s.rejoins := rfl
@[simp] theorem State.setNo_ioImage (s : State) (k : Nat) (x : Node) : (s.setNo k x).ioImage = s.ioImage := rfl
@[simp] theorem State.setNo_railIx (s : State) (k : Nat) (x : Node) : (s.setNo k x).railIx = s.railIx := rfl
@[simp] theorem State.setNo_ipv4 (s : State) (k : Nat) (x : Node) : (s.setNo k x).ipv4 = s.ipv4 := rfl
@[simp] theorem State.setNo_ipv6 (s : State) (k : Nat) (x : Node) : (s.setNo k x).ipv6 = s.ipv6 := rfl

/-! ## dirs -/

@[simp] theorem State.setDr_dr (s : State) (k : Nat) (x : Dir) : (s.setDr k x).dr k = x := tget_tput_same _ _ _
theorem State.setDr_dr_other (s : State) {k j : Nat} (x : Dir) (h : j ≠ k) : (s.setDr k x).dr j = s.dr j := tget_tput_other _ _ h
@[simp] theorem State.setDr_ag (s : State) (k : Nat) (x : Dir) : (s.setDr k x).ag = s.ag := rfl
@[simp] theorem State.setDr_cc (s : State) (k : Nat) (x : Dir) : (s.setDr k x).cc = s.cc := rfl
@[simp] theorem State.setDr_tm (s : State) (k : Nat) (x : Dir) : (s.setDr k x).tm = s.tm := rfl
@[simp] theorem State.setDr_la (s : State) (k : Nat) (x : Dir) : (s.setDr k x).la = s.la := rfl
@[simp] theorem State.setDr_cx (s : State) (k : Nat) (x : Dir) : (s.setDr k x).cx = s.cx := rfl
@[simp] theorem State.setDr_co (s : State) (k : Nat) (x : Dir) : (s.setDr k x).co = s.co := rfl
@[simp] theorem State.setDr_di (s : State) (k : Nat) (x : Dir) : (s.setDr k x).di = s.di := rfl
@[simp] theorem State.setDr_no (s : State) (k : Nat) (x : Dir) : (s.setDr k x).no = s.no := rfl
@[simp] theorem State.setDr_cur (s : State) (k : Nat) (x : Dir) : (s.setDr k x).cur = s.cur := rfl
@[simp] theorem State.setDr_go (s : State) (k : Nat) (x : Dir) : (s.setDr k x).go = s.go := rfl
@[simp] theorem State.setDr_inbox (s : State) (k : Nat) (x : Dir) : (s.setDr k x).inbox = s.inbox := rfl
@[simp] theorem State.setDr_todo (s : State) (k : Nat) (x : Dir) : (s.setDr k x).todo = s.todo := rfl
@[simp] theorem State.setDr_fw (s : State) (k : Nat) (x : Dir) : (s.setDr k x).fw = s.fw := rfl
@[simp] theorem State.setDr_cycle (s : State) (k : Nat) (x : Dir) : (s.setDr k x).cycle = s.cycle := rfl
@[simp] theorem State.setDr_ptb (s : State) (k : Nat) (x : Dir) : (s.setDr k x).ptb = s.ptb := rfl
@[simp] theorem State.setDr_frac (s : State) (k : Nat) (x : Dir) : (s.setDr k x).frac = s.frac := rfl
@[simp] theorem State.setDr_timeLock (s : State) (k : Nat) (x : Dir) : (s.setDr k x).timeLock = s.timeLock := rfl
@[simp] theorem State.setDr_slew (s : State) (k : Nat) (x : Dir) : (s.setDr k x).slew = s.slew := rfl
@[simp] theorem State.setDr_slewFrac (s : State) (k : Nat) (x : Dir) : (s.setDr k x).slewFrac = s.slewFrac := rfl
@[simp] theorem State.setDr_ptpLock (s : State) (k : Nat) (x : Dir) : (s.setDr k x).ptpLock = s.ptpLock := rfl
@[simp] theorem State.setDr_lastTime (s : State) (k : Nat) (x : Dir) : (s.setDr k x).lastTime = s.lastTime := rfl
@[simp] theorem State.setDr_fresh (s : State) (k : Nat) (x : Dir) : (s.setDr k x).fresh = s.fresh := rfl
@[simp] theorem State.setDr_missed (s : State) (k : Nat) (x : Dir) : (s.setDr k x).missed = s.missed := rfl
@[simp] theorem State.setDr_mem (s : State) (k : Nat) (x : Dir) : (s.setDr k x).mem = s.mem := rfl
@[simp] theorem State.setDr_classes (s : State) (k : Nat) (x : Dir) : (s.setDr k x).classes = s.classes := rfl
@[simp] theorem State.setDr_moving (s : State) (k : Nat) (x : Dir) : (s.setDr k x).moving = s.moving := rfl
@[simp] theorem State.setDr_migDone (s : State) (k : Nat) (x : Dir) : (s.setDr k x).migDone = s.migDone := rfl
@[simp] theorem State.setDr_losses (s : State) (k : Nat) (x : Dir) : (s.setDr k x).losses = s.losses := rfl
@[simp] theorem State.setDr_hbm (s : State) (k : Nat) (x : Dir) : (s.setDr k x).hbm = s.hbm := rfl
@[simp] theorem State.setDr_oldHbm (s : State) (k : Nat) (x : Dir) : (s.setDr k x).oldHbm = s.oldHbm := rfl
@[simp] theorem State.setDr_stackUp (s : State) (k : Nat) (x : Dir) : (s.setDr k x).stackUp = s.stackUp := rfl
@[simp] theorem State.setDr_agents (s : State) (k : Nat) (x : Dir) : (s.setDr k x).agents = s.agents := rfl
@[simp] theorem State.setDr_couriers (s : State) (k : Nat) (x : Dir) : (s.setDr k x).couriers = s.couriers := rfl
@[simp] theorem State.setDr_teams (s : State) (k : Nat) (x : Dir) : (s.setDr k x).teams = s.teams := rfl
@[simp] theorem State.setDr_launches (s : State) (k : Nat) (x : Dir) : (s.setDr k x).launches = s.launches := rfl
@[simp] theorem State.setDr_ctxs (s : State) (k : Nat) (x : Dir) : (s.setDr k x).ctxs = s.ctxs := rfl
@[simp] theorem State.setDr_cores (s : State) (k : Nat) (x : Dir) : (s.setDr k x).cores = s.cores := rfl
@[simp] theorem State.setDr_dies (s : State) (k : Nat) (x : Dir) : (s.setDr k x).dies = s.dies := rfl
@[simp] theorem State.setDr_nodes (s : State) (k : Nat) (x : Dir) : (s.setDr k x).nodes = s.nodes := rfl
@[simp] theorem State.setDr_net (s : State) (k : Nat) (x : Dir) : (s.setDr k x).net = s.net := rfl
@[simp] theorem State.setDr_window (s : State) (k : Nat) (x : Dir) : (s.setDr k x).window = s.window := rfl
@[simp] theorem State.setDr_reqs (s : State) (k : Nat) (x : Dir) : (s.setDr k x).reqs = s.reqs := rfl
@[simp] theorem State.setDr_nextReq (s : State) (k : Nat) (x : Dir) : (s.setDr k x).nextReq = s.nextReq := rfl
@[simp] theorem State.setDr_tags (s : State) (k : Nat) (x : Dir) : (s.setDr k x).tags = s.tags := rfl
@[simp] theorem State.setDr_recent (s : State) (k : Nat) (x : Dir) : (s.setDr k x).recent = s.recent := rfl
@[simp] theorem State.setDr_capGen (s : State) (k : Nat) (x : Dir) : (s.setDr k x).capGen = s.capGen := rfl
@[simp] theorem State.setDr_capRec (s : State) (k : Nat) (x : Dir) : (s.setDr k x).capRec = s.capRec := rfl
@[simp] theorem State.setDr_domain (s : State) (k : Nat) (x : Dir) : (s.setDr k x).domain = s.domain := rfl
@[simp] theorem State.setDr_lostPkgs (s : State) (k : Nat) (x : Dir) : (s.setDr k x).lostPkgs = s.lostPkgs := rfl
@[simp] theorem State.setDr_admq (s : State) (k : Nat) (x : Dir) : (s.setDr k x).admq = s.admq := rfl
@[simp] theorem State.setDr_admLast (s : State) (k : Nat) (x : Dir) : (s.setDr k x).admLast = s.admLast := rfl
@[simp] theorem State.setDr_nextLid (s : State) (k : Nat) (x : Dir) : (s.setDr k x).nextLid = s.nextLid := rfl
@[simp] theorem State.setDr_nextOrder (s : State) (k : Nat) (x : Dir) : (s.setDr k x).nextOrder = s.nextOrder := rfl
@[simp] theorem State.setDr_nextTeam (s : State) (k : Nat) (x : Dir) : (s.setDr k x).nextTeam = s.nextTeam := rfl
@[simp] theorem State.setDr_nextMark (s : State) (k : Nat) (x : Dir) : (s.setDr k x).nextMark = s.nextMark := rfl
@[simp] theorem State.setDr_prioWait (s : State) (k : Nat) (x : Dir) : (s.setDr k x).prioWait = s.prioWait := rfl
@[simp] theorem State.setDr_distFree (s : State) (k : Nat) (x : Dir) : (s.setDr k x).distFree = s.distFree := rfl
@[simp] theorem State.setDr_timetable (s : State) (k : Nat) (x : Dir) : (s.setDr k x).timetable = s.timetable := rfl
@[simp] theorem State.setDr_sessions (s : State) (k : Nat) (x : Dir) : (s.setDr k x).sessions = s.sessions := rfl
@[simp] theorem State.setDr_out (s : State) (k : Nat) (x : Dir) : (s.setDr k x).out = s.out := rfl
@[simp] theorem State.setDr_ports (s : State) (k : Nat) (x : Dir) : (s.setDr k x).ports = s.ports := rfl
@[simp] theorem State.setDr_routes (s : State) (k : Nat) (x : Dir) : (s.setDr k x).routes = s.routes := rfl
@[simp] theorem State.setDr_held (s : State) (k : Nat) (x : Dir) : (s.setDr k x).held = s.held := rfl
@[simp] theorem State.setDr_redir (s : State) (k : Nat) (x : Dir) : (s.setDr k x).redir = s.redir := rfl
@[simp] theorem State.setDr_fencing (s : State) (k : Nat) (x : Dir) : (s.setDr k x).fencing = s.fencing := rfl
@[simp] theorem State.setDr_power (s : State) (k : Nat) (x : Dir) : (s.setDr k x).power = s.power := rfl
@[simp] theorem State.setDr_bootSlot (s : State) (k : Nat) (x : Dir) : (s.setDr k x).bootSlot = s.bootSlot := rfl
@[simp] theorem State.setDr_bootFail (s : State) (k : Nat) (x : Dir) : (s.setDr k x).bootFail = s.bootFail := rfl
@[simp] theorem State.setDr_rollback (s : State) (k : Nat) (x : Dir) : (s.setDr k x).rollback = s.rollback := rfl
@[simp] theorem State.setDr_fatal (s : State) (k : Nat) (x : Dir) : (s.setDr k x).fatal = s.fatal := rfl
@[simp] theorem State.setDr_unlatch (s : State) (k : Nat) (x : Dir) : (s.setDr k x).unlatch = s.unlatch := rfl
@[simp] theorem State.setDr_errPend (s : State) (k : Nat) (x : Dir) : (s.setDr k x).errPend = s.errPend := rfl
@[simp] theorem State.setDr_corrTimes (s : State) (k : Nat) (x : Dir) : (s.setDr k x).corrTimes = s.corrTimes := rfl
@[simp] theorem State.setDr_healthSeq (s : State) (k : Nat) (x : Dir) : (s.setDr k x).healthSeq = s.healthSeq := rfl
@[simp] theorem State.setDr_thermtrip (s : State) (k : Nat) (x : Dir) : (s.setDr k x).thermtrip = s.thermtrip := rfl
@[simp] theorem State.setDr_mgmtAddr (s : State) (k : Nat) (x : Dir) : (s.setDr k x).mgmtAddr = s.mgmtAddr := rfl
@[simp] theorem State.setDr_mgmtq (s : State) (k : Nat) (x : Dir) : (s.setDr k x).mgmtq = s.mgmtq := rfl
@[simp] theorem State.setDr_badFrames (s : State) (k : Nat) (x : Dir) : (s.setDr k x).badFrames = s.badFrames := rfl
@[simp] theorem State.setDr_badDhp (s : State) (k : Nat) (x : Dir) : (s.setDr k x).badDhp = s.badDhp := rfl
@[simp] theorem State.setDr_ptpSince (s : State) (k : Nat) (x : Dir) : (s.setDr k x).ptpSince = s.ptpSince := rfl
@[simp] theorem State.setDr_locked (s : State) (k : Nat) (x : Dir) : (s.setDr k x).locked = s.locked := rfl
@[simp] theorem State.setDr_codeTime (s : State) (k : Nat) (x : Dir) : (s.setDr k x).codeTime = s.codeTime := rfl
@[simp] theorem State.setDr_beaconTime (s : State) (k : Nat) (x : Dir) : (s.setDr k x).beaconTime = s.beaconTime := rfl
@[simp] theorem State.setDr_later (s : State) (k : Nat) (x : Dir) : (s.setDr k x).later = s.later := rfl
@[simp] theorem State.setDr_mesh (s : State) (k : Nat) (x : Dir) : (s.setDr k x).mesh = s.mesh := rfl
@[simp] theorem State.setDr_links (s : State) (k : Nat) (x : Dir) : (s.setDr k x).links = s.links := rfl
@[simp] theorem State.setDr_draining (s : State) (k : Nat) (x : Dir) : (s.setDr k x).draining = s.draining := rfl
@[simp] theorem State.setDr_rejoins (s : State) (k : Nat) (x : Dir) : (s.setDr k x).rejoins = s.rejoins := rfl
@[simp] theorem State.setDr_ioImage (s : State) (k : Nat) (x : Dir) : (s.setDr k x).ioImage = s.ioImage := rfl
@[simp] theorem State.setDr_railIx (s : State) (k : Nat) (x : Dir) : (s.setDr k x).railIx = s.railIx := rfl
@[simp] theorem State.setDr_ipv4 (s : State) (k : Nat) (x : Dir) : (s.setDr k x).ipv4 = s.ipv4 := rfl
@[simp] theorem State.setDr_ipv6 (s : State) (k : Nat) (x : Dir) : (s.setDr k x).ipv6 = s.ipv6 := rfl

/-! ## The clock -/

@[simp] theorem State.advance_cur (s : State) (n : Nat) : (s.advance n).cur = s.cur := rfl
@[simp] theorem State.advance_go (s : State) (n : Nat) : (s.advance n).go = s.go := rfl
@[simp] theorem State.advance_inbox (s : State) (n : Nat) : (s.advance n).inbox = s.inbox := rfl
@[simp] theorem State.advance_todo (s : State) (n : Nat) : (s.advance n).todo = s.todo := rfl
@[simp] theorem State.advance_timeLock (s : State) (n : Nat) : (s.advance n).timeLock = s.timeLock := rfl
@[simp] theorem State.advance_ptpLock (s : State) (n : Nat) : (s.advance n).ptpLock = s.ptpLock := rfl
@[simp] theorem State.advance_lastTime (s : State) (n : Nat) : (s.advance n).lastTime = s.lastTime := rfl
@[simp] theorem State.advance_fresh (s : State) (n : Nat) : (s.advance n).fresh = s.fresh := rfl
@[simp] theorem State.advance_mem (s : State) (n : Nat) : (s.advance n).mem = s.mem := rfl
@[simp] theorem State.advance_classes (s : State) (n : Nat) : (s.advance n).classes = s.classes := rfl
@[simp] theorem State.advance_dirs (s : State) (n : Nat) : (s.advance n).dirs = s.dirs := rfl
@[simp] theorem State.advance_moving (s : State) (n : Nat) : (s.advance n).moving = s.moving := rfl
@[simp] theorem State.advance_migDone (s : State) (n : Nat) : (s.advance n).migDone = s.migDone := rfl
@[simp] theorem State.advance_losses (s : State) (n : Nat) : (s.advance n).losses = s.losses := rfl
@[simp] theorem State.advance_hbm (s : State) (n : Nat) : (s.advance n).hbm = s.hbm := rfl
@[simp] theorem State.advance_oldHbm (s : State) (n : Nat) : (s.advance n).oldHbm = s.oldHbm := rfl
@[simp] theorem State.advance_stackUp (s : State) (n : Nat) : (s.advance n).stackUp = s.stackUp := rfl
@[simp] theorem State.advance_agents (s : State) (n : Nat) : (s.advance n).agents = s.agents := rfl
@[simp] theorem State.advance_couriers (s : State) (n : Nat) : (s.advance n).couriers = s.couriers := rfl
@[simp] theorem State.advance_teams (s : State) (n : Nat) : (s.advance n).teams = s.teams := rfl
@[simp] theorem State.advance_launches (s : State) (n : Nat) : (s.advance n).launches = s.launches := rfl
@[simp] theorem State.advance_ctxs (s : State) (n : Nat) : (s.advance n).ctxs = s.ctxs := rfl
@[simp] theorem State.advance_cores (s : State) (n : Nat) : (s.advance n).cores = s.cores := rfl
@[simp] theorem State.advance_dies (s : State) (n : Nat) : (s.advance n).dies = s.dies := rfl
@[simp] theorem State.advance_nodes (s : State) (n : Nat) : (s.advance n).nodes = s.nodes := rfl
@[simp] theorem State.advance_net (s : State) (n : Nat) : (s.advance n).net = s.net := rfl
@[simp] theorem State.advance_window (s : State) (n : Nat) : (s.advance n).window = s.window := rfl
@[simp] theorem State.advance_reqs (s : State) (n : Nat) : (s.advance n).reqs = s.reqs := rfl
@[simp] theorem State.advance_nextReq (s : State) (n : Nat) : (s.advance n).nextReq = s.nextReq := rfl
@[simp] theorem State.advance_tags (s : State) (n : Nat) : (s.advance n).tags = s.tags := rfl
@[simp] theorem State.advance_recent (s : State) (n : Nat) : (s.advance n).recent = s.recent := rfl
@[simp] theorem State.advance_capGen (s : State) (n : Nat) : (s.advance n).capGen = s.capGen := rfl
@[simp] theorem State.advance_domain (s : State) (n : Nat) : (s.advance n).domain = s.domain := rfl
@[simp] theorem State.advance_lostPkgs (s : State) (n : Nat) : (s.advance n).lostPkgs = s.lostPkgs := rfl
@[simp] theorem State.advance_admq (s : State) (n : Nat) : (s.advance n).admq = s.admq := rfl
@[simp] theorem State.advance_admLast (s : State) (n : Nat) : (s.advance n).admLast = s.admLast := rfl
@[simp] theorem State.advance_nextLid (s : State) (n : Nat) : (s.advance n).nextLid = s.nextLid := rfl
@[simp] theorem State.advance_nextOrder (s : State) (n : Nat) : (s.advance n).nextOrder = s.nextOrder := rfl
@[simp] theorem State.advance_nextTeam (s : State) (n : Nat) : (s.advance n).nextTeam = s.nextTeam := rfl
@[simp] theorem State.advance_nextMark (s : State) (n : Nat) : (s.advance n).nextMark = s.nextMark := rfl
@[simp] theorem State.advance_prioWait (s : State) (n : Nat) : (s.advance n).prioWait = s.prioWait := rfl
@[simp] theorem State.advance_distFree (s : State) (n : Nat) : (s.advance n).distFree = s.distFree := rfl
@[simp] theorem State.advance_timetable (s : State) (n : Nat) : (s.advance n).timetable = s.timetable := rfl
@[simp] theorem State.advance_sessions (s : State) (n : Nat) : (s.advance n).sessions = s.sessions := rfl
@[simp] theorem State.advance_out (s : State) (n : Nat) : (s.advance n).out = s.out := rfl
@[simp] theorem State.advance_ports (s : State) (n : Nat) : (s.advance n).ports = s.ports := rfl
@[simp] theorem State.advance_routes (s : State) (n : Nat) : (s.advance n).routes = s.routes := rfl
@[simp] theorem State.advance_held (s : State) (n : Nat) : (s.advance n).held = s.held := rfl
@[simp] theorem State.advance_redir (s : State) (n : Nat) : (s.advance n).redir = s.redir := rfl
@[simp] theorem State.advance_fencing (s : State) (n : Nat) : (s.advance n).fencing = s.fencing := rfl
@[simp] theorem State.advance_power (s : State) (n : Nat) : (s.advance n).power = s.power := rfl
@[simp] theorem State.advance_bootSlot (s : State) (n : Nat) : (s.advance n).bootSlot = s.bootSlot := rfl
@[simp] theorem State.advance_bootFail (s : State) (n : Nat) : (s.advance n).bootFail = s.bootFail := rfl
@[simp] theorem State.advance_rollback (s : State) (n : Nat) : (s.advance n).rollback = s.rollback := rfl
@[simp] theorem State.advance_fatal (s : State) (n : Nat) : (s.advance n).fatal = s.fatal := rfl
@[simp] theorem State.advance_unlatch (s : State) (n : Nat) : (s.advance n).unlatch = s.unlatch := rfl
@[simp] theorem State.advance_errPend (s : State) (n : Nat) : (s.advance n).errPend = s.errPend := rfl
@[simp] theorem State.advance_corrTimes (s : State) (n : Nat) : (s.advance n).corrTimes = s.corrTimes := rfl
@[simp] theorem State.advance_healthSeq (s : State) (n : Nat) : (s.advance n).healthSeq = s.healthSeq := rfl
@[simp] theorem State.advance_thermtrip (s : State) (n : Nat) : (s.advance n).thermtrip = s.thermtrip := rfl
@[simp] theorem State.advance_mgmtAddr (s : State) (n : Nat) : (s.advance n).mgmtAddr = s.mgmtAddr := rfl
@[simp] theorem State.advance_mgmtq (s : State) (n : Nat) : (s.advance n).mgmtq = s.mgmtq := rfl
@[simp] theorem State.advance_badFrames (s : State) (n : Nat) : (s.advance n).badFrames = s.badFrames := rfl
@[simp] theorem State.advance_badDhp (s : State) (n : Nat) : (s.advance n).badDhp = s.badDhp := rfl
@[simp] theorem State.advance_fw (s : State) (n : Nat) : (s.advance n).fw = s.fw := rfl
@[simp] theorem State.advance_ptpSince (s : State) (n : Nat) : (s.advance n).ptpSince = s.ptpSince := rfl
@[simp] theorem State.advance_locked (s : State) (n : Nat) : (s.advance n).locked = s.locked := rfl
@[simp] theorem State.advance_codeTime (s : State) (n : Nat) : (s.advance n).codeTime = s.codeTime := rfl
@[simp] theorem State.advance_beaconTime (s : State) (n : Nat) : (s.advance n).beaconTime = s.beaconTime := rfl
@[simp] theorem State.advance_missed (s : State) (n : Nat) : (s.advance n).missed = s.missed := rfl
@[simp] theorem State.advance_later (s : State) (n : Nat) : (s.advance n).later = s.later := rfl
@[simp] theorem State.advance_capRec (s : State) (n : Nat) : (s.advance n).capRec = s.capRec := rfl
@[simp] theorem State.advance_mesh (s : State) (n : Nat) : (s.advance n).mesh = s.mesh := rfl
@[simp] theorem State.advance_links (s : State) (n : Nat) : (s.advance n).links = s.links := rfl
@[simp] theorem State.advance_draining (s : State) (n : Nat) : (s.advance n).draining = s.draining := rfl
@[simp] theorem State.advance_rejoins (s : State) (n : Nat) : (s.advance n).rejoins = s.rejoins := rfl
@[simp] theorem State.advance_ioImage (s : State) (n : Nat) : (s.advance n).ioImage = s.ioImage := rfl
@[simp] theorem State.advance_railIx (s : State) (n : Nat) : (s.advance n).railIx = s.railIx := rfl
@[simp] theorem State.advance_ipv4 (s : State) (n : Nat) : (s.advance n).ipv4 = s.ipv4 := rfl
@[simp] theorem State.advance_ipv6 (s : State) (n : Nat) : (s.advance n).ipv6 = s.ipv6 := rfl
@[simp] theorem State.advance_ag (s : State) (n : Nat) : (s.advance n).ag = s.ag := rfl
@[simp] theorem State.advance_cc (s : State) (n : Nat) : (s.advance n).cc = s.cc := rfl
@[simp] theorem State.advance_tm (s : State) (n : Nat) : (s.advance n).tm = s.tm := rfl
@[simp] theorem State.advance_la (s : State) (n : Nat) : (s.advance n).la = s.la := rfl
@[simp] theorem State.advance_cx (s : State) (n : Nat) : (s.advance n).cx = s.cx := rfl
@[simp] theorem State.advance_co (s : State) (n : Nat) : (s.advance n).co = s.co := rfl
@[simp] theorem State.advance_di (s : State) (n : Nat) : (s.advance n).di = s.di := rfl
@[simp] theorem State.advance_no (s : State) (n : Nat) : (s.advance n).no = s.no := rfl
@[simp] theorem State.advance_dr (s : State) (n : Nat) : (s.advance n).dr = s.dr := rfl
@[simp] theorem State.advance_cycle (s : State) (n : Nat) : (s.advance n).cycle = s.cycle + n := rfl

end Sys2Proof.Machine
end

