-- ==== Sys2Proof/Laws/Agent.lean ====
section
/-! SUPPORT. Registers of an agent: a read after a write, the write of a whole result, and what register writes leave alone. -/

namespace Sys2Proof.Machine

/-! ## Halves of a pair -/

@[simp] theorem pair_hi_lo (x : W64) : pair (hi32 x) (lo32 x) = x := by
  apply BitVec.eq_of_getLsbD_eq
  intro i hi
  simp only [pair, hi32, lo32, BitVec.getLsbD_append, BitVec.getLsbD_setWidth, BitVec.getLsbD_ushiftRight]
  by_cases h : i < 32
  · simp [h]
  · have : i - 32 < 32 := by omega
    simp [h, this, show 32 + (i - 32) = i by omega]

@[simp] theorem lo32_pair (h l : W32) : lo32 (pair h l) = l := by
  apply BitVec.eq_of_getLsbD_eq
  intro i hi
  simp only [pair, lo32, BitVec.getLsbD_setWidth, BitVec.getLsbD_append]
  simp [hi]

@[simp] theorem hi32_pair (h l : W32) : hi32 (pair h l) = h := by
  apply BitVec.eq_of_getLsbD_eq
  intro i hi
  simp only [pair, hi32, BitVec.getLsbD_setWidth, BitVec.getLsbD_ushiftRight, BitVec.getLsbD_append]
  simp [hi]

/-! ## Single registers -/

theorem Agent.putS_s32 (a : Agent) (r q : Nat) (x : W32) : (a.putS r x).s32 q = if q = r then x else a.s32 q := tget_tput _ _ _ _

@[simp] theorem Agent.putS_s32_same (a : Agent) (r : Nat) (x : W32) : (a.putS r x).s32 r = x := tget_tput_same _ _ _

@[simp] theorem Agent.putS_vreg (a : Agent) (r : Nat) (x : W32) : (a.putS r x).vreg = a.vreg := rfl
@[simp] theorem Agent.putS_kreg (a : Agent) (r : Nat) (x : W32) : (a.putS r x).kreg = a.kreg := rfl
@[simp] theorem Agent.putS_kind (a : Agent) (r : Nat) (x : W32) : (a.putS r x).kind = a.kind := rfl
@[simp] theorem Agent.putS_k (a : Agent) (r q : Nat) (x : W32) : (a.putS r x).k q = a.k q := rfl
@[simp] theorem Agent.putS_rest (a : Agent) (r : Nat) (x : W32) : (a.putS r x).rest = a.rest := rfl
@[simp] theorem Agent.putS_flags (a : Agent) (r : Nat) (x : W32) : (a.putS r x).flags = a.flags := rfl

/-- A scalar write leaves the vector registers of a group alone. -/
theorem Agent.putS_v32 (a : Agent) (r q l : Nat) (x : W32) (h : a.kind = .group) : (a.putS r x).v32 q l = a.v32 q l := by
  simp only [v32, putS_kind, putS_vreg, h, if_true]

/-- The lane of a register of a group after a write: lanes are below 64. -/
theorem Agent.putV_v32 (a : Agent) {r l q m : Nat} (x : W32) (h : a.kind = .group) (hl : l < 64) (hm : m < 64) :
    (a.putV r l x).v32 q m = if q = r ∧ m = l then x else a.v32 q m := by
  simp only [v32, putV, h, if_true, tget_tput]
  have : 64 * q + m = 64 * r + l ↔ q = r ∧ m = l := by omega
  simp only [this]

@[simp] theorem Agent.putV_kind (a : Agent) (r l : Nat) (x : W32) : (a.putV r l x).kind = a.kind := by unfold putV; split <;> rfl
@[simp] theorem Agent.putV_kreg (a : Agent) (r l : Nat) (x : W32) : (a.putV r l x).kreg = a.kreg := by unfold putV; split <;> rfl
@[simp] theorem Agent.putV_rest (a : Agent) (r l : Nat) (x : W32) : (a.putV r l x).rest = a.rest := by unfold putV; split <;> rfl
@[simp] theorem Agent.putV_flags (a : Agent) (r l : Nat) (x : W32) : (a.putV r l x).flags = a.flags := by unfold putV; split <;> rfl

/-- A vector write of a group leaves its scalar registers alone. -/
theorem Agent.putV_sreg (a : Agent) (r l : Nat) (x : W32) (h : a.kind = .group) : (a.putV r l x).sreg = a.sreg := by simp [putV, h]

@[simp] theorem Agent.putK_sreg (a : Agent) (r : Nat) (x m : LaneMask) : (a.putK r x m).sreg = a.sreg := by unfold putK; split <;> rfl
@[simp] theorem Agent.putK_vreg (a : Agent) (r : Nat) (x m : LaneMask) : (a.putK r x m).vreg = a.vreg := by unfold putK; split <;> rfl
@[simp] theorem Agent.putK_kind (a : Agent) (r : Nat) (x m : LaneMask) : (a.putK r x m).kind = a.kind := by unfold putK; split <;> rfl
@[simp] theorem Agent.putK_width (a : Agent) (r : Nat) (x m : LaneMask) : (a.putK r x m).width = a.width := by unfold putK; split <;> rfl
@[simp] theorem Agent.putK_rest (a : Agent) (r : Nat) (x m : LaneMask) : (a.putK r x m).rest = a.rest := by unfold putK; split <;> rfl
@[simp] theorem Agent.putK_flags (a : Agent) (r : Nat) (x m : LaneMask) : (a.putK r x m).flags = a.flags := by unfold putK; split <;> rfl

/-- A write to k0 is discarded (R18). -/
@[simp] theorem Agent.putK_zero (a : Agent) (x m : LaneMask) : a.putK 0 x m = a := rfl

/-- A predicate register after a write: the bits under the mask change, within the width (R18). -/
theorem Agent.putK_k (a : Agent) (r q : Nat) (x m : LaneMask) :
    (a.putK r x m).k q = if q = r ∧ r ≠ 0 then ((a.k r &&& ~~~ m) ||| (x &&& m)) &&& allLanes a.width else a.k q := by
  by_cases hr : r = 0
  · simp [hr]
  · unfold k
    by_cases hq : q = r
    · simp [hq, hr, putK, k]
    · by_cases h0 : q = 0
      · simp [h0, hr, Ne.symm hr]
      · simp [hq, h0, hr, putK, tget_tput_other _ _ hq]

/-! ## Whole results -/

@[simp] theorem Agent.write_kind (a : Agent) (w : RegW) : (a.write w).kind = a.kind := by
  cases w with
  | s r x => rfl
  | k r x m => simp [write]
  | v r xs =>
    simp only [write]
    induction xs generalizing a with
    | nil => rfl
    | cons p xs ih => simp [ih]

@[simp] theorem Agent.write_rest (a : Agent) (w : RegW) : (a.write w).rest = a.rest := by
  cases w with
  | s r x => rfl
  | k r x m => simp [write]
  | v r xs =>
    simp only [write]
    induction xs generalizing a with
    | nil => rfl
    | cons p xs ih => simp [ih]

@[simp] theorem Agent.write_flags (a : Agent) (w : RegW) : (a.write w).flags = a.flags := by
  cases w with
  | s r x => rfl
  | k r x m => simp [write]
  | v r xs =>
    simp only [write]
    induction xs generalizing a with
    | nil => rfl
    | cons p xs ih => simp [ih]

/-- The registers after a list of writes. -/
def Agent.writes (a : Agent) (ws : List RegW) : Agent := ws.foldl Agent.write a

@[simp] theorem Agent.writes_nil (a : Agent) : a.writes [] = a := rfl
@[simp] theorem Agent.writes_cons (a : Agent) (w : RegW) (ws : List RegW) : a.writes (w :: ws) = (a.write w).writes ws := rfl
theorem Agent.writes_append (a : Agent) (ws xs : List RegW) : a.writes (ws ++ xs) = (a.writes ws).writes xs := List.foldl_append

@[simp] theorem Agent.writes_kind (a : Agent) (ws : List RegW) : (a.writes ws).kind = a.kind := by
  induction ws generalizing a with
  | nil => rfl
  | cons w ws ih => simp [ih]

@[simp] theorem Agent.writes_rest (a : Agent) (ws : List RegW) : (a.writes ws).rest = a.rest := by
  induction ws generalizing a with
  | nil => rfl
  | cons w ws ih => simp [ih]

@[simp] theorem Agent.writes_flags (a : Agent) (ws : List RegW) : (a.writes ws).flags = a.flags := by
  induction ws generalizing a with
  | nil => rfl
  | cons w ws ih => simp [ih]

/-- Two agents of one kind and width with the same registers have the same registers after the same writes. -/
theorem Agent.write_congr {a b : Agent} (hk : a.kind = b.kind) (hw : a.width = b.width) (hs : a.sreg = b.sreg) (hv : a.vreg = b.vreg) (hp : a.kreg = b.kreg)
    (w : RegW) : (a.write w).sreg = (b.write w).sreg ∧ (a.write w).vreg = (b.write w).vreg ∧ (a.write w).kreg = (b.write w).kreg := by
  cases w with
  | s r x => simp [write, putS, hs, hv, hp]
  | k r x m =>
    simp only [write, putK]
    split
    · exact ⟨hs, hv, hp⟩
    · simp only [k, hw, hp]
      exact ⟨hs, hv, trivial⟩
  | v r xs =>
    simp only [write]
    induction xs generalizing a b with
    | nil => exact ⟨hs, hv, hp⟩
    | cons p xs ih =>
      simp only [List.foldl_cons]
      have hwid (c : Agent) : (c.putV r p.1 p.2).width = c.width := by unfold putV; split <;> rfl
      apply ih
      · simp [hk]
      · rw [hwid, hwid, hw]
      · unfold putV
        rw [hk]
        split <;> simp [putS, hs]
      · unfold putV
        rw [hk]
        split <;> simp [hv]
      · simp [hp]

@[simp] theorem Agent.write_width (a : Agent) (w : RegW) : (a.write w).width = a.width :=
  (congrArg Agent.width (a.write_rest w) : (a.write w).rest.width = a.rest.width)

theorem Agent.writes_congr {a b : Agent} (hk : a.kind = b.kind) (hw : a.width = b.width) (hs : a.sreg = b.sreg) (hv : a.vreg = b.vreg) (hp : a.kreg = b.kreg)
    (ws : List RegW) : (a.writes ws).sreg = (b.writes ws).sreg ∧ (a.writes ws).vreg = (b.writes ws).vreg ∧ (a.writes ws).kreg = (b.writes ws).kreg := by
  induction ws generalizing a b with
  | nil => exact ⟨hs, hv, hp⟩
  | cons w ws ih =>
    obtain ⟨h1, h2, h3⟩ := write_congr hk hw hs hv hp w
    exact ih (by simp [hk]) (by simp [hw]) h1 h2 h3

/-- A scalar result reads back at its width. -/
theorem Agent.sw_writes_wS (a : Agent) (w64 : Bool) (r : BitVec n) (x : W64) : (a.writes (wS w64 r x)).sw w64 r.toNat = atWidth w64 x := by
  cases w64
  · simp [wS, write, sw, atWidth, lo32]
  · simp [wS, write, sw, atWidth, s64, putS_s32]

/-- A scalar result leaves every other scalar register alone. -/
theorem Agent.s32_writes_wS (a : Agent) (w64 : Bool) (r : BitVec n) (x : W64) {q : Nat} (h : q ≠ r.toNat) (h' : w64 = true → q ≠ r.toNat + 1) :
    (a.writes (wS w64 r x)).s32 q = a.s32 q := by
  cases w64
  · simp [wS, write, putS_s32, h]
  · simp [wS, write, putS_s32, h, h']

@[simp] theorem Agent.vreg_writes_wS (a : Agent) (w64 : Bool) (r : BitVec n) (x : W64) : (a.writes (wS w64 r x)).vreg = a.vreg := by cases w64 <;> rfl
@[simp] theorem Agent.kreg_writes_wS (a : Agent) (w64 : Bool) (r : BitVec n) (x : W64) : (a.writes (wS w64 r x)).kreg = a.kreg := by cases w64 <;> rfl

/-- The lanes of one register after a vector write of a group: listed lanes are below 64 and listed once. -/
theorem Agent.v32_write_v (a : Agent) (r : Nat) (f : Nat → W32) (ls : List Nat) (h : a.kind = .group) (hl : ∀ l ∈ ls, l < 64) {q m : Nat} (hm : m < 64) :
    (a.write (.v r (ls.map (fun l => (l, f l))))).v32 q m = if q = r ∧ m ∈ ls then f m else a.v32 q m := by
  simp only [write]
  induction ls generalizing a with
  | nil => simp
  | cons l ls ih =>
    simp only [List.map_cons, List.foldl_cons]
    rw [ih _ (by simp [h]) (fun x hx => hl x (List.mem_cons_of_mem _ hx)), putV_v32 a (f l) h (hl l (by simp)) hm]
    by_cases hq : q = r <;> by_cases hml : m = l <;> by_cases hls : m ∈ ls <;> simp [hq, hml, hls]

/-- Listed lanes are below 64. -/
theorem lanesOf_lt {m : LaneMask} {l : Nat} (h : l ∈ lanesOf m) : l < 64 := by
  simp only [lanesOf, List.mem_filter, List.mem_range] at h
  exact h.1

/-- A lane is listed exactly when it is below 64 and its bit is set. -/
theorem mem_lanesOf {m : LaneMask} {l : Nat} : l ∈ lanesOf m ↔ m.getLsbD l = true := by
  simp only [lanesOf, List.mem_filter, List.mem_range]
  constructor
  · exact And.right
  · intro h
    exact ⟨BitVec.lt_of_getLsbD h, h⟩

/-- A vector result reads back at its width in every lane written. -/
theorem Agent.vw_writes_wV (a : Agent) (w64 : Bool) (r : BitVec n) (f : Nat → W64) (act : LaneMask) (h : a.kind = .group) {l : Nat} (hl : act.getLsbD l = true) :
    (a.writes (wV w64 r ((lanesOf act).map (fun l => (l, f l))))).vw w64 r.toNat l = atWidth w64 (f l) := by
  have hm := mem_lanesOf.2 hl
  have h64 := lanesOf_lt hm
  cases w64
  · simp only [wV, List.map_map, Function.comp_def, Bool.false_eq_true, if_false, writes_cons, writes_nil, vw, atWidth]
    rw [v32_write_v a _ (fun l => lo32 (f l)) _ h (fun _ => lanesOf_lt) h64]
    simp [hm, lo32]
  · simp only [wV, List.map_map, Function.comp_def, if_true, writes_cons, writes_nil, vw, v64, atWidth]
    rw [v32_write_v _ _ (fun l => hi32 (f l)) _ (by simp [h]) (fun _ => lanesOf_lt) h64,
      v32_write_v _ _ (fun l => hi32 (f l)) _ (by simp [h]) (fun _ => lanesOf_lt) h64,
      v32_write_v a _ (fun l => lo32 (f l)) _ h (fun _ => lanesOf_lt) (q := r.toNat) h64]
    simp [hm]

/-- A vector result leaves the lanes not written, and every other register, alone. -/
theorem Agent.v32_writes_wV (a : Agent) (w64 : Bool) (r : BitVec n) (f : Nat → W64) (act : LaneMask) (h : a.kind = .group) {q l : Nat} (hl : l < 64)
    (hn : ¬ (act.getLsbD l = true ∧ (q = r.toNat ∨ w64 = true ∧ q = r.toNat + 1))) :
    (a.writes (wV w64 r ((lanesOf act).map (fun l => (l, f l))))).v32 q l = a.v32 q l := by
  rw [← mem_lanesOf] at hn
  cases w64
  · simp only [wV, List.map_map, Function.comp_def, Bool.false_eq_true, if_false, writes_cons, writes_nil]
    rw [v32_write_v a _ (fun l => lo32 (f l)) _ h (fun _ => lanesOf_lt) hl, if_neg]
    rintro ⟨h1, h2⟩
    exact hn ⟨h2, .inl h1⟩
  · simp only [wV, List.map_map, Function.comp_def, if_true, writes_cons, writes_nil]
    rw [v32_write_v _ _ (fun l => hi32 (f l)) _ (by simp [h]) (fun _ => lanesOf_lt) hl,
      v32_write_v a _ (fun l => lo32 (f l)) _ h (fun _ => lanesOf_lt) hl]
    by_cases hm : l ∈ lanesOf act <;> simp_all

theorem Agent.write_v_regs (a : Agent) (r : Nat) (xs : Tab W32) (h : a.kind = .group) :
    (a.write (.v r xs)).sreg = a.sreg ∧ (a.write (.v r xs)).kreg = a.kreg := by
  simp only [write]
  induction xs generalizing a with
  | nil => simp
  | cons p xs ih =>
    simp only [List.foldl_cons]
    obtain ⟨h1, h2⟩ := ih (a.putV r p.1 p.2) (by simp [h])
    exact ⟨h1.trans (putV_sreg a r p.1 p.2 h), h2.trans (by simp)⟩

/-- A vector result of a group leaves its scalar and predicate registers alone. -/
theorem Agent.writes_wV_regs (a : Agent) (w64 : Bool) (r : BitVec n) (xs : List (Nat × W64)) (h : a.kind = .group) :
    (a.writes (wV w64 r xs)).sreg = a.sreg ∧ (a.writes (wV w64 r xs)).kreg = a.kreg := by
  cases w64
  · simpa [wV] using write_v_regs a r.toNat (xs.map (fun p => (p.1, lo32 p.2))) h
  · simp only [wV, if_true, writes_cons, writes_nil]
    obtain ⟨h1, h2⟩ := write_v_regs a r.toNat (xs.map (fun p => (p.1, lo32 p.2))) h
    obtain ⟨h3, h4⟩ := write_v_regs (a.write (.v r.toNat (xs.map (fun p => (p.1, lo32 p.2))))) (r.toNat + 1) (xs.map (fun p => (p.1, hi32 p.2))) (by simp [h])
    exact ⟨h3.trans h1, h4.trans h2⟩

end Sys2Proof.Machine
end

