-- ==== Sys2Proof/Laws/Issue.lean ====
section
/-! SUPPORT. Issuing a word: where each trap of R155 comes from, what a ready word answers, and what completing one changes. -/

namespace Sys2Proof.Machine

/-! ## What ready means -/

theorem State.ready_iff (s : State) (i : Instr) : s.ready i = true ↔
    s.me.live = true ∧ i.wf = true ∧ s.me.issueTrap (s.shapeOf i) = none ∧ s.tooEarly i = none ∧ s.effective i = true := by
  simp [ready, and_assoc]

/-- A ready word runs its own effect over the registers as it reads them. -/
theorem issue_ready {s : State} {i : Instr} (h : s.ready i = true) (body : State → Agent → LaneMask → Except Trap Done) :
    issue i s body = s.finish i (body (s.begun i) (s.sees i) (s.lanes i)) := by
  obtain ⟨h1, h2, h3, h4, h5⟩ := (State.ready_iff s i).1 h
  simp [issue, h1, h2, h3, h4, h5]

/-- A word with no effect of its own to run (R55): only the program counter and the next word's time move. -/
theorem issue_idle {s : State} {i : Instr} (h1 : s.me.live = true) (h2 : i.wf = true) (h3 : s.me.issueTrap (s.shapeOf i) = none)
    (h4 : s.tooEarly i = none) (h5 : s.effective i = false) (body : State → Agent → LaneMask → Except Trap Done) :
    issue i s body = .next (State.complete s.cur (s.shapeOf i) (s.startOf i) i.size { s := s.begun i }) := by
  simp [issue, h1, h2, h3, h4, h5, State.finish]

/-- What a word completes with when its effect neither traps nor traps after it. -/
theorem State.finish_done (s : State) (i : Instr) (d : Done) (h1 : d.trap = none) (h2 : d.late = none) :
    s.finish i (.ok d) = .next (State.complete s.cur (s.shapeOf i) (s.startOf i) i.size d) := by simp [finish, h1, h2]

/-! ## The state a word begins in -/

theorem State.begun_cases (s : State) (i : Instr) :
    s.begun i = { s.advance (s.startOf i - s.cycle) with fresh := (s.seesFrom i).2 } ∨
    s.begun i = State.setAg { s.advance (s.startOf i - s.cycle) with fresh := (s.seesFrom i).2 } s.cur { s.me with inRestore := false } := by
  unfold begun
  split
  · exact .inr rfl
  · exact .inl rfl

@[simp] theorem State.begun_cur (s : State) (i : Instr) : (s.begun i).cur = s.cur := by
  rcases begun_cases s i with h | h <;> rw [h] <;> rfl

/-- Before a word's effect nothing but the clock and the restore bit has moved. -/
theorem State.begun_rest (s : State) (i : Instr) : (s.begun i).rest = s.rest := by
  rcases begun_cases s i with h | h <;> rw [h] <;> rfl

theorem State.begun_ag_other (s : State) (i : Instr) {k : Nat} (h : k ≠ s.cur) : (s.begun i).ag k = s.ag k := by
  rcases begun_cases s i with e | e <;> rw [e]
  · rfl
  · rw [setAg_ag_other _ _ h]
    rfl

theorem State.begun_me (s : State) (i : Instr) : (s.begun i).ag s.cur = s.me ∨ (s.begun i).ag s.cur = { s.me with inRestore := false } := by
  rcases begun_cases s i with e | e <;> rw [e]
  · exact .inl rfl
  · exact .inr (setAg_ag _ _ _)

/-- The word's agent as its effect finds it: registers as they were. -/
theorem State.begun_me_regs (s : State) (i : Instr) :
    ((s.begun i).ag s.cur).sreg = s.me.sreg ∧ ((s.begun i).ag s.cur).vreg = s.me.vreg ∧ ((s.begun i).ag s.cur).kreg = s.me.kreg ∧
    ((s.begun i).ag s.cur).flags = s.me.flags ∧ ((s.begun i).ag s.cur).kind = s.me.kind ∧ ((s.begun i).ag s.cur).width = s.me.width ∧
    ((s.begun i).ag s.cur).pc = s.me.pc ∧ ((s.begun i).ag s.cur).rest = s.me.rest := by
  rcases begun_me s i with e | e <;> rw [e] <;> exact ⟨rfl, rfl, rfl, rfl, rfl, rfl, rfl, rfl⟩

/-! ## Completing -/

@[simp] theorem State.complete_gone (key : Nat) (sh : Shape) (t size : Nat) (d : Done) (h : d.gone = true) : State.complete key sh t size d = d.s := by
  simp [complete, h]

/-- Completing a word changes nothing but its agent. -/
theorem State.complete_rest (key : Nat) (sh : Shape) (t size : Nat) (d : Done) : (State.complete key sh t size d).rest = d.s.rest := by
  unfold complete
  split <;> rfl

theorem State.complete_cur (key : Nat) (sh : Shape) (t size : Nat) (d : Done) : (State.complete key sh t size d).cur = d.s.cur := by
  unfold complete
  split <;> rfl

theorem State.complete_ag_other (key : Nat) (sh : Shape) (t size : Nat) (d : Done) {k : Nat} (h : k ≠ key) :
    (State.complete key sh t size d).ag k = d.s.ag k := by
  unfold complete
  split
  · rfl
  · exact setAg_ag_other _ _ h

/-- What completing a word does to its agent: its results are written, its flags raised, its program counter moved; what it holds
besides stays. -/
theorem State.complete_me (key : Nat) (sh : Shape) (t size : Nat) (d : Done) (h : d.gone = false) :
    let b := (State.complete key sh t size d).ag key
    let a := d.s.ag key
    b.sreg = (a.writes d.ws).sreg ∧ b.vreg = (a.writes d.ws).vreg ∧ b.kreg = (a.writes d.ws).kreg ∧ b.flags = a.flags ||| d.fl ∧
      b.pc = d.pc.getD (a.pc + BitVec.ofNat 64 size) ∧ b.wait = d.wait ∧ b.rest = a.rest := by
  simp only [complete, h, Bool.false_eq_true, if_false, setAg_ag]
  refine ⟨rfl, rfl, rfl, ?_, trivial, trivial, ?_⟩
  · exact congrArg (· ||| d.fl) (Agent.writes_flags _ d.ws)
  · exact Agent.writes_rest (d.s.ag key) d.ws

/-! ## Words that only write registers -/

/-- What a ready word does whose effect is register writes and flags alone: those writes over the registers, the flags raised, the
program counter past the word, and nothing else anywhere. -/
theorem issueRegs_ready {s : State} {i : Instr} (h : s.ready i = true) (f : Agent → LaneMask → List RegW × BitVec 6) :
    ∃ t, issueRegs i s f = .next t ∧ KeptButMe s t ∧ t.cur = s.cur ∧
      t.me.sreg = (s.me.writes (f (s.sees i) (s.lanes i)).1).sreg ∧ t.me.vreg = (s.me.writes (f (s.sees i) (s.lanes i)).1).vreg ∧
      t.me.kreg = (s.me.writes (f (s.sees i) (s.lanes i)).1).kreg ∧ t.me.flags = s.me.flags ||| (f (s.sees i) (s.lanes i)).2 ∧
      t.me.pc = s.me.pc + BitVec.ofNat 64 i.size ∧ t.me.rest = s.me.rest := by
  refine ⟨_, by unfold issueRegs; rw [issue_ready h, State.finish_done _ _ _ rfl rfl], ⟨?_, fun k hk => ?_⟩, ?_, ?_⟩
  · rw [State.complete_rest, State.begun_rest]
  · rw [State.complete_ag_other _ _ _ _ _ hk, State.begun_ag_other _ _ hk]
  · rw [State.complete_cur, State.begun_cur]
  · obtain ⟨e1, e2, e3, e4, e5, e6, e7, e8⟩ := State.begun_me_regs s i
    have hc : State.me (State.complete s.cur (s.shapeOf i) (s.startOf i) i.size
        { s := s.begun i, ws := (f (s.sees i) (s.lanes i)).1, fl := (f (s.sees i) (s.lanes i)).2 }) =
        (State.complete s.cur (s.shapeOf i) (s.startOf i) i.size
        { s := s.begun i, ws := (f (s.sees i) (s.lanes i)).1, fl := (f (s.sees i) (s.lanes i)).2 }).ag s.cur := by
      rw [State.me, State.complete_cur, State.begun_cur]
    rw [hc]
    obtain ⟨c1, c2, c3, c4, c5, _, c7⟩ := State.complete_me s.cur (s.shapeOf i) (s.startOf i) i.size
        { s := s.begun i, ws := (f (s.sees i) (s.lanes i)).1, fl := (f (s.sees i) (s.lanes i)).2 } rfl
    obtain ⟨g1, g2, g3⟩ := Agent.writes_congr e5 e6 e1 e2 e3 (f (s.sees i) (s.lanes i)).1
    refine ⟨c1.trans g1, c2.trans g2, c3.trans g3, c4.trans ?_, c5.trans ?_, c7.trans e8⟩
    · exact congrArg (· ||| _) e4
    · exact congrArg (· + _) e7

end Sys2Proof.Machine
end

