-- ==== Sys2Proof/Laws/Memory.lean ====
section
/-! SUPPORT. Memory in canonical form: every write keeps it, a read after a write gives what was written, and memories that read alike
are equal. -/

namespace Sys2Proof.Machine

/-- The canonical form, said without recursion: addresses strictly rising, no listed zero. -/
theorem Mem.wf_iff (m : Mem) : m.wf = true ↔ (m.Pairwise (fun c d => c.1 < d.1) ∧ ∀ c ∈ m, c.2 ≠ 0) := by
  induction m with
  | nil => simp [Mem.wf]
  | cons c m ih =>
    cases m with
    | nil => simp [Mem.wf]
    | cons d m =>
      rw [Mem.wf, Bool.and_eq_true, Bool.and_eq_true, ih]
      simp only [List.pairwise_cons, List.mem_cons, forall_eq_or_imp, decide_eq_true_eq, bne_iff_ne, ne_eq]
      constructor
      · rintro ⟨⟨h0, h1⟩, ⟨h2, h3⟩, h4, h5⟩
        exact ⟨⟨⟨h1, fun x hx => h1.trans (h2 x hx)⟩, h2, h3⟩, h0, h4, h5⟩
      · rintro ⟨⟨⟨h1, _⟩, h2, h3⟩, h0, h4, h5⟩
        exact ⟨⟨h0, h1⟩, ⟨h2, h3⟩, h4, h5⟩

theorem Mem.wf_nil : Mem.wf [] = true := rfl

/-- The tail of a canonical memory is canonical. -/
theorem Mem.wf_tail {c : Host.Cell} {m : Mem} (h : Mem.wf (c :: m) = true) : m.wf = true := by
  rw [Mem.wf_iff] at *
  exact ⟨h.1.of_cons, fun x hx => h.2 x (List.mem_cons_of_mem _ hx)⟩

/-- A part of a canonical memory is canonical. -/
theorem Mem.wf_filter {m : Mem} (p : Host.Cell → Bool) (h : m.wf = true) : Mem.wf (m.filter p) = true := by
  rw [Mem.wf_iff] at *
  exact ⟨h.1.filter _, fun c hc => h.2 c (List.mem_of_mem_filter hc)⟩

/-- Every address a write leaves was there or is the one written. -/
theorem memPut_mem {m : Mem} {a : Nat} {b : Byte} {c : Host.Cell} (h : c ∈ memPut m a b) : c ∈ m ∨ (c = (a, b) ∧ b ≠ 0) := by
  induction m with
  | nil =>
    unfold memPut at h
    split at h
    · simp at h
    · next hb => simp at h; exact .inr ⟨h, hb⟩
  | cons d m ih =>
    unfold memPut at h
    split at h
    · rcases List.mem_cons.1 h with h | h
      · exact .inl (by simp [h])
      · exact (ih h).imp (List.mem_cons_of_mem _) id
    · split at h
      · split at h
        · exact .inl (List.mem_cons_of_mem _ h)
        · next hb =>
          rcases List.mem_cons.1 h with h | h
          · exact .inr ⟨h, hb⟩
          · exact .inl (List.mem_cons_of_mem _ h)
      · split at h
        · exact .inl h
        · next hb =>
          rcases List.mem_cons.1 h with h | h
          · exact .inr ⟨h, hb⟩
          · exact .inl h

/-- A byte write keeps the canonical form. -/
theorem memPut_wf {m : Mem} (a : Nat) (b : Byte) (h : m.wf = true) : Mem.wf (memPut m a b) = true := by
  rw [Mem.wf_iff] at *
  refine ⟨?_, fun c hc => ?_⟩
  · obtain ⟨hs, hz⟩ := h
    induction m with
    | nil => unfold memPut; split <;> simp
    | cons d m ih =>
      rw [List.pairwise_cons] at hs
      unfold memPut
      split
      · next hlt =>
        refine List.pairwise_cons.2 ⟨fun x hx => ?_, ih hs.2 (fun c hc => hz c (List.mem_cons_of_mem _ hc))⟩
        rcases memPut_mem hx with hx | hx
        · exact hs.1 x hx
        · simpa [hx.1] using hlt
      · next hge =>
        split
        · next he =>
          split
          · exact hs.2
          · exact List.pairwise_cons.2 ⟨fun x hx => he ▸ hs.1 x hx, hs.2⟩
        · next hne =>
          split
          · exact List.pairwise_cons.2 hs
          · have : a < d.1 := by omega
            refine List.pairwise_cons.2 ⟨fun x hx => ?_, List.pairwise_cons.2 hs⟩
            rcases List.mem_cons.1 hx with hx | hx
            · simpa [hx] using this
            · exact this.trans (hs.1 x hx)
  · rcases memPut_mem hc with hc | ⟨rfl, hb⟩
    · exact h.2 c hc
    · exact hb

/-- A write of bytes keeps the canonical form. -/
theorem memPutBytes_wf {m : Mem} (a : Nat) (bs : List Byte) (h : m.wf = true) : Mem.wf (memPutBytes m a bs) = true := by
  induction bs generalizing m a with
  | nil => exact h
  | cons b bs ih => exact ih _ (memPut_wf a b h)

/-- A write of masked bytes of a line keeps the canonical form. -/
theorem memPutLine_wf {m : Mem} (l : Nat) (d : BitVec 1024) (mask : BitVec 128) (h : m.wf = true) : Mem.wf (memPutLine m l d mask) = true := by
  unfold memPutLine
  generalize List.range 128 = is
  induction is generalizing m with
  | nil => exact h
  | cons i is ih =>
    simp only [List.foldl_cons]
    apply ih
    split
    · exact memPut_wf _ _ h
    · exact h

/-- A byte write leaves every other byte alone. -/
theorem memGet_memPut_other (m : Mem) {a x : Nat} (b : Byte) (h : x ≠ a) : memGet (memPut m a b) x = memGet m x := by
  unfold memGet tfind
  congr 2
  induction m with
  | nil => unfold memPut; split <;> simp [h.symm]
  | cons c m ih =>
    unfold memPut
    split
    · by_cases hc : c.1 = x <;> simp [hc, ih]
    · split
      · next hc => split <;> simp [hc, h.symm]
      · split
        · rfl
        · simp [h.symm]

/-- No listed address below the first. -/
theorem memGet_below {m : Mem} {x : Nat} (hx : ∀ c ∈ m, x < c.1) : memGet m x = 0 := by
  have : tfind m x = none := by
    simp only [tfind, Option.map_eq_none_iff, List.find?_eq_none, beq_iff_eq]
    exact fun c hc => (Nat.ne_of_lt (hx c hc)).symm
  simp [memGet, this]

/-- A byte reads back as written. -/
theorem memGet_memPut_same {m : Mem} (a : Nat) (b : Byte) (h : m.wf = true) : memGet (memPut m a b) a = b := by
  induction m with
  | nil => unfold memPut; split <;> simp_all [memGet, tfind]
  | cons c m ih =>
    have hs := ((Mem.wf_iff _).1 h).1
    rw [List.pairwise_cons] at hs
    unfold memPut
    split
    · next hc =>
      have := ih (Mem.wf_tail h)
      simpa [memGet, tfind, Nat.ne_of_lt hc] using this
    · next hge =>
      split
      · next he =>
        split
        · next hb =>
          rw [memGet_below (fun x hx => he ▸ hs.1 x hx), hb]
        · simp [memGet, tfind]
      · next hne =>
        split
        · next hb =>
          rw [memGet_below, hb]
          intro x hx
          have : a < c.1 := by omega
          rcases List.mem_cons.1 hx with hx | hx
          · simpa [hx] using this
          · exact this.trans (hs.1 x hx)
        · simp [memGet, tfind]

/-- Any byte after a write. -/
theorem memGet_memPut {m : Mem} (a x : Nat) (b : Byte) (h : m.wf = true) : memGet (memPut m a b) x = if x = a then b else memGet m x := by
  split
  · next e => rw [e, memGet_memPut_same a b h]
  · next e => exact memGet_memPut_other m b e

/-- A write of bytes leaves every byte outside them alone. -/
theorem memGet_memPutBytes_other (m : Mem) (a : Nat) (bs : List Byte) {x : Nat} (h : x < a ∨ a + bs.length ≤ x) :
    memGet (memPutBytes m a bs) x = memGet m x := by
  induction bs generalizing m a with
  | nil => rfl
  | cons b bs ih =>
    simp only [List.length_cons] at h
    rw [memPutBytes, ih _ _ (by omega), memGet_memPut_other _ _ (by omega)]

/-- Bytes read back as written. -/
theorem memGet_memPutBytes_same {m : Mem} (a : Nat) (bs : List Byte) (h : m.wf = true) (i : Nat) (hi : i < bs.length) :
    memGet (memPutBytes m a bs) (a + i) = bs[i] := by
  induction bs generalizing m a i with
  | nil => simp at hi
  | cons b bs ih =>
    rw [memPutBytes]
    cases i with
    | zero => rw [memGet_memPutBytes_other _ _ _ (by omega), Nat.add_zero, memGet_memPut_same _ _ h]; rfl
    | succ i =>
      have := ih (a + 1) (memPut_wf a b h) i (by simpa using hi)
      rw [show a + (i + 1) = a + 1 + i by omega, this]
      rfl

/-- Bytes read after a write of as many. -/
theorem memBytes_memPutBytes {m : Mem} (a : Nat) (bs : List Byte) (h : m.wf = true) : memBytes (memPutBytes m a bs) a bs.length = bs := by
  apply List.ext_getElem
  · simp [memBytes]
  · intro i h1 h2
    simp [memBytes, memGet_memPutBytes_same a bs h i h2]

/-- Canonical memories that read alike are equal. -/
theorem Mem.ext {m n : Mem} (hm : m.wf = true) (hn : n.wf = true) (h : ∀ a, memGet m a = memGet n a) : m = n := by
  induction m generalizing n with
  | nil =>
    cases n with
    | nil => rfl
    | cons d n =>
      have hz := ((Mem.wf_iff _).1 hn).2 d (by simp)
      have := h d.1
      simp [memGet, tfind] at this
      exact absurd this.symm hz
  | cons c m ih =>
    have hcz := ((Mem.wf_iff _).1 hm).2 c (by simp)
    have hcs := (List.pairwise_cons.1 ((Mem.wf_iff _).1 hm).1).1
    cases n with
    | nil =>
      have := h c.1
      simp [memGet, tfind] at this
      exact absurd this hcz
    | cons d n =>
      have hdz := ((Mem.wf_iff _).1 hn).2 d (by simp)
      have hds := (List.pairwise_cons.1 ((Mem.wf_iff _).1 hn).1).1
      have below {e : Host.Cell} {l : Mem} (hl : Mem.wf (e :: l) = true) {x : Nat} (hx : x < e.1) : memGet (e :: l) x = 0 := by
        refine memGet_below fun y hy => ?_
        rcases List.mem_cons.1 hy with hy | hy
        · simpa [hy] using hx
        · exact hx.trans ((List.pairwise_cons.1 ((Mem.wf_iff _).1 hl).1).1 y hy)
      have first {e : Host.Cell} {l : Mem} : memGet (e :: l) e.1 = e.2 := by simp [memGet, tfind]
      have hk : c.1 = d.1 := by
        rcases Nat.lt_trichotomy c.1 d.1 with hlt | he | hgt
        · exact absurd (first.symm.trans ((h c.1).trans (below hn hlt))) hcz
        · exact he
        · exact absurd (first.symm.trans ((h d.1).symm.trans (below hm hgt))) hdz
      have hv : c.2 = d.2 := by
        have := h c.1
        rw [first, hk, first] at this
        exact this
      have hcd : c = d := Prod.ext hk hv
      rw [hcd, ih (Mem.wf_tail hm) (Mem.wf_tail hn) fun a => ?_]
      by_cases ha : a = c.1
      · rw [ha, memGet_below hcs, hk, memGet_below hds]
      · have := h a
        simpa [memGet, tfind, ← hk, Ne.symm ha] using this

end Sys2Proof.Machine
end

