-- ==== Sys2Proof/Laws/Remote.lean ====
section
/-! SUPPORT. Requests that leave the package: what sending, waiting and ending one leave alone. -/

namespace Sys2Proof.Machine

/-- Before a word's effect no request has moved. -/
@[simp] theorem State.begun_reqs (s : State) (i : Instr) : (s.begun i).reqs = s.reqs := by
  rcases begun_cases s i with h | h <;> rw [h] <;> rfl

@[simp] theorem State.begun_owes (s : State) (i : Instr) (k : Nat) : (s.begun i).owes k = s.owes k := by simp [owes]

/-- Waking an agent changes that agent alone. -/
theorem State.wakeAgent_frame (s : State) (key : Nat) :
    (s.wakeAgent key).mem = s.mem ∧ (s.wakeAgent key).reqs = s.reqs ∧ (s.wakeAgent key).cores = s.cores ∧ (s.wakeAgent key).teams = s.teams ∧
    (s.wakeAgent key).todo = s.todo ∧
    ∀ k, k ≠ key → (s.wakeAgent key).ag k = s.ag k := by
  dsimp only [wakeAgent]
  split
  · exact ⟨rfl, rfl, rfl, rfl, rfl, fun k h => setAg_ag_other _ _ h⟩
  · exact ⟨rfl, rfl, rfl, rfl, rfl, fun _ _ => rfl⟩

/-- Sending a request changes its core's slots and landing lines, the tags, the requests, what goes out, and of the agents the one that sends a
`red`, which need not wait for its answer. -/
theorem State.launchReq_frame (s : State) (q : Req) :
    (s.launchReq q).mem = s.mem ∧ (s.launchReq q).teams = s.teams ∧ (s.launchReq q).todo = s.todo ∧
    (∀ k, k ≠ coreKey q.die q.core → (s.launchReq q).co k = s.co k) ∧ (∀ k, k ≠ q.agent → (s.launchReq q).ag k = s.ag k) := by
  dsimp only [launchReq]
  split
  · refine ⟨?_, ?_, ?_, fun k hk => ?_, fun k hk => ?_⟩
    · rw [(wakeAgent_frame _ _).1]; rfl
    · rw [(wakeAgent_frame _ _).2.2.2.1]; rfl
    · rw [(wakeAgent_frame _ _).2.2.2.2.1]; rfl
    · simp only [co, (wakeAgent_frame _ _).2.2.1]; exact setCo_co_other _ _ hk
    · rw [(wakeAgent_frame _ _).2.2.2.2.2 k hk]; rfl
  · exact ⟨rfl, rfl, rfl, fun k hk => setCo_co_other _ _ hk, fun _ _ => rfl⟩

/-- One that keeps its agent at its word leaves every agent as it is. -/
theorem State.launchReq_agents (s : State) (q : Req) (h : q.kind = .line ∨ q.dst.isSome = true) : (s.launchReq q).agents = s.agents := by
  dsimp only [launchReq]
  split
  · rename_i c
    rcases h with h | h
    · rw [h] at c; exact absurd c.1 (by decide)
    · rw [Option.isNone_iff_eq_none] at c; rw [c.2] at h; cases h
  · rfl

theorem State.addReq_frame (s : State) (q : Req) :
    (s.addReq q).mem = s.mem ∧ (s.addReq q).teams = s.teams ∧ (s.addReq q).todo = s.todo ∧ ∀ k, k ≠ q.agent → (s.addReq q).ag k = s.ag k := by
  dsimp only [addReq]
  split
  · obtain ⟨hm, ht, hd, -, ha⟩ := launchReq_frame { s with nextReq := s.nextReq + 1, reqs := s.reqs ++ [q] } q
    exact ⟨hm, ht, hd, ha⟩
  · exact ⟨rfl, rfl, rfl, fun _ _ => rfl⟩

/-- A request that finds no slot or no landing line waits. -/
theorem State.addReq_waits (s : State) (q : Req) (h : s.slotFree (coreKey q.die q.core) q.pkg = false) :
    s.addReq q = { s with nextReq := s.nextReq + 1, reqs := s.reqs ++ [q] } := by
  have h2 : State.mayLaunch { s with nextReq := s.nextReq + 1, reqs := s.reqs ++ [q] } q = false := by
    show (s.slotFree (coreKey q.die q.core) q.pkg && _ && _) = false
    rw [h]; rfl
  dsimp only [addReq]
  rw [h2]
  rfl

/-- A landing line that comes free where not all were in use. -/
theorem State.landReq_room (s : State) (q : Req) (h : (s.co (coreKey q.die q.core)).landing < 128) :
    s.landReq q = if q.sends = 0 then s
      else s.setCo (coreKey q.die q.core) { s.co (coreKey q.die q.core) with landing := (s.co (coreKey q.die q.core)).landing - 1 } := by
  simp [landReq, h]

end Sys2Proof.Machine
end

