-- ==== Sys2Proof/Laws/Results.lean ====
section
/-! SUPPORT. The results of words that write registers alone: once per shape of result. -/

namespace Sys2Proof.Machine

/-! ## The registers a word reads -/

theorem Agent.seeEarly_rest (a : Agent) (d : Pend) (whole : Bool) (passes t o fresh : Nat) : (a.seeEarly d whole passes t o fresh).1.rest = a.rest := by
  unfold seeEarly
  cases d.cls with
  | s => dsimp only; split <;> rfl
  | k => rfl
  | v =>
    dsimp only
    generalize d.oldV = l
    induction l generalizing a with
    | nil => rfl
    | cons p l ih =>
      simp only [List.foldl_cons]
      rw [ih]
      split <;> rfl

theorem Agent.view_rest (a : Agent) (regs : List (RClass × Nat)) (whole : Bool) (passes t o fresh : Nat) :
    (a.view regs whole passes t o fresh).1.rest = a.rest := by
  unfold view
  generalize List.filter _ _ = l
  induction l generalizing a fresh with
  | nil => rfl
  | cons d l ih => rw [List.foldl_cons, ih, seeEarly_rest]

/-- What a word reads differs from what its agent holds in registers alone. -/
theorem State.sees_rest (s : State) (i : Instr) : (s.sees i).rest = s.me.rest := Agent.view_rest _ _ _ _ _ _ _

@[simp] theorem State.sees_width (s : State) (i : Instr) : (s.sees i).width = s.me.width :=
  (congrArg Agent.width (s.sees_rest i) : (s.sees i).rest.width = s.me.rest.width)

@[simp] theorem State.sees_kind (s : State) (i : Instr) : (s.sees i).kind = s.me.kind :=
  (congrArg Agent.kind (s.sees_rest i) : (s.sees i).rest.kind = s.me.rest.kind)

/-- With no result pending, a word reads the registers as they are. -/
theorem State.sees_of_landed (s : State) (i : Instr) (h : s.me.pend = []) : s.sees i = s.me := by
  simp [sees, seesFrom, Agent.view, h]

/-- An active lane is a lane of the agent's width (R55). -/
theorem State.lanes_width (s : State) (i : Instr) {l : Nat} (h : (s.lanes i).getLsbD l = true) : (allLanes s.me.width).getLsbD l = true := by
  unfold lanes Agent.active Agent.guard at h
  simp only [BitVec.getLsbD_and, Bool.and_eq_true, State.sees_width] at h
  exact h.2.2

/-! ## One theorem per shape of result -/

theorem registerWord_of {s : State} {i : Instr} (h : s.ready i = true) {f : Agent → LaneMask → List RegW × BitVec 6}
    (e : exec i s = issueRegs i s f) {p : State → Prop}
    (hp : ∀ t : State, t.me.sreg = (s.me.writes (f (s.sees i) (s.lanes i)).1).sreg → t.me.vreg = (s.me.writes (f (s.sees i) (s.lanes i)).1).vreg →
      t.me.kreg = (s.me.writes (f (s.sees i) (s.lanes i)).1).kreg → t.me.flags = s.me.flags ||| (f (s.sees i) (s.lanes i)).2 →
      t.me.kind = s.me.kind → t.me.width = s.me.width → p t) : RegisterWord i s p := by
  obtain ⟨t, h0, h1, h2, h3, h4, h5, h6, h7, h8⟩ := issueRegs_ready h f
  exact ⟨t, e.trans h0, h1, h2, h7, h8, hp t h3 h4 h5 h6 (congrArg Agent.kind h8 : t.me.rest.kind = s.me.rest.kind)
    (congrArg Agent.width h8 : t.me.rest.width = s.me.rest.width)⟩

theorem Agent.sw_congr {a b : Agent} (h : a.sreg = b.sreg) (w64 : Bool) (r : Nat) : a.sw w64 r = b.sw w64 r := by simp only [sw, s64, s32, h]
theorem Agent.s32_congr {a b : Agent} (h : a.sreg = b.sreg) (r : Nat) : a.s32 r = b.s32 r := by simp only [s32, h]

theorem Agent.v32_congr {a b : Agent} (hk : a.kind = b.kind) (hs : a.sreg = b.sreg) (h : a.vreg = b.vreg) (r l : Nat) : a.v32 r l = b.v32 r l := by
  simp only [v32, s32, h, hs, hk]

theorem Agent.vw_congr {a b : Agent} (hk : a.kind = b.kind) (hs : a.sreg = b.sreg) (h : a.vreg = b.vreg) (w64 : Bool) (r l : Nat) : a.vw w64 r l = b.vw w64 r l := by
  simp only [vw, v64, v32_congr hk hs h]

theorem Agent.k_congr {a b : Agent} (hw : a.width = b.width) (h : a.kreg = b.kreg) (r : Nat) : a.k r = b.k r := by simp only [k, h, hw]

/-- A word that writes one scalar result. -/
theorem writesScalar_of {s : State} {i : Instr} (h : s.ready i = true) {w64 : Bool} {d : BitVec 6} {x : Agent → LaneMask → W64}
    (e : exec i s = issueRegs i s (fun v act => (wS w64 d (x v act), 0))) : WritesScalar i s w64 d (x (s.sees i) (s.lanes i)) := by
  refine registerWord_of h e fun t hs hv hk hf _ _ => ⟨?_, fun q h1 h2 => ?_, ?_, ?_, ?_⟩
  · rw [Agent.sw_congr hs, Agent.sw_writes_wS]
  · rw [Agent.s32_congr hs, Agent.s32_writes_wS _ _ _ _ h1 h2]
  · rw [hv, Agent.vreg_writes_wS]
  · rw [hk, Agent.kreg_writes_wS]
  · simpa using hf

/-- A word of a group that writes one result per active lane. -/
theorem writesLanes_of {s : State} {i : Instr} (h : s.ready i = true) (hg : s.me.kind = .group) {w64 : Bool} {d : BitVec 8}
    {f : Agent → LaneMask → Nat → W64} {fl : Agent → LaneMask → BitVec 6}
    (e : exec i s = issueRegs i s (fun v act => (wV w64 d ((lanesOf act).map (fun l => (l, f v act l))), fl v act))) :
    WritesLanes i s w64 d (f (s.sees i) (s.lanes i)) (fl (s.sees i) (s.lanes i)) := by
  refine registerWord_of h e fun t hs hv hk hf hkd _ => ⟨fun l hl => ?_, fun q l h1 h2 => ?_, ?_, ?_, hf⟩
  · rw [Agent.vw_congr (by simp [hkd]) hs hv, Agent.vw_writes_wV _ _ _ _ _ hg hl]
  · rw [Agent.v32_congr (by simp [hkd]) hs hv, Agent.v32_writes_wV _ _ _ _ _ hg h1 h2]
  · exact hs.trans (Agent.writes_wV_regs _ _ _ _ hg).1
  · exact hk.trans (Agent.writes_wV_regs _ _ _ _ hg).2

/-- A word that writes one bit per active lane of a predicate register. -/
theorem writesMask_of {s : State} {i : Instr} (h : s.ready i = true) {kd : BitVec 3} {m : Agent → LaneMask → LaneMask} {fl : Agent → LaneMask → BitVec 6}
    (e : exec i s = issueRegs i s (fun v act => ([.k kd.toNat (m v act) act], fl v act))) :
    WritesMask i s kd (fun l => (m (s.sees i) (s.lanes i)).getLsbD l) (fl (s.sees i) (s.lanes i)) := by
  have hz : kd.toNat ≠ 0 ↔ kd ≠ 0 := by
    rw [Ne, Ne, ← BitVec.toNat_inj]
    rfl
  refine registerWord_of h e fun t hs hv hk hf _ hw => ⟨fun l hl h0 => ?_, fun q l hn => ?_, ?_, ?_, hf⟩
  · rw [Agent.k_congr (by simp [hw]) hk]
    simp [Agent.write, Agent.putK_k, hz.2 h0, hl, s.lanes_width i hl]
  · rw [Agent.k_congr (by simp [hw]) hk]
    simp only [Agent.writes_cons, Agent.writes_nil, Agent.write, Agent.putK_k]
    split
    · next hq =>
      have hl : (s.lanes i).getLsbD l = false := by
        by_contra hc
        exact hn ⟨by simpa using hc, hq.1, hz.1 hq.2⟩
      have hid : s.me.k kd.toNat &&& allLanes s.me.width = s.me.k kd.toNat := by
        unfold Agent.k
        rw [BitVec.and_assoc, BitVec.and_self]
      rw [hq.1, ← hid]
      by_cases hlt : l < 64
      · simp only [BitVec.getLsbD_or, BitVec.getLsbD_and, BitVec.getLsbD_not, hl, hlt]
        cases (s.me.k kd.toNat).getLsbD l <;> cases (allLanes s.me.width).getLsbD l <;> simp
      · rw [BitVec.getLsbD_of_ge _ _ (by omega), BitVec.getLsbD_of_ge _ _ (by omega)]
    · rfl
  · simpa [Agent.write] using hs
  · simpa [Agent.write] using hv

/-! ## Effects that are more than register writes -/

/-- The writes and flags of one value per active lane. -/
theorem perLane_eq (w64 d act) (f : Nat → Nat × BitVec 6) :
  perLane w64 d act f = (wV w64 d ((lanesOf act).map (fun l => (l, BitVec.ofNat 64 (f l).1))), lanesFlags act (fun l => (f l).2)) := by
  simp [perLane, lanesFlags, List.map_map, List.foldl_map, Function.comp_def]

/-- What a word completes with whose effect changes no more of the state than its own agent. -/
theorem finish_mine {s : State} {i : Instr} {d : Done}
   (e : exec i s = s.finish i (.ok d))
   (h1 : d.trap = none) (h2 : d.late = none) (h3 : d.gone = false) (hr : d.s.rest = s.rest) (hc : d.s.cur = s.cur)
   (ho : ∀ k, k ≠ s.cur → d.s.ag k = s.ag k) :
   ∃ t, exec i s = .next t ∧ KeptButMe s t ∧ t.cur = s.cur ∧
      (let a := d.s.ag s.cur
       t.me.sreg = (a.writes d.ws).sreg ∧ t.me.vreg = (a.writes d.ws).vreg ∧ t.me.kreg = (a.writes d.ws).kreg ∧ t.me.flags = a.flags ||| d.fl ∧
      t.me.pc = d.pc.getD (a.pc + BitVec.ofNat 64 i.size) ∧ t.me.wait = d.wait ∧ t.me.rest = a.rest) := by
  refine ⟨_, by rw [e, State.finish_done _ _ _ h1 h2], ⟨?_, fun k hk => ?_⟩, ?_, ?_⟩
  · rw [State.complete_rest, hr]
  · rw [State.complete_ag_other _ _ _ _ _ hk, ho k hk]
  · rw [State.complete_cur, hc]
  · have := State.complete_me s.cur (s.shapeOf i) (s.startOf i) i.size d h3
    simp only [State.me, State.complete_cur, hc]
    exact this

/-- The same where the effect leaves its agent to the register writes. -/
theorem finish_regs {s : State} {i : Instr} {d : Done}
   (e : exec i s = s.finish i (.ok d))
   (h1 : d.trap = none) (h2 : d.late = none) (h3 : d.gone = false) (hr : d.s.rest = s.rest) (hc : d.s.cur = s.cur)
   (ho : ∀ k, k ≠ s.cur → d.s.ag k = s.ag k) (ha : d.s.ag s.cur = (s.begun i).ag s.cur) :
   ∃ t, exec i s = .next t ∧ KeptButMe s t ∧ t.cur = s.cur ∧
       t.me.sreg = (s.me.writes d.ws).sreg ∧ t.me.vreg = (s.me.writes d.ws).vreg ∧ t.me.kreg = (s.me.writes d.ws).kreg ∧ t.me.flags = s.me.flags ||| d.fl ∧
      t.me.pc = d.pc.getD (s.me.pc + BitVec.ofNat 64 i.size) ∧ t.me.wait = d.wait ∧ t.me.rest = s.me.rest := by
  obtain ⟨t, g1, g2, g3, g4⟩ := finish_mine e h1 h2 h3 hr hc ho
  refine ⟨t, g1, g2, g3, ?_⟩
  rw [ha] at g4
  obtain ⟨e1, e2, e3, e4, e5, e6, e7, e8⟩ := State.begun_me_regs s i
  obtain ⟨c1, c2, c3, c4, c5, c6, c7⟩ := g4
  obtain ⟨q1, q2, q3⟩ := Agent.writes_congr e5 e6 e1 e2 e3 d.ws
  rw [e4] at c4; rw [e7] at c5; rw [e8] at c7
  exact ⟨c1.trans q1, c2.trans q2, c3.trans q3, c4, c5, c6, c7⟩

/-- A word of a group whose writes are one value per active lane. -/
theorem writesLanes_mk {s : State} {i : Instr} (hg : s.me.kind = .group) {w64 : Bool} {d : BitVec 8} {f : Nat → W64} {fl : BitVec 6}
   (h : ∃ t, exec i s = .next t ∧ KeptButMe s t ∧ t.cur = s.cur ∧
       t.me.sreg = (s.me.writes (wV w64 d ((lanesOf (s.lanes i)).map (fun l => (l, f l))))).sreg ∧ t.me.vreg = (s.me.writes (wV w64 d ((lanesOf (s.lanes i)).map (fun l => (l, f l))))).vreg
        ∧ t.me.kreg = (s.me.writes (wV w64 d ((lanesOf (s.lanes i)).map (fun l => (l, f l))))).kreg ∧ t.me.flags = s.me.flags ||| fl ∧
      t.me.pc = s.me.pc + BitVec.ofNat 64 i.size ∧ t.me.rest = s.me.rest) : WritesLanes i s w64 d f fl := by
  obtain ⟨t, h0, h1, h2, hs, hv, hk, hf, hp, hr⟩ := h
  have hkd : t.me.kind = s.me.kind := (congrArg Agent.kind hr : t.me.rest.kind = s.me.rest.kind)
  refine ⟨t, h0, h1, h2, hp, hr, fun l hl => ?_, fun q l h1 h2 => ?_, ?_, ?_, hf⟩
  · rw [Agent.vw_congr (by simp [hkd]) hs hv, Agent.vw_writes_wV _ _ _ _ _ hg hl]
  · rw [Agent.v32_congr (by simp [hkd]) hs hv, Agent.v32_writes_wV _ _ _ _ _ hg h1 h2]
  · exact hs.trans (Agent.writes_wV_regs _ _ _ _ hg).1
  · exact hk.trans (Agent.writes_wV_regs _ _ _ _ hg).2

@[simp] theorem State.begun_di (s : State) (i : Instr) (d : Nat) : (s.begun i).di d = s.di d := by
  have := congrArg State.dies (State.begun_rest s i)
  simp only [State.rest] at this
  simp [State.di, this]

@[simp] theorem State.sees_die (s : State) (i : Instr) : (s.sees i).die = s.me.die := (congrArg Agent.die (s.sees_rest i) : (s.sees i).rest.die = s.me.rest.die)

end Sys2Proof.Machine
end

