-- ==== Sys2Proof/Tests/Slice0.lean ====
section
/-! SUPPORT. Tests of the model: ill-formed values that the check refuses, words of the spec's encodings, its worked cases, and for
each statement a state and operands that meet what it supposes. -/

open Sys2Proof Sys2Proof.Machine

namespace Sys2Proof.Tests

set_option maxRecDepth 100000
set_option exponentiation.threshold 2048

/-! ## Small states -/

/-- An unguarded F word with stall 0. -/
def c0 : Ctl := ⟨0, none, false, 0⟩

/-- A 16-wide group of the matrix role, alone in its team on core 0 of die 0. -/
def gr : State := State.reset.place .group []

/-- A courier context of that team. -/
def cu : State := State.reset.place .courier []

/-- The controller of die 0 at privilege F. -/
def fw : State := State.reset.place .firmware []

/-- The agent's scalar registers hold `r`. -/
def withS (s : State) (r : Tab W32) : State := s.setAg s.cur { s.me with sreg := r }

/-- The agent's vector registers hold `r` (64 lanes a register). -/
def withV (s : State) (r : Tab W32) : State := s.setAg s.cur { s.me with vreg := r }

def sb : SBin := ⟨false, 4, 5, .reg 6⟩
def su : SUn := ⟨false, 4, 5⟩
def vb : VBin := ⟨false, 4, 5, .v 6⟩
def vu : VUn := ⟨false, 4, 5⟩
def fb : FBin := ⟨4, 6, .v 8⟩
def fu : FUn := ⟨4, 6⟩
def ma : MemAddr := ⟨8, none, .imm 0⟩
def mo : MemOp := ⟨4, ma, .none, none⟩
def tw : TewC := ⟨false, .rn, 0, 1⟩

/-- Every instruction of the list is ready to run its own effect. -/
def allReady (s : State) (is : List Instr) : Bool := is.all (fun i => s.ready i)

/-! ## Values that are no word: each check refuses one (R14, R20, R96, R116, R118–R120, R123, R147–R154) -/

/-- R151: no guard but k0 on an opcode that takes none. R120: no safe-point index where SC is an operand; one on `safepoint`. -/
theorem test_wf_guard_and_flag : ([.gbar { c0 with k := 1 }, .eret { c0 with neg := true }, .reform { c0 with k := 2 } 4, .mma { c0 with k := 1 } true .bf16 2 5 16,
    .ssel { c0 with safe := some 0 } sb 1, .fmaF32 { c0 with safe := some 0 } .rn fb 10, .ldB32 { c0 with safe := some 0 } mo,
    .copy { c0 with safe := some 0 } ⟨false, false, false, some 6, 1, 0, 1, 2⟩, .safepoint c0] : List Instr).all (fun i => !i.wf) = true := by decide
/-- R14: a pair has an even register, a quad one divisible by 4. -/
theorem test_wf_pairs : ([.sadd c0 ⟨true, 5, 4, .reg 6⟩, .sadd c0 ⟨true, 4, 6, .reg 7⟩, .vadd c0 false ⟨true, 4, 5, .v 6⟩, .sclz c0 ⟨true, 3, 4⟩, .faddF64 c0 .rn ⟨4, 7, .v 8⟩,
    .fmaF64 c0 .rn fb 11, .call c0 5 (.off8 0), .ret c0 5, .ldB64 c0 { mo with d := 5 }, .ldB128 c0 { mo with d := 6 }, .stB32 c0 { mo with addr := { ma with base := 9 } },
    .atom c0 ⟨false, .add, none, 4, 7, 8, 0⟩, .slea c0 0 sb 7, .ptbrd c0 5, .qstat c0 5 0, .reform c0 5, .capq c0 12 0, .cvt c0 ⟨.f64, .f32, .u, false, .rn, 5, 4⟩,
    .mfs c0 .ptbase 5, .movs c0 .spoorAddr (.s 5), .pbinit c0 .team 9 (.imm 1), .ttset c0 1 5 0] : List Instr).all (fun i => !i.wf) = true := by decide
/-- R118: a literal of a 32-bit operand has bits 61:32 zero; `vshfl`, `vbcast`, the barriers and rows take none. -/
theorem test_wf_literals : ([.sadd c0 { sb with b := .lit 0x100000000 }, .vadd c0 false { vb with b := .lit 0x100000000 }, .vshfl c0 .idx { fb with b := .lit 1 },
    .vbcast c0 { fb with b := .lit 1 }, .barSync c0 3 (.lit 2), .zwr c0 3 8 (.lit 5)] : List Instr).all (fun i => !i.wf) = true := by decide
/-- R96: `.sr` only toward the narrow formats. R255, R204: formats of `zrd` and `cvt`. R227: operations of `atom` and `red`. -/
theorem test_wf_rounding_and_formats : ([.faddF32 c0 .sr fb, .hadd2 c0 true .sr fb, .cvt c0 ⟨.f32, .f64, .u, false, .sr, 4, 6⟩, .cvt c0 ⟨.f32, .p4, .u, false, .rn, 4, 6⟩,
    .cvt c0 ⟨.f16, .f32, .f, false, .rn, 4, 6⟩, .zrd c0 ⟨.f64, false, .rn, 8, 3, .imm 5⟩, .zrd c0 ⟨.f16, false, .sr, 8, 3, .imm 5⟩, .p4unpack c0 .sr 4 5 6,
    .tewAdd c0 { tw with rnd := .sr } 2, .atom c0 ⟨true, .faddF32, none, 4, 6, 8, 0⟩, .atom c0 ⟨false, .add, none, 4, 6, 8, 1⟩, .red c0 ⟨false, .exch, none, 0, 6, 8, 0⟩,
    .red c0 ⟨false, .add, none, 1, 6, 8, 0⟩] : List Instr).all (fun i => !i.wf) = true := by decide
/-- R233, R235, R238, R254, R262, R278, R324: ranges of immediates and masks. -/
theorem test_wf_ranges : ([.pbwait c0 8 (.imm 2), .pgclass c0 8 (.imm 4), .barArrive c0 3 (.imm 0), .barSync c0 3 (.imm 65), .zwr c0 3 8 (.imm 64), .ttset c0 1 4 18,
    .qwait c0 0, .qfence c0 0, .capq c0 8 22, .capq c0 8 254, .pbinit c0 .grp 8 (.imm 1)] : List Instr).all (fun i => !i.wf) = true := by decide
/-- R121, R123, R152: halves: destinations in different banks, at most two reads of a bank, no second write of a register, k0 on `nop`. -/
theorem test_wf_halves : ([.hWord ⟨0, 0, .vi .vadd false 4 (.v 8)⟩ ⟨0, 0, .vi .vadd false 8 (.v 9)⟩, .hWord ⟨0, 0, .vi .vadd false 4 (.v 8)⟩ ⟨0, 0, .vi .vadd false 9 (.v 12)⟩,
    .hWord ⟨0, 0, .si .sadd 4 (.s 5)⟩ ⟨0, 0, .si .sor 4 (.s 6)⟩, .hWord ⟨0, 0, .kp .kand 1 2⟩ ⟨0, 0, .kp .kor 1 3⟩, .hWord ⟨0, 1, .nop⟩ ⟨0, 0, .nop⟩,
    .hWord ⟨0, 0, .vi .vadd true 4 (.v 5)⟩ ⟨0, 0, .nop⟩, .hWord ⟨0, 0, .vf .fadd .sr 4 (.v 5)⟩ ⟨0, 0, .nop⟩, .hWord ⟨0, 0, .vf .fmin .rz 4 (.v 5)⟩ ⟨0, 0, .nop⟩,
    .hWord ⟨0, 0, .vf .fadd .rn 4 (.imm 1)⟩ ⟨0, 0, .nop⟩] : List Instr).all (fun i => !i.wf) = true := by decide

/-! ## Words of the spec's encodings (R113–R121, R147–R152), put together by hand -/

/-- R114: the all-zero word, `nop`. R120: `nop` with STALL 7 and safe-point 3. -/
theorem test_word_nop : decodeWord 0 none = .ok (.nop c0) ∧ decodeWord 0x1E00000000000C00 none = .ok (.nop { c0 with stall := 7, safe := some 3 }) := by decide
/-- R163's worked word. -/
theorem test_word_sadd : decodeWord 0x0001042021000201 none = .ok (.sadd c0 ⟨true, 8, 8, .imm 64⟩) := by decide
/-- R172's worked word: OPC 0x00B, SA 5, SB 0xFF. -/
theorem test_word_loop : decodeWord 0x00002C0017FC0000 none = .ok (.loop c0 5 (.off8 0xFF)) := by decide
/-- OPC 0x006, SA 1, SB 3. -/
theorem test_word_brk : decodeWord 0x00001800040C0000 none = .ok (.brk c0 1 (.off8 3)) := by decide
/-- STALL 3, OPC 0x080, DST 4, SA 5, SB 3, BSEL 1, SAT. -/
theorem test_word_vadd : decodeWord 0x0C020010140C0104 none = .ok (.vadd { c0 with stall := 3 } true ⟨false, 4, 5, .s 3⟩) := by decide
/-- STALL 4, GN 1, GK 2, `.rz`, DST 8, SA 9, SB 10, SC 11. -/
theorem test_word_fma : decodeWord 0x10A28C2024282C01 none = .ok (.fmaF32 { c0 with stall := 4, neg := true, k := 2 } .rz ⟨8, 9, .v 10⟩ 11) := by decide
theorem test_word_fmul : decodeWord 0x0802880C08240100 none = .ok (.fmulF32 { c0 with stall := 2 } .rn ⟨3, 2, .s 9⟩) := by decide
theorem test_word_ldB32 : decodeWord 0x000508201009004B none = .ok (.ldB32 c0 ⟨8, ⟨4, some (.x4, 2), .imm 64⟩, .none, some .die⟩) := by decide
theorem test_word_ldB64 : decodeWord 0x00050C2808060004 none = .ok (.ldB64 c0 ⟨10, ⟨2, some (.x8, 1), .imm 128⟩, .none, none⟩) := by decide
/-- `cas.ar.pkg` in 32 bits. -/
theorem test_word_atom : decodeWord 0x0005602810181CFA none = .ok (.atom c0 ⟨false, .cas, some (.ar, .pkg), 10, 4, 6, 7⟩) := by decide
theorem test_word_mma : decodeWord 0x0006040814400008 none = .ok (.mma c0 true .bf16 2 5 16) := by decide
theorem test_word_copy : decodeWord 0x0007000C08001989 none = .ok (.copy c0 ⟨false, false, true, some 6, 2, 1, 3, 2⟩) := by decide
theorem test_word_trap : decodeWord 0x00078000001C0000 none = .ok (.trap c0 7) := by decide
theorem test_word_safepoint : decodeWord 0x0207A80000000C00 none = .ok (.safepoint { c0 with safe := some 3 }) := by decide
/-- R153's worked word. -/
theorem test_word_halves : decodeWord 0x4004102000084868 none = .ok (.hWord ⟨0, 0, .vi .vadd false 4 (.v 8)⟩ ⟨0, 0, .vi .vadd false 9 (.v 13)⟩) := by decide
/-- R113, R118: kinds 10 and 11, a literal without its word, an opcode R149 does not assign. -/
theorem test_word_refused : decodeWord 0x8000000000000000 none = .error .strayLiteral ∧ decodeWord 0xC000000000000000 none = .error .reservedKind ∧
    decodeWord 0x0101042021000001 none = .error .missingLiteral ∧ decodeWord 0x0000300000000000 none = .error .undefinedOpcode := by decide
/-- R114, R154: a bit in a field the word does not use makes it illegal. -/
theorem test_word_unused_bit : (match decodeWord 0x0000000000040000 none with | .ok _ => false | .error _ => true) = true := by decide

/-! ## Ready words: what the statements about words suppose -/

theorem test_ready_control : allReady gr [.nop c0, .exit c0, .yield c0, .reform c0 4, .bra c0 (.off8 3), .brs c0 true 4 (.off8 3), .brk c0 1 (.off8 3), .join c0,
    .call c0 4 (.off8 3), .ret c0 4, .jmpr c0 4, .loop c0 4 (.off8 3)] = true := by decide
theorem test_ready_scalar : allReady gr [.movi c0 false (.s 4) (.imm 1), .movi c0 false (.v 4) (.imm 1), .sadd c0 sb, .ssub c0 sb, .smul c0 sb, .smulh c0 true sb,
    .sdivu c0 sb, .sand c0 sb, .sor c0 sb, .sxor c0 sb, .sshl c0 sb, .sshr c0 sb, .ssra c0 sb, .smin c0 true sb, .smax c0 true sb, .sclz c0 su, .spopc c0 su] = true := by decide
theorem test_ready_scalar_fields : allReady gr [.sbfe c0 sb, .sbfi c0 sb 7, .slea c0 3 { sb with a := 8 } 7, .ssel c0 sb 1, .scmp c0 .ltu false 2 4 (.imm 0xFF),
    .movs c0 .ptbLo (.s 4), .movs c0 .laneId (.v 4)] = true := by decide
theorem test_ready_predicates : allReady gr [.kand c0 1 2 3, .kor c0 1 2 3, .kxor c0 1 2 3, .knot c0 1 2, .kmov c0 1 2, .kpopc c0 4 1, .kfirst c0 4 1, .kany c0 4 1,
    .kall c0 4 1] = true := by decide
theorem test_ready_vector : allReady gr [.vadd c0 true vb, .vsub c0 false vb, .vmul c0 false vb, .vmulh c0 true vb, .vmad c0 true vb 7, .vand c0 vb, .vor c0 vb, .vxor c0 vb,
    .vnot c0 vu, .vshl c0 vb, .vshr c0 true vb, .vsra c0 vb, .vmin c0 true vb, .vmax c0 true vb, .vabs c0 vu, .vclz c0 vu, .vpopc c0 vu, .vbrev c0 vu,
    .vbfe c0 true vb 7, .vbfi c0 vb 7, .vsat c0 .i8 true vu, .vcmp c0 .lt false 1 4 (.v 5), .vsel c0 vb 1] = true := by decide
theorem test_ready_float : allReady gr [.faddF32 c0 .rn fb, .fsubF32 c0 .rn fb, .fmulF32 c0 .rn fb, .fmaF32 c0 .rn fb 10, .fminF32 c0 fb, .fmaxF32 c0 fb, .fabsF32 c0 fu,
    .fnegF32 c0 fu, .fcmpF32 c0 .lt 1 4 (.v 6), .fclassF32 c0 fu, .faddF64 c0 .rn fb, .fsubF64 c0 .rn fb, .fmulF64 c0 .rn fb, .fmaF64 c0 .rn fb 10, .fminF64 c0 fb,
    .fmaxF64 c0 fb, .fabsF64 c0 fu, .fnegF64 c0 fu, .fcmpF64 c0 .lt 1 4 (.v 6), .fclassF64 c0 fu] = true := by decide
theorem test_ready_packed_and_functions : allReady gr [.hadd2 c0 true .rn fb, .hmul2 c0 false .rn fb, .hfma2 c0 true .rn fb 10, .hmin2 c0 true fb, .hmax2 c0 true fb, .frcp c0 fu,
    .frsq c0 fu, .fsqrt c0 fu, .fexp2 c0 fu, .flog2 c0 fu, .fsin c0 fu, .fcos c0 fu, .ftanh c0 fu] = true := by decide
theorem test_ready_conversions_and_lanes : allReady gr [.cvt c0 ⟨.f16, .f32, .u, false, .rn, 4, 5⟩, .p4pack c0 ⟨.u, false, .rn, 4, 5, 6⟩, .p4unpack c0 .rn 4 5 6,
    .vnbr c0 true false fu, .vshfl c0 .idx fb, .vbcast c0 fb, .vred c0 .add fu, .vscan c0 .add true fu, .vflags c0 4,
    .hWord ⟨0, 0, .vi .vadd false 4 (.v 8)⟩ ⟨0, 0, .vi .vadd false 9 (.v 13)⟩] = true := by decide
theorem test_ready_memory : allReady gr [.ldB8 c0 mo, .ldB16 c0 mo, .ldB32 c0 mo, .ldB64 c0 mo, .ldB128 c0 mo, .stB8 c0 mo, .stB16 c0 mo, .stB32 c0 mo, .stB64 c0 mo,
    .stB128 c0 mo, .lduB32 c0 ⟨4, 8, .imm 0, none⟩, .lduB64 c0 ⟨4, 8, .imm 0, none⟩, .prefetch c0 .none ma, .clean c0 ma, .inval c0 ma, .lineset c0 ma,
    .atom c0 ⟨false, .add, none, 4, 6, 8, 0⟩, .red c0 ⟨false, .add, none, 0, 6, 8, 0⟩, .fenceAcq c0 .die, .fenceRel c0 .die, .fenceAr c0 .die, .fenceSc c0 .die] = true := by decide
theorem test_ready_sync : allReady gr [.pbinit c0 .team 8 (.imm 1), .pbexpect c0 8 (.imm 1), .pbarrive c0 8, .pbwait c0 8 (.imm 0), .pbtest c0 4 8, .barArrive c0 3 (.imm 2),
    .barSync c0 3 (.imm 2), .gbar c0, .discard c0 8 (.imm 1)] = true := by decide
theorem test_ready_matrix : allReady gr [.gangSet c0 4, .mma c0 true .bf16 2 5 16, .zclr c0 3, .zwr c0 3 8 (.imm 5), .zrd c0 ⟨.f32, false, .rn, 8, 3, .imm 5⟩,
    .epi c0 ⟨0, .relu, false, .rn, 1, 3, 2, 4⟩] = true := by decide
theorem test_ready_tensor : allReady gr [.ttset c0 1 4 0, .ttld c0 1 4, .ttst c0 1 4, .ttidx c0 false 4 1 2, .tewAdd c0 tw 2, .tewSub c0 tw 2, .tewMul c0 tw 2, .tewFma c0 tw 2 3,
    .tewMin c0 tw 2, .tewMax c0 tw 2, .tewScale c0 tw 4, .tewCvt c0 tw, .tewExp2 c0 tw, .tewRelu c0 tw, .tewSelect c0 tw 2 3, .tewCopy c0 tw, .tewRrow c0 .add tw,
    .tewRcol c0 .max tw] = true := by decide
theorem test_ready_courier : allReady cu [.copy c0 ⟨false, false, false, none, 1, 0, 1, 2⟩, .copyDl c0 ⟨false, false, false, none, 1, 0, 1, 2⟩ 3, .copySeal c0 ⟨none, 1, 0, 1, 2, 4⟩,
    .layout c0 ⟨none, 1, 1, 2, 4⟩, .qwait c0 1, .qfence c0 1, .qstat c0 4 1, .dlchk c0 4 3, .coll c0 ⟨1, .sum, .ar, 1, 2, 4⟩, .cgmem c0 4 6] = true := by decide
theorem test_ready_system : allReady gr [.trap c0 7, .launch c0 4 6 8, .capq c0 8 0, .ptbrd c0 4, .evsig c0 7, .safepoint { c0 with safe := some 0 }, .wsld c0 4 6 8] = true := by decide
theorem test_ready_privileged : allReady fw [.eret c0, .mfs c0 .tmo 4, .mts c0 .tmo 4, .ctxsave c0 4, .ctxrest c0 4, .pgclass c0 8 (.imm 1), .tlbiPage c0 8, .tlbiCtx c0, .tlbiAll c0] = true := by decide

/-! ## Worked cases of the spec, one word each -/

/-- The state the instruction leads to, or the given one where it stops. -/
def run (i : Instr) (s : State) : State := match exec i s with | .next t => t | _ => s

/-- The agent after the instruction. -/
def me (i : Instr) (s : State) : Agent := (run i s).me

/-- R163: S[4] = 0x8000_0000 times 2. -/
theorem test_smulh_smul : (me (.smulh c0 true ⟨false, 6, 4, .imm 2⟩) (withS gr [(4, 0x80000000)])).s32 6 = 0xFFFFFFFF ∧
    (me (.smulh c0 false ⟨false, 6, 4, .imm 2⟩) (withS gr [(4, 0x80000000)])).s32 6 = 1 ∧
    (me (.smul c0 ⟨false, 6, 4, .imm 2⟩) (withS gr [(4, 0x80000000)])).s32 6 = 0 := by decide
/-- R165: `sbfe` with len 12, pos 8; `sbfi` into all ones. -/
theorem test_sbfe_sbfi : (me (.sbfe c0 ⟨false, 5, 4, .lit 0xC08⟩) (withS gr [(4, 0x12345678)])).s32 5 = 0x456 ∧
    (me (.sbfi c0 ⟨false, 7, 4, .lit 0xC08⟩ 6) (withS gr [(4, 0x12345678), (6, 0xFFFFFFFF)])).s32 7 = 0xFFF678FF := by decide
/-- R168: 5 is below 0xFFFF_FFFF as unsigned. -/
theorem test_scmp : (me (.scmp c0 .ltu false 2 4 (.imm 0xFF)) (withS gr [(4, 5)])).k 2 = 0xFFFF := by decide
/-- R170: k2 = 0xF0F0, unguarded and under k3 = 0x00FF. -/
theorem test_mask_reductions :
    let s := gr.setAg gr.cur { gr.me with kreg := [(2, 0xF0F0), (3, 0xFF)] }
    let g : Ctl := { c0 with k := 3 }
    ([Instr.kpopc c0 8 2, .kfirst c0 8 2, .kany c0 8 2, .kall c0 8 2, .kpopc g 8 2, .kfirst g 8 2, .kany g 8 2, .kall g 8 2].map
      (fun i => ((me i s).s32 8).toNat)) = [8, 4, 1, 0, 4, 4, 1, 0] := by decide
/-- R164: a zero divisor gives all ones. -/
theorem test_sdivu_zero : (me (.sdivu c0 ⟨false, 6, 4, .imm 0⟩) (withS gr [(4, 7)])).s32 6 = 0xFFFFFFFF := by decide
/-- R172: a counter at zero wraps and branches; `call` writes the address of the next word. -/
theorem test_loop_call : (me (.loop c0 5 (.off8 0xFF)) gr).s32 5 = 0xFFFFFFFF ∧ (me (.loop c0 5 (.off8 2)) gr).pc = 0x10 ∧
    (me (.call c0 4 (.off8 3)) gr).sw true 4 = 8 ∧ (me (.call c0 4 (.off8 3)) gr).pc = 0x18 := by decide
/-- R174, R175: lanes 0 to 3 take the branch, the others wait on the stack. -/
theorem test_brk : let a := me (.brk c0 1 (.off8 3)) (gr.setAg gr.cur { gr.me with kreg := [(1, 0xF)] })
    a.act = 0xF ∧ a.pc = 0x18 ∧ a.stack = [⟨8, 0xFFF0⟩] := by decide
/-- R190: a = 0x4000_0000, b = 4, c = −0x7FFF_FFFF: clamped under SAT, or wrapped. -/
theorem test_vmad : let s := withV gr [(5 * 64, 0x40000000), (7 * 64, 0x80000001)]
    (me (.vmad c0 true ⟨false, 4, 5, .imm 4⟩ 7) s).v32 4 0 = 0x7FFFFFFF ∧ (me (.vmad c0 true ⟨false, 4, 5, .imm 4⟩ 7) s).flags = flSAT ∧
    (me (.vmad c0 false ⟨false, 4, 5, .imm 4⟩ 7) s).v32 4 0 = 0x80000001 ∧ (me (.vmad c0 false ⟨false, 4, 5, .imm 4⟩ 7) s).flags = 0 := by decide
/-- R193: five bits at position 7, sign-extended. -/
theorem test_vbfe : let s := withV gr [(5 * 64, 0xF80), (5 * 64 + 1, 0x12345678), (7 * 64, 5), (7 * 64 + 1, 5)]
    (me (.vbfe c0 true ⟨false, 4, 5, .imm 7⟩ 7) s).v32 4 0 = 0xFFFFFFFF ∧ (me (.vbfe c0 true ⟨false, 4, 5, .imm 7⟩ 7) s).v32 4 1 = 0xC := by decide

/-! ## What the statements suppose is met: words of registers and control -/

/-- A property of each active lane follows from the property of every lane below 64. -/
theorem lanes_all {x : BitVec 64} {P : Nat → Prop} (h : ∀ l : Fin 64, x.getLsbD l = true → P l) (l : Nat) (hl : x.getLsbD l = true) : P l := by
  by_cases hlt : l < 64
  · exact h ⟨l, hlt⟩ hl
  · rw [BitVec.getLsbD_of_ge x l (Nat.le_of_not_lt hlt)] at hl; cases hl

/-- A 32-wide group. -/
def g32 : State := gr.setAg gr.cur { gr.me with width := 32, act := 0xFFFFFFFF, pres := 0xFFFFFFFF }

/-- The agent with another active mask, present mask, divergence stack, or predicate registers. -/
def withAct (s : State) (m : LaneMask) : State := s.setAg s.cur { s.me with act := m }
def withStack (s : State) (st : List DivEntry) (d : Nat) : State := s.setAg s.cur { s.me with stack := st, depth := d }
def withK (s : State) (k : Tab LaneMask) : State := s.setAg s.cur { s.me with kreg := k }

/-- A group of width 16 with no word held, no shadow check and no fault to come, no `mma` under way; a courier context. -/
theorem test_wit_group : gr.me.held = none ∧ gr.upsetAt gr.me (BitVec.allOnes 64) = none ∧ gr.me.inflight = [] ∧ gr.me.pend = [] ∧ gr.me.kind = .group ∧ gr.me.width = 16 ∧ (gr.di gr.me.die).shadow = false ∧ (gr.co gr.me.ck).mmas = [] ∧ gr.me.live = true ∧
    cu.me.kind = .courier ∧ fw.me.kind = .firmware := by decide
/-- `ssel`, `kfirst`, `vbcast`: a lowest active lane. -/
theorem test_wit_lowest_lane : let s := withAct gr 0xF8
    s.ready (.ssel c0 sb 1) = true ∧ (s.lanes (.ssel c0 sb 1)).getLsbD 3 = true ∧ (∀ m, m < 3 → (s.lanes (.ssel c0 sb 1)).getLsbD m = false) := by decide
theorem test_wit_kfirst : let i := Instr.kfirst c0 4 1
    gr.lanes i &&& (gr.sees i).k 1 = 0 ∧ let s := withK gr [(1, 0xF0)]
    (s.lanes i &&& (s.sees i).k 1).getLsbD 4 = true ∧ ∀ q, q < 4 → (s.lanes i &&& (s.sees i).k 1).getLsbD q = false := by decide
/-- The last lane of a 64-wide mask as the lowest active one. -/
theorem test_wit_last_lane : let s := (gr.setAg gr.cur { gr.me with width := 64, act := 0x8000000000000000, pres := BitVec.allOnes 64 })
    s.ready (.kfirst c0 4 0) = true ∧ (s.lanes (.kfirst c0 4 0) &&& (s.sees (.kfirst c0 4 0)).k 0).getLsbD 63 = true := by decide
/-- `cvt` rounded stochastically; `p4pack` in a group of 32 lanes. -/
theorem test_wit_conversions : gr.ready (.cvt c0 ⟨.f16, .f32, .u, false, .sr, 4, 5⟩) = true ∧ g32.ready (.p4pack c0 ⟨.u, false, .rn, 4, 5, 6⟩) = true := by decide
/-- `brk`: no lane taken, all, some; a courier context beyond depth 16. -/
theorem test_wit_brk : let i := Instr.brk c0 1 (.off8 3)
    let taken (s : State) := s.lanes i &&& (s.sees i).k 1
    taken gr = 0 ∧ taken (withK gr [(1, 0xFFFF)]) = 0xFFFF ∧ taken (withK gr [(1, 0xF)]) = 0xF ∧ gr.me.depth = 0 ∧
    (withStack gr [] 15).ready i = true ∧ (withStack cu [] 16).ready i = true ∧ (withStack cu [] 16).me.depth = 16 := by decide
/-- `join`: an empty stack, an entry of zeros, a merge entry, a path entry. -/
theorem test_wit_join : [gr, withStack gr [⟨0, 0⟩] 1, withStack gr [⟨0x41, 0xF0⟩] 1, withStack gr [⟨0x40, 0xF0⟩] 16].all (fun s => s.ready (.join c0)) = true := by decide
/-- `exit`: of every lane, of some, of the last active ones with a path waiting, in a courier context, in a save routine. -/
theorem test_wit_exit : let i := Instr.exit c0
    let g := Instr.exit { c0 with k := 1 }
    let p := withStack (withAct gr 0xF) [⟨0x40, 0xF0⟩] 1
    gr.me.pres &&& ~~~ gr.lanes i = 0 ∧ (withK gr [(1, 0xF)]).ready g = true ∧ (withK gr [(1, 0xF)]).me.pres &&& ~~~ (withK gr [(1, 0xF)]).lanes g = 0xFFF0 ∧
    p.ready i = true ∧ p.me.pres &&& ~~~ p.lanes i = 0xFFF0 ∧ p.me.act &&& 0xFFF0 = 0 ∧ cu.ready i = true ∧ gr.me.inSave = false ∧
    (gr.setAg gr.cur { gr.me with inSave := true }).ready i = true := by decide
/-- `reform`: inside a divergence, with a lane's address misaligned, and with every lane's the same. -/
theorem test_wit_reform : let i := Instr.reform c0 4
    let bad := withV gr [(4 * 64 + 2, 4)]
    (withStack gr [⟨1, 0⟩] 1).ready i = true ∧ bad.ready i = true ∧ ((bad.sees i).v64 4 2).toNat % 8 = 4 ∧ (∀ q, q < 2 → ((bad.sees i).v64 4 q).toNat % 8 = 0) ∧
    (∀ l : Fin 64, (gr.sees i).v64 4 l = 0) ∧ (gr.co gr.me.ck).holes.any (fun h => h.2.live) = false := by decide
/-- An open pigeonhole of the team. -/
theorem test_wit_open_hole : openHole [(2, { live := true, key := 0x40, team := 1, born := 0, first := 0, model := gr.me, flags := 0, ths := [], order := none })] 1 0x40 = some 2 := by decide
/-- `vflags` with no `mma` of the gang unfinished, and with a result that has still to land. -/
theorem test_wit_vflags : let late := gr.setAg gr.cur { gr.me with inflight := [{ cls := .v, idx := 5, land := 90 }] }
    let u (s : State) := s.begun (.vflags c0 4)
    gr.ready (.vflags c0 4) = true ∧ (gr.co gr.me.ck).mmas.any (fun m => m.members.contains gr.cur) = false ∧ ((u gr).ag gr.cur).landed (u gr).cycle ≤ (u gr).cycle ∧
    late.ready (.vflags c0 4) = true ∧ (u late).cycle < ((u late).ag late.cur).landed (u late).cycle := by decide
/-- R60, R61: a register another group reads: before a pending write lands, after it has landed before the reader's last word, and between. -/
theorem test_chain_read : let w : Land := { idx := 5, land := 20, step := 1, oldV := [(3, 9)] }
    tfind w.oldV 3 = some 9 ∧ heldSince 0 7 (19 + 1) [(20, 9)] = [9] ∧ heldSince 25 7 (30 + 1) [(20, 9)] = [7] ∧ heldSince 0 7 (30 + 1) [(20, 9)] = [7, 9] ∧
    heldSince 0 7 (11 + 1) [(20, 9), (12, 8)] = [8] ∧ heldSince 13 7 (19 + 1) [(20, 9), (12, 8)] = [9] ∧ heldSince 25 7 (30 + 1) [(20, 9), (12, 8)] = [7] := by decide

/-! ### Memory -/

/-- The pair s8 holds a generic address. -/
def at8 (s : State) (a : Nat) : State := withS s [(8, BitVec.ofNat 32 a), (9, BitVec.ofNat 32 (a / 2 ^ 32))]

/-- The address of a scratchpad byte, of a byte of the mapped page, of one beyond the allocation. -/
def spad (o : Nat) : Nat := 0xFFFE000000000000 + o

theorem test_wit_scratchpad_load : let s := at8 gr (spad 0xFFF0)
    let i := Instr.ldB128 c0 mo
    s.ready i = true ∧ ∀ l, (s.lanes i).getLsbD l = true → s.AtSpad ((s.sees i).ea mo.addr l) 16 0 0xFFF0 := by
  refine ⟨by decide, fun l hl => ?_⟩
  exact lanes_all (P := fun l => State.AtSpad (at8 gr (spad 0xFFF0)) _ 16 0 0xFFF0) (by unfold State.AtSpad; decide) l hl
theorem test_wit_scratchpad_store : let s := at8 gr (spad 64)
    let i := Instr.stB32 c0 mo
    s.ready i = true ∧ (s.teamOf s.me).pbx = [] ∧ ∀ l, (s.lanes i).getLsbD l = true → s.AtSpad ((s.sees i).ea mo.addr l) 4 0 64 := by
  refine ⟨by decide, by decide, fun l hl => ?_⟩
  exact lanes_all (P := fun l => State.AtSpad (at8 gr (spad 64)) _ 4 0 64) (by unfold State.AtSpad; decide) l hl
theorem test_wit_ldu : let s := at8 gr (spad 64)
    s.ready (.lduB64 c0 ⟨4, 8, .imm 0, none⟩) = true ∧ s.AtSpad ((s.sees (.lduB64 c0 ⟨4, 8, .imm 0, none⟩)).s64 8 + Off.val (.imm 0)) 8 0 64 := by unfold State.AtSpad; decide

/-- The first page is mapped to package 3, which the domain holds and a port leads to. -/
def far : State :=
  let s := at8 gr 0x400
  { s.setDi 0 { s.di 0 with tlb := [{ placeTlb with pte := 0x300000000007B }] } with domain := [0, 3], routes := [(3, [15])], classes := tput s.classes 0x300000000 .rc }
/-- The line of the lanes' addresses has come, or has been aborted. -/
def farGot (came : Bool) : State := far.setAg 0 { far.me with arrived := [(0x60000000008, came)] }

/-- The checks of every lane's access pass and the loads answer. -/
def loads (i : Instr) (s : State) (n : Nat) (o : MemOp) : Bool :=
  match (s.begun i).laneChecks (s.sees i) ((lanesOf (s.lanes i)).map (fun l => (l, (s.sees i).ea o.addr l))) n .read with
  | (.ok sp, u) => (u.remoteMisses (s.sees i) n sp).isEmpty && (match u.loadGot s.cur (s.sees i) n o.hint sp with | (.ok _, _) => true | _ => false)
  | _ => false
/-- The checks of every lane's store pass. -/
def stores (i : Instr) (s : State) (n : Nat) (o : MemOp) : Bool :=
  match (s.begun i).laneChecks (s.sees i) ((lanesOf (s.lanes i)).map (fun l => (l, (s.sees i).ea o.addr l))) n .write with
  | (.ok _, _) => true
  | _ => false

/-- Loads and stores in the mapped page and in the scratchpad pass their checks. -/
theorem test_wit_any_access : loads (.ldB32 c0 mo) (at8 gr 0x400) 4 mo = true ∧ loads (.ldB64 c0 mo) (at8 gr (spad 64)) 8 mo = true ∧
    loads (.ldB32 c0 mo) (farGot true) 4 mo = true ∧ loads (.ldB32 c0 mo) (farGot false) 4 mo = false ∧ loads (.ldB32 c0 mo) far 4 mo = false ∧
    stores (.stB32 c0 mo) (at8 gr 0x400) 4 mo = true ∧ gr.me.storeAbort = false ∧ gr.owes gr.cur = false := by decide
/-- R498, R515: a load of a line that package 3 holds sends one request and stays; R218: with the line aborted it traps, in its lowest lane. -/
theorem test_load_asks : (match exec (.ldB32 c0 mo) far with
    | .next u => u.reqs.map (fun q => (q.pkg, q.pa, q.sends)) == [(3, 0x3000000000400, 1)] && u.me.wait == .remote && u.me.pc == far.me.pc && tget (u.co 0).slots 3 == 1
    | _ => false) = true := by decide
theorem test_load_aborts : (match exec (.ldB32 c0 mo) (farGot false) with
    | .next u => u.me.wait != .none && u.me.arrived.isEmpty && u.me.pc == far.me.pc
    | _ => false) = true := by decide
/-- R217: an address in no aperture, a misaligned one. -/
theorem test_wit_access_stops : let s := at8 gr 0x1234000000000000
    let t := at8 gr (spad 65)
    let i := Instr.ldB32 c0 mo
    s.ready i = true ∧ (s.lanes i).getLsbD 0 = true ∧ addrBad s s.me ((s.sees i).ea ma 0) .read = true ∧
    (∀ l : Fin 64, addrBad t t.me ((t.sees i).ea ma l) .read = false) ∧ ((t.sees i).ea ma 0).toNat % 4 = 1 := by decide
/-- R220: a queued store to the scratchpad. -/
theorem test_wit_store_drain : let e : SqEntry := { kind := .store, place := .spad 0 64, cls := .pv, n := 4, data := 5, va := 0 }
    let s := gr.setAg gr.cur { gr.me with sq := [e] }
    (s.ag gr.cur).live = true ∧ (s.ag gr.cur).sq = [e] ∧ Mem.wf (s.co 0).scratch = true := by decide
/-- R224–R226: one active lane with a line of the mapped page. -/
theorem test_wit_line_words : let s := withAct (at8 gr 0x400) 4
    let spot (i : Instr) (k : AKind) : Bool := match (s.begun i).spotOf (s.sees i) 2 ((s.sees i).ea ma 2) k with
      | (.ok (.at (.phys pa) cls), u) => pa == 0x400 && cls == .rc && (u.ag s.cur).sq.isEmpty
      | _ => false
    s.me.act = BitVec.twoPow 64 2 ∧ aperOf ((s.sees (.clean c0 ma)).ea ma 2) = .global ∧ (s.lanes (.clean c0 ma)).getLsbD 2 = true ∧
    spot (.prefetch c0 .none ma) .read = true ∧ spot (.clean c0 ma) .read = true ∧ spot (.inval c0 ma) .read = true ∧ spot (.lineset c0 ma) .write = true := by decide
/-- R227: one active lane with a scratchpad address. -/
theorem test_wit_scratchpad_atomic : let s := withAct (withV gr [(6 * 64 + 2, 64), (7 * 64 + 2, 0xFFFE0000)]) 4
    let o : AtomOp := ⟨false, .add, none, 4, 6, 8, 0⟩
    s.ready (.atom c0 o) = true ∧ s.me.act = BitVec.twoPow 64 2 ∧ s.me.sq = [] ∧ (s.teamOf s.me).pbx = [] ∧ Mem.wf (s.co 0).scratch = true ∧
    s.AtSpad ((s.sees (.atom c0 o)).v64 6 2) 4 0 64 ∧ s.ready (.red c0 { o with d := 0 }) = true := by unfold State.AtSpad; decide
/-- R227: values at a width of 32. -/
theorem test_wit_atomic_values : (0xFFFFFFFF : W64) = atWidth false 0xFFFFFFFF ∧ (0 : W64) = atWidth true 0 := by decide
/-- R218: an agent owed a store abort, before a fence and a releasing store. -/
theorem test_wit_store_abort : let s := gr.setAg gr.cur { gr.me with storeAbort := true }
    s.me.storeAbort = true ∧ s.ready (.fenceSc c0 .die) = true ∧ s.ready (.stB32 c0 { mo with ord := some .pkg }) = true ∧
    s.ready (.atom c0 ⟨false, .add, some (.rel, .pkg), 4, 6, 8, 0⟩) = true ∧ (atomRel (some (.rel, .pkg))).isSome = true := by decide
/-- R232: an agent whose `red` in another package has not been acknowledged. -/
theorem test_wit_owes : let q : Req := { id := 4, agent := 0, lane := 0, pkg := 3, die := 0, core := 0, tag := 9, t0 := 0, sends := 1, pa := 0, va := 0, w64 := false, op := .add, b := 1, c := 0, dst := none, fail := 0 }
    let s : State := { gr with reqs := [q] }
    s.owes s.cur = true ∧ s.me.storeAbort = false ∧ s.ready (.fenceRel c0 .pkg) = true ∧ s.ready (.stB32 c0 { mo with ord := some .pkg }) = true ∧ gr.ready (.fenceSc c0 .pkg) = true := by decide

/-! ### Postboxes, barriers, pages -/

/-- The team of the placed agent, changed. -/
def withTm (s : State) (f : Team → Team) : State := s.setTm 1 (f (s.tm 1))

/-- A state whose s8 names the postbox at offset 64, holding `p`; armed at scope `.team` when `on`. -/
def box (p : Pbx) (on : Bool) : State := (withTm (at8 gr (spad 64)) (fun t => { t with pbx := if on then [(64, Scope.team)] else [] })).putPbx 0 64 p

theorem test_wit_pbinit : let i := Instr.pbinit c0 .team 8 (.imm 1)
    let full := withTm (at8 gr (spad 64)) (fun t => { t with pbx := (List.range 64).map (fun k => (128 + 16 * k, Scope.team)) })
    (box ⟨0, 0, 0, false, false⟩ false).ready i = true ∧ ((box ⟨0, 0, 0, false, false⟩ false).tm 1).armed 64 = false ∧ (full.tm 1).armed 64 = false ∧ full.ready i = true ∧
    ((box ⟨0, 0, 2, false, true⟩ true).tm 1).armed 64 = true ∧ (box ⟨0, 0, 2, false, true⟩ true).pbx 1 64 = ⟨0, 0, 2, false, true⟩ ∧
    (box ⟨0, 1, 2, false, true⟩ true).pbx 1 64 = ⟨0, 1, 2, false, true⟩ ∧ (box ⟨0, 0, 2, false, true⟩ true).ready (.pbinit c0 .team 8 (.imm 0)) = true := by decide
theorem test_wit_postbox_place : let s := box ⟨0, 0, 2, false, true⟩ true
    s.PbxAt ((s.sees (.pbarrive c0 8)).s64 8) 64 0 64 ∧ s.pbxWaiters 1 64 = [] := by unfold State.PbxAt; decide
/-- `pbexpect` and `pbarrive`: an arrival that completes the phase, one that does not, one too many; not armed. -/
theorem test_wit_pbarrive : [box ⟨0, 1, 2, false, true⟩ true, box ⟨5, 0, 2, false, true⟩ true, box ⟨5, 2, 2, false, true⟩ true, box ⟨0, 0, 0, false, false⟩ false].all
    (fun s => s.ready (.pbarrive c0 8) && s.ready (.pbexpect c0 8 (.imm 1)) && s.me.sq.isEmpty && !s.me.storeAbort && !s.owes s.cur && !scopeWide (tget (s.tm 1).pbx 64)) = true := by decide
/-- `pbwait` on the phase that runs and on the one that is over; `pbtest`. -/
theorem test_wit_pbwait : let s := box ⟨0, 0, 2, true, true⟩ true
    s.ready (.pbwait c0 8 (.imm 1)) = true ∧ s.ready (.pbwait c0 8 (.imm 0)) = true ∧ (s.pbx 1 64).phase = true ∧ s.ready (.pbtest c0 4 8) = true := by decide
/-- A postbox operand in no scratchpad, and a misaligned one. -/
theorem test_wit_postbox_bad : aperOf (((at8 gr 64).sees (.pbtest c0 4 8)).s64 8) = .global ∧
    aperOff (((at8 gr (spad 72)).sees (.pbtest c0 4 8)).s64 8) % 16 = 8 ∧ ((at8 gr (spad 72)).tm 1).spadPlace 72 = some (.spad 0 72) := by decide
/-- Barriers: an arrival that completes nothing, the completing one of 64, a count that does not agree, and one out of range. -/
theorem test_wit_barrier : let last := withTm gr (fun t => { t with bars := [(3, ⟨64, 63, true, 0⟩)] })
    let n (s : State) (i : Instr) (x : SSrc) := ((s.sees i).ssrc false false x).toNat
    gr.ready (.barSync c0 3 (.imm 2)) = true ∧ last.ready (.barSync c0 3 (.imm 64)) = true ∧ n last (.barSync c0 3 (.imm 64)) (.imm 64) = 64 ∧
    last.ready (.barArrive c0 3 (.imm 2)) = true ∧ gr.ready (.barArrive c0 3 (.reg 4)) = true ∧ n gr (.barArrive c0 3 (.reg 4)) (.reg 4) = 0 ∧
    gr.me.wait = .none ∧ gr.me.inRestore = false ∧ gr.me.sq = [] := by decide
/-- A waiter of the phase the completing arrival ends. -/
theorem test_wit_barrier_waiter : let s := gr.setAg 1 { gr.me with slot := 1, wait := .barrier 3 true }
    1 ∈ s.teamGroups 1 ∧ (s.ag 1).wait = .barrier 3 true ∧ s.ready (.barSync c0 3 (.imm 2)) = true := by decide
/-- `gbar` outside a resident launch, and in one whose phase it completes or does not. -/
theorem test_wit_gbar : let r := gr.setLa 1 { gr.la 1 with hdr := { (gr.la 1).hdr with resident := true } }
    let b (s : State) := (s.begun (.gbar c0)).release s.cur .pkg
    let u (s : State) := ((b s).setLa 1 { (b s).la 1 with garr := ((b s).la 1).garr ++ [s.cur] }).gbarCheck 1
    let two := (r.setAg 1 { gr.me with slot := 1 })
    (gr.la 1).hdr.resident = false ∧ r.ready (.gbar c0) = true ∧ ((u r).la 1).gphase ≠ ((b r).la 1).gphase ∧ two.ready (.gbar c0) = true ∧
    ((u two).la 1).gphase = ((b two).la 1).gphase := by decide

/-- A context whose tables map virtual page 1 by the entry `e`. -/
def mapped (e : Nat) : State :=
  let s := at8 gr 0x10000
  let put (m : Mem) (a x : Nat) : Mem := memPutBytes m a (leBytes 8 x)
  { s.setCx 0 { s.cx 0 with ptbase := 0x100000 } with classes := [(0x10, .sc), (0x11, .sc), (0x12, .sc), (0x13, .sc)], mem := put (put (put (put s.mem 0x100000 0x110001) 0x110000 0x120001) 0x120000 0x130001) 0x130008 e }
/-- `discard`: another aperture, a misaligned address, an unmapped page, a malformed entry, a read-only page, one that may be written,
one that is being moved. -/
theorem test_wit_discard : let i := Instr.discard c0 8 (.imm 1)
    let walk (s : State) := (s.begun i).peek ((s.cx 0).ptbase.toNat % 2 ^ 56) 0x10000 3
    (at8 gr (spad 0)).ready i = true ∧ (at8 gr 0x10080).ready i = true ∧ (mapped 0).ready i = true ∧ walk (mapped 0) = .unmapped ∧
    walk (mapped 0x200801) = .malformed ∧
    walk (mapped 0x200001) = .leaf 0x200001 0x130008 false ∧ walk (mapped 0x20000B) = .leaf 0x20000B 0x130008 false ∧ walk (mapped 0x20020B) = .leaf 0x20020B 0x130008 false ∧
    (∀ k, k < 3 → ((mapped 0x20000B).ag k).sq = []) ∧ (mapped 0x20000B).ready i = true := by decide
/-- A page of 64 MiB of which one page of 64 KiB is named. -/
theorem test_wit_discard_large : let s := mapped 0
    let s := { s with mem := memPutBytes s.mem 0x120000 (leBytes 8 0x400008B) }
    (s.begun (.discard c0 8 (.imm 1))).peek ((s.cx 0).ptbase.toNat % 2 ^ 56) 0x10000 3 = .leaf 0x400008B 0x120000 true := by decide
theorem test_wit_discard_memory : Mem.wf (((mapped 0x20000B).begun (.discard c0 8 (.imm 1))).recallLine (0x130008 / 128)).mem = true := by decide
/-- `pgclass`: misaligned, beyond the address space, a class over 3 in a register, and one that completes. -/
theorem test_wit_pgclass : let at_ (a c : Nat) := withS fw [(8, BitVec.ofNat 32 a), (9, BitVec.ofNat 32 (a / 2 ^ 32)), (6, BitVec.ofNat 32 c)]
    [at_ 0x10080 0, at_ 0x100000000000000 0, at_ 0x10000 4, at_ 0x10000 3].all (fun s => s.ready (.pgclass c0 8 (.reg 6)) && !s.movingPage 1) = true ∧
    ({ (at_ 0x10000 3) with moving := [({ src := 0x10000, dst := 0x40000, pte := 0x130008, ctx := 0 }, 0)] } : State).movingPage 1 = true := by decide

/-! ### Gangs, the matrix engine, tiles -/

/-- The group at slot 0 with a gang register. -/
def ganged (g : W32) : State := gr.setAg gr.cur { gr.me with gang := g }
/-- Two groups of one gang, the other waiting at the latch with the word `w`. -/
def pair (w : LatchWord) : State := (ganged 0x100020).setAg 1 { gr.me with slot := 1, gang := 0x100020, wait := .latch, latch := some w }

theorem test_wit_gang_set : let i := Instr.gangSet c0 4
    let two := gr.setAg 1 { gr.me with slot := 1 }
    (withS two [(4, 0)]).ready i = true ∧ gangSlots 0x100020 = [0, 1] ∧ (gangSlots 0x100020).Nodup ∧ two.me.slot ∈ gangSlots 0x100020 ∧
    (∀ x ∈ gangSlots 0x100020, (two.ag (64 * two.me.ck + x)).live = true ∧ (two.ag (64 * two.me.ck + x)).kind = .group ∧ (two.ag (64 * two.me.ck + x)).matrix = true ∧
      (two.ag (64 * two.me.ck + x)).team = two.me.team) ∧ two.latchWaiters 0 two.me.gang = [] := by decide
/-- The engine's operand: BF16, 32 by 32, at the scratchpad's start. -/
def img (base fmt rank : Nat) (ext st : List Nat) : BitVec 512 :=
  BitVec.ofNat 512 (base + fmt * 2 ^ 64 + (rank - 1) * 2 ^ 69 + (ext.zipIdx.map (fun p => p.1 * 2 ^ (128 + 24 * p.2))).sum + (st.zipIdx.map (fun p => p.1 * 2 ^ (320 + 24 * p.2))).sum)
def word : LatchWord := { zd := 2, ta := 5, acc := true, fmt := 0, vb := 16, safe := false }
theorem test_wit_latch : let i := Instr.mma c0 true .bf16 2 5 16
    let whole := withTm (pair word) (fun t => { t with tt := [(5, ⟨true, img (spad 0) 4 2 [32, 32] [1, 32], []⟩)] })
    let alone := (ganged 0x100020).setAg 1 { gr.me with slot := 1, gang := 0x100020 }
    gr.ready i = true ∧ gangSize gr.me.gang = 0 ∧ alone.ready i = true ∧ gangSize 0x100020 = 2 ∧ 16 + bRegs .bf16 2 16 ≤ gr.me.nv ∧
    alone.brokenSlot 0 0x100020 = none ∧ alone.latchWaiters 0 0x100020 = [] ∧ whole.ready i = true ∧ whole.brokenSlot 0 0x100020 = none ∧
    whole.latchWaiters 0 0x100020 = [1] ∧ (whole.ag 1).latch = some word ∧ (whole.entry whole.me 5).ill = false ∧
    aTensOk whole whole.me .bf16 2 (whole.entry whole.me 5).t = true := by decide
theorem test_wit_latch_registers : let s := ganged 0x100020
    s.me.live = true ∧ (Instr.mma c0 true .bf16 2 5 255).wf = true ∧ s.me.kind = .group ∧ s.me.matrix = true ∧ gangSize s.me.gang ≠ 0 ∧
    s.me.nv < 255 + bRegs .bf16 2 16 := by decide
/-- An `mma` the engine holds. -/
def held (started acc : Bool) : Mma :=
  { members := [0, 1], word := { word with acc := acc }, vbs := [16, 16], image := ⟨true, img (spad 0) 4 2 [32, 32] [1, 32], []⟩, size := 2, checked := false,
    team := 1, started := started, begun := 4, bregs := [[], []], abuf := List.replicate 512 0 }
theorem test_wit_engine : let s (st acc : Bool) := (gr.setAg 0 { gr.me with wait := .engine }).setCo 0 { gr.co 0 with mmas := [held st acc] }
    let valid (s : State) := s.setCo 0 { s.co 0 with tiles := [(2, ⟨true, 0, []⟩)] }
    (gr.co 0).mmas = [] ∧ ((s false true).co 0).mmas = [held false true] ∧ (held false true).started = false ∧ (held false true).lead = 0 ∧ ((s false true).ag 0).wait = .engine ∧
    ((s false true).tile 0 2).valid = false ∧ ((valid (s false true)).tile 0 2).valid = true ∧ mfmtOf (held false false).word.fmt ≠ .p4 ∧
    ((s true false).co 0).mmas = [held true false] ∧ ((s true false).ag 0).team = (held true false).team ∧ (held true false).members.Nodup ∧ (held true false).checked = false := by decide
/-- Rows 63 and 64 as operands, a valid and an invalid tile. -/
theorem test_wit_tiles : let s := gr.setCo 0 { gr.co 0 with tiles := [(3, ⟨true, 0, []⟩)] }
    let r (n : W32) := withS s [(4, n)]
    (s.co s.me.ck).mmas = [] ∧ (s.tile 0 3).valid = true ∧ (s.tile 0 2).valid = false ∧ s.ready (.zclr c0 3) = true ∧
    [r 63, r 64].all (fun s => s.ready (.zwr c0 3 8 (.reg 4)) && s.ready (.zrd c0 ⟨.f32, false, .rn, 8, 3, .reg 4⟩) && s.ready (.zrd c0 ⟨.f16, false, .rn, 8, 2, .reg 4⟩)) = true := by decide

/-! ### The tensor table, sweeps, the epilogue -/

/-- `ttset`: the base, the format word, extents that fit and do not, strides that do and do not; `ttidx` likewise. -/
theorem test_wit_ttset : let v (a : Nat) := withS gr [(4, BitVec.ofNat 32 a), (5, BitVec.ofNat 32 (a / 2 ^ 32))]
    ([v 7].all (fun s => s.ready (.ttset c0 1 4 0) && s.ready (.ttset c0 1 4 1)) && [v 0xFFFFFF, v 0x1000000].all (fun s => s.ready (.ttset c0 1 4 9) && s.ready (.ttidx c0 true 4 1 7)) &&
      [v 0xFFFFFFFFFF800000, v 0x800000].all (fun s => s.ready (.ttset c0 1 4 17))) = true ∧
    (0xFFFFFFFFFF800000 : W64) = ((0xFFFFFFFFFF800000 : W64).setWidth 24).signExtend 64 ∧ (0x800000 : W64) ≠ ((0x800000 : W64).setWidth 24).signExtend 64 := by decide
/-- `ttld` and `ttst`: aligned and misaligned in the scratchpad, every piece accessible. -/
theorem test_wit_ttld : let s := withS gr [(4, 64), (5, 0xFFFE0000)]
    let t := withS gr [(4, 96), (5, 0xFFFE0000)]
    let pass (i : Instr) (k : AKind) : Bool := match (s.begun i).laneChecks (s.sees i) (pieces 0 ((s.sees i).s64 4)) 16 k with
      | (.ok sp, u) => (match u.loadLanes s.cur 16 .none sp with | (.ok _, _) => true | _ => false)
      | _ => false
    s.ready (.ttld c0 1 4) = true ∧ s.ready (.ttst c0 1 4) = true ∧ t.ready (.ttld c0 1 4) = true ∧ pass (.ttld c0 1 4) .read = true ∧ pass (.ttst c0 1 4) .write = true ∧
    addrBad (t.begun (.ttld c0 1 4)) (t.sees (.ttld c0 1 4)) ((t.sees (.ttld c0 1 4)).s64 4) .read = false ∧ ((t.sees (.ttld c0 1 4)).s64 4).toNat % 64 = 32 := by decide
theorem test_wit_image_field : 488 + 24 ≤ 512 := by decide

/-- Entries 0 to 3: FP32 vectors of four elements in the scratchpad. -/
def vecs : State := withTm gr (fun t => { t with tt := (List.range 4).map (fun k => (k, ⟨true, img (spad (64 * k)) 2 1 [4] [1], []⟩)) })
/-- A sweep that meets nothing, and a check that fails. -/
theorem test_wit_sweep : let i := Instr.tewAdd c0 tw 2
    let d := vecs.entry vecs.me 0
    let es := [vecs.entry vecs.me 1, vecs.entry vecs.me 2]
    let b := (vecs.begun i).drainAll vecs.cur
    vecs.ready i = true ∧ tewCheck d es (mapOk d.t (es.map TEntry.t)).1 (mapOk d.t (es.map TEntry.t)).2 = none ∧
    (sweepFrom (sweepUnit vecs.cur 0 16 true d.t .rn (mapElem (fun _ _ xs => (argV xs 0).add .rn (argV xs 1)) (vecs.sees i) (es.map TEntry.t) vecs.cur 0) (tewConv tw d.t (es.map TEntry.t)))
      d.t.unit ((4 + d.t.unit - 1) / d.t.unit) 0 ⟨b, (b.ag vecs.cur).rng, 0⟩).2 = none ∧
    tewCheck (gr.entry gr.me 0) [gr.entry gr.me 1] true true = some { cause := .ttIllformed } := by decide
/-- A sweep that stops at its first element: a source in a page that is not mapped. -/
theorem test_wit_sweep_stops : let s := withTm vecs (fun t => { t with tt := tput t.tt 1 ⟨true, img 0x7650000 2 1 [4] [1], []⟩ })
    let i := Instr.tewAdd c0 tw 2
    let d := s.entry s.me 0
    let es := [s.entry s.me 1, s.entry s.me 2]
    let b := (s.begun i).drainAll s.cur
    s.ready i = true ∧ tewCheck d es (mapOk d.t (es.map TEntry.t)).1 (mapOk d.t (es.map TEntry.t)).2 = none ∧
    ((sweepFrom (sweepUnit s.cur 0 16 true d.t .rn (mapElem (fun _ _ xs => (argV xs 0).add .rn (argV xs 1)) (s.sees i) (es.map TEntry.t) s.cur 0) (tewConv tw d.t (es.map TEntry.t)))
      d.t.unit ((4 + d.t.unit - 1) / d.t.unit) 0 ⟨b, (b.ag s.cur).rng, 0⟩).2.map (·.1)) = some 0 := by decide
/-- `epi` toward the scratchpad and toward global memory, from a valid and an invalid tile. -/
theorem test_wit_epi : let dst (base : Nat) : State := (withTm gr (fun t => { t with tt := [(1, ⟨true, img base 2 2 [4, 4] [1, 4], []⟩)] })).setCo 0 { gr.co 0 with tiles := [(3, ⟨true, 0, []⟩)] }
    let i := Instr.epi c0 ⟨0, .relu, false, .rn, 1, 3, 0, 4⟩
    let s := dst (spad 0)
    let g := ((dst 0x400).setAg 32 (placeAgent .courier)).setCc 32 {}
    let d := s.entry s.me 1
    let a := (s.begun i).drainAll s.cur
    s.ready i = true ∧ epiCheck .rn d none none = none ∧ (s.tile 0 3).valid = true ∧ (s.tile 0 2).valid = false ∧ d.t.aper = .spad ∧
    (sweepFrom (epiUnit s.cur 0 16 true d.t none (s.tile 0 3).el ((s.sees i).s32 4) 1 .rn false) d.t.unit (d.t.count / d.t.unit) 0 ⟨a, (a.ag s.cur).rng, 0⟩).2 = none ∧
    g.ready i = true ∧ epiCheck .rn (g.entry g.me 1) none (some 32) = none ∧ (g.entry g.me 1).t.aper = .global ∧ g.courierOn g.me.team 0 = some 32 ∧ ((g.cc 32).queue 5).length < 32 ∧
    ((g.cc 32).rcpt 0).count < 255 ∧ g.staging 0 < 8 ∧ g.epiRoom 0 32 0 = true ∧ g.owes g.cur = false ∧ s.owes s.cur = false ∧ g.me.sq = [] ∧ (∀ k, k < 16 → aperOf (d.t.addr (d.t.idx k)).1 = .spad ∧ (d.t.addr (d.t.idx k)).1.toNat % d.t.size = 0) ∧ d.t.count = 16 ∧
    (s.teamOf s.me).pbx = [] ∧ (g.setCc 32 { queues := [(5, List.replicate 8 { kind := .epi })] }).epiRoom 0 32 0 = false ∧ g.me.held = none ∧
    (dst 0x400).courierOn 1 0 = none ∧ epiIll (gr.entry gr.me 1) none = true ∧ epiCheck .rn (g.entry g.me 1) none none = some { cause := .illegal } := by decide

/-! ### The courier's words -/

/-- Room in every queue and receipt; a postbox operand; a list and a group number in and out of range. -/
theorem test_wit_placing : let s := cu.setLa 1 { cu.la 1 with hdr := { (cu.la 1).hdr with ndl := 4 } }
    let p := at8 cu (spad 64)
    s.me.sq = [] ∧ (s.cc s.cur).staged = none ∧ ((s.cc s.cur).rcpt 1).count < 255 ∧ ((s.cc s.cur).queue 0).length < qDepth 0 ∧ ((s.cc s.cur).queue 4).length < qDepth 4 ∧ ((s.cc s.cur).queue 6).length < qDepth 6 ∧
    s.ready (.copyDl c0 ⟨false, false, false, none, 1, 0, 1, 2⟩ 3) = true ∧ s.ready (.copyDl c0 ⟨false, false, false, none, 1, 0, 1, 2⟩ 4) = true ∧ (s.launchOf s.me).hdr.ndl = 4 ∧
    p.ready (.copy c0 ⟨false, false, false, some 8, 1, 0, 1, 2⟩) = true ∧
    pbxArg (p.teamOf p.me) ((p.sees (.copy c0 ⟨false, false, false, some 8, 1, 0, 1, 2⟩)).s64 8) = .ok 64 ∧
    (withS cu [(4, 15)]).ready (.coll c0 ⟨1, .sum, .ar, 1, 2, 4⟩) = true ∧ (withS cu [(4, 16)]).ready (.coll c0 ⟨1, .sum, .ar, 1, 2, 4⟩) = true := by decide
/-- `qwait` with its receipts idle and not; `cgmem` of groups 15 and 16. -/
theorem test_wit_receipts : let busy := cu.setCc cu.cur ((cu.cc cu.cur).name 1)
    (cu.cc cu.cur).idle 2 = true ∧ (busy.cc cu.cur).idle 2 = false ∧ busy.ready (.qwait c0 2) = true ∧
    (∀ q, q < 7 → ((cu.cc cu.cur).queue q).length < qDepth q) ∧ (withS cu [(6, 16)]).ready (.cgmem c0 4 6) = true ∧ ((busy.cc cu.cur).rcpt 1).count = 1 ∧
    (((cu.cc cu.cur).name 1).name 1).rcpt 1 = ⟨2, 1, 0, 0⟩ := by decide

/-! ### Issue checks -/

/-- Each check of R155 has a word it stops: another subset, a vector role, privilege, an early read, no active lane. -/
theorem test_wit_issue : let v := gr.setAg gr.cur { gr.me with matrix := false }
    (gr.shapeOf (.qwait c0 1)).courier = true ∧ (v.shapeOf (.zclr c0 3)).matrix = true ∧ (v.shapeOf (.zclr c0 3)).courier = false ∧ v.me.matrix = false ∧
    (cu.shapeOf (.vadd c0 false vb)).group = true ∧ (gr.shapeOf (.eret c0)).priv = true ∧ (gr.shapeOf (.eret c0)).courier = false ∧ (gr.shapeOf (.eret c0)).matrix = false ∧
    (gr.shapeOf (.eret c0)).group = false ∧ (encode (.eret c0)).isSome = true ∧
    (withAct gr 0).effective (.vadd c0 false vb) = false ∧ (withAct gr 0).me.issueTrap ((withAct gr 0).shapeOf (.vadd c0 false vb)) = none ∧
    (withAct gr 0).tooEarly (.vadd c0 false vb) = none := by decide
theorem test_wit_early : let p : Pend := { cls := .s, idx := 5, avail := 9, step := 0, oldS := 0, oldV := [], pc := 0 }
    let s := (gr.setDi 0 { gr.di 0 with ckscb := true }).setAg gr.cur { gr.me with pend := [p] }
    s.tooEarly (.sadd c0 sb) = some p ∧ s.me.issueTrap (s.shapeOf (.sadd c0 sb)) = none := by decide
/-- Words that name registers at the allocation: the first one, and a destination. -/
theorem test_wit_allocation : let s := gr.setAg gr.cur { gr.me with ns := 8, nv := 8 }
    (Instr.sadd c0 ⟨false, 8, 8, .reg 6⟩).wf = true ∧ (Instr.sadd c0 ⟨false, 8, 7, .reg 6⟩).wf = true ∧ (Instr.vadd c0 false ⟨false, 8, 7, .v 6⟩).wf = true ∧
    s.me.ns = 8 ∧ s.me.nv = 8 ∧ s.me.live = true := by decide

/-! ### Traps -/

/-- The placed launch, core and die, changed. -/
def withLa (s : State) (f : Launch → Launch) : State := s.setLa 1 (f (s.la 1))
def withHdr (s : State) (f : Hdr → Hdr) : State := withLa s (fun l => { l with hdr := f l.hdr })
def withDi (s : State) (f : Die → Die) : State := s.setDi 0 (f (s.di 0))

/-- A kernel with a trap vector, and one without. -/
theorem test_wit_kernel_trap : let s := withHdr gr (fun h => { h with trapvec := some 0x100 })
    (s.launchOf (s.ag s.cur)).hdr.trapvec = some 0x100 ∧ Cause.firmware .addr = false ∧ s.me.inHandler = false ∧ s.me.inSave = false ∧ s.me.inRestore = false ∧ s.me.gang = 0 ∧
    s.me.ns = 64 ∧ s.me.sq = [] ∧ (gr.launchOf gr.me).hdr.trapvec = none ∧ Cause.firmware .pageFault = true ∧ (gr.di 0).ringPos < 256 ∧
    (gr.di 0).ring.any (fun p => p.1 == (gr.di 0).ringPos) = false ∧ Mem.wf (gr.no 0).priv = true := by decide
/-- A record of the placed group in the ring, disposed of with `x`; the controller in trap entry. -/
def ringed (x : Byte) : State :=
  let s := fw.setAg 0 { placeAgent .group with wait := .ring 0 }
  let s := s.setDi 0 { s.di 0 with ring := [(0, { cause := 8, agent := 0 })], ringPos := 1 }
  s.setNo 0 { s.no 0 with priv := memPut [] (ringAddr 0 + 62) x }
theorem test_wit_eret : [ringed 1, ringed 2].all (fun s => s.ready (.eret c0) && decide (s.cur = fwKey 0) && (s.ag 0).wait == .ring 0 && (s.ag 0).gang == 0 && (s.co 0).mmas.isEmpty &&
      s.reqs.isEmpty && s.agents.all (fun p => p.2.wait != .ring 256) && (s.di 0).ring.all (fun p => !p.2.engine && p.2.live)) = true ∧
    memGet ((ringed 1).no 0).priv (ringAddr 0 + 62) = 1 ∧ memGet ((ringed 2).no 0).priv (ringAddr 0 + 62) = 2 ∧ (fw.di 0).ring = [] := by decide
theorem test_wit_trap_entry : (((ringed 0).di 0).ring.any (fun p => memGet ((ringed 0).no 0).priv (ringAddr p.1 + 62) == 0)) = true ∧ ((ringed 0).di 0).inTrap = false ∧
    (((ringed 1).di 0).ring.any (fun p => memGet ((ringed 1).no 0).priv (ringAddr p.1 + 62) == 0)) = false := by decide
/-- `trap 255` in a handler whose record can be read. -/
theorem test_wit_trap_return : let s := (withS gr [(62, 0x400)]).setAg gr.cur { (withS gr [(62, 0x400)]).me with inHandler := true }
    s.ready (.trap c0 255) = true ∧ s.me.inHandler = true ∧ s.me.ns = 64 ∧
    (match (s.begun (.trap c0 255)).loadRecord s.cur 0 ((s.sees (.trap c0 255)).s64 62) with
      | (.ok _, u) => decide ((u.ag s.cur).sreg = s.me.sreg ∧ (u.ag s.cur).vreg = s.me.vreg ∧ (u.ag s.cur).kreg = s.me.kreg ∧ (u.ag s.cur).flags = s.me.flags ∧
          (u.ag s.cur).ns = s.me.ns ∧ (u.ag s.cur).pres = s.me.pres)
      | _ => false) = true := by decide

/-! ### System words -/

/-- The I/O die's firmware, which has no register of a die; a launch with a grid. -/
theorem test_wit_system_registers : let io := { (State.reset.setAg (fwKey 32) { fwAtReset 32 with wait := .none }) with cur := fwKey 32 }
    io.ready (.mfs c0 .hashsel 4) = true ∧ 22 ≤ io.me.die ∧ SysReg.ofDie .hashsel = true ∧ fw.me.die < 22 ∧ 1 ≤ (gr.launchOf gr.me).bgx ∧ 1 ≤ (gr.launchOf gr.me).bgy := by decide
/-- A hash variant of the working population and one of another; slices that leave the die below 12. -/
theorem test_wit_register_events : variantCount 0 = popCount (State.reset.di 0).slices ∧ (State.reset.di 0).l2 = [] ∧ variantCount 1 ≠ popCount (State.reset.di 0).slices ∧
    popCount ((State.reset.di 0).slices &&& ~~~ (0x001F : BitVec 16)) < 12 := by decide
/-- `launch`: a class of 4, a misaligned and a foreign argument block, a request that enters, and a full queue. -/
theorem test_wit_launch : let i := Instr.launch c0 4 6 8
    let s (args : Nat) (cls : W32) := withS gr [(6, BitVec.ofNat 32 args), (7, BitVec.ofNat 32 (args / 2 ^ 32)), (8, cls)]
    let r (s : State) := ((s.begun i).release s.cur .dom).performHome s.cur
    let q : LReq := { lid := 0, handle := 0, args := 0, ctx := 0, prio := 3, device := true, entry := none }
    let full := { (s 0x40 3) with admq := [(3, List.replicate 64 q)] }
    [s 0 4, s 8 0, s (spad 0) 0, s 0x40 3, full].all (fun s => s.ready i) = true ∧ (r (s 0x40 3)).deviceWaiting 0 < 64 ∧ (r (s 0x40 3)).admFull 3 = false ∧
    64 ≤ (r full).deviceWaiting 0 := by decide
theorem test_wit_evsig : let i := Instr.evsig c0 7
    let e (s : State) := ((s.begun i).release s.cur .sys).performHome s.cur
    let full := gr.setCx 0 { gr.cx 0 with evq := List.replicate 256 { ctx := 0, code := 0, die := 0, lid := 0, ptb := 0 } }
    gr.ready i = true ∧ ((e gr).cx 0).evq.length < 256 ∧ full.ready i = true ∧ 256 ≤ ((e full).cx 0).evq.length := by decide
/-- `ctxsave` and `ctxrest`: context 64, one without a resident team, one with, one being saved, one saved. -/
theorem test_wit_saves : let s := withS fw [(4, 63)]
    let t := { (withS fw []) with teams := [(1, { live := true, ctx := 0 })] }
    let c (a b : Bool) := (withS fw []).setCx 0 { live := true, saving := a, saved := b }
    (withS fw [(4, 64)]).ready (.ctxsave c0 4) = true ∧ s.ready (.ctxsave c0 4) = true ∧ s.residentTeams 63 = [] ∧ t.ready (.ctxsave c0 4) = true ∧
    t.residentTeams 0 = [1] ∧ (t.cx 0).saved = false ∧ (c true false).ready (.ctxrest c0 4) = true ∧ (c false true).ready (.ctxrest c0 4) = true := by decide
/-- `wsld` in a weight-load launch: misaligned, beyond the store, and a copy of one line. -/
theorem test_wit_wsld : let s (n : W32) := withHdr (withS gr [(4, 0x400), (8, n)]) (fun h => { h with wload := true })
    let i := Instr.wsld c0 4 6 8
    [s 64, s 0x6000080, s 128].all (fun s => s.ready i) = true ∧ (s 64).me.wsProg = 0 ∧ Config.wsBytes < 0x6000080 ∧
    (((s 128).begun i).wsCopy 0 0 0x400 0 1 0).1 = none := by decide

/-! ### Steps of the cores -/

/-- An opportunity with no ready group, one on a busy pipe, and ones that choose, a group before its first word among them. -/
theorem test_wit_issue_opportunity : let s := { gr with go := false }
    let born := { (gr.setAg 0 { gr.me with newborn := true }) with go := false }
    let busy := s.setCo 0 { s.co 0 with pipeFree := [(0, 5)] }
    s.go = false ∧ (s.onPipe 0 0).map (·.1) = [0] ∧ ((s.onPipe 0 0).filter (fun p => s.isReady p.2)).length = 1 ∧ (∀ p ∈ s.onPipe 0 0, p.2.wait = .none) ∧
    busy.cycle < tget (busy.co 0).pipeFree 0 ∧ s.onPipe 0 1 = [] ∧ ((born.onPipe 0 0).filter (fun p => born.isReady p.2)).map (fun p => (p.1, p.2.newborn)) = [(0, true)] := by decide
/-- A group that has yielded, alone and beside a ready one; groups in the crossbar and in pigeonholes. -/
theorem test_wit_core_steps : let y := gr.setAg 0 { gr.me with wait := .yielded 5 }
    let z := y.setAg 4 { gr.me with slot := 4 }
    let x : Hole := { live := true, key := 0x40, team := 1, born := 0, first := 0, model := gr.me, flags := 0, ths := [⟨[], 0, 7⟩], order := none }
    let h (o : Option Release) (n : Nat) := { (withHdr (gr.setCo 0 { gr.co 0 with holes := [(2, { x with order := o })] }) (fun h => { h with reform := n })) with cycle := 5 }
    (∀ p ∈ y.onPipe 0 0, y.isReady p.2 = false) ∧ (∃ p ∈ z.onPipe 0 0, z.isReady p.2 = true) ∧
    ((gr.setCo 0 { gr.co 0 with xbar := [(7, { gr.me with slot := 3 })] }).co 0).xbar.length = 1 ∧
    (h (some ⟨0, 2, 2⟩) 0).freeSlot 1 0 = none ∧ (withTm (h (some ⟨0, 2, 2⟩) 0) (fun t => { t with slots0 := [0, 1] })).freeSlot 1 0 = some 1 ∧
    ((h none 5).la ((h none 5).tm (tget ((h none 5).co 0).holes 2).team).lid).hdr.reform = 5 ∧ (tget ((h none 5).co 0).holes 2).born + 5 ≤ (h none 5).cycle := by decide

/-! ### Pre-emption, kill and end -/

/-- A team asked to stop whose next word is `nop` with safe-point 3, with its table entry and without. -/
def asked (tbl : Bool) : State :=
  let s := withHdr (withTm gr (fun t => { t with pre := .asked 0 })) (fun h => { h with safes := if tbl then [(3, (0x100, 0x200))] else [] })
  { s with mem := memPutBytes s.mem 0 (leBytes 8 0x0200000000000C00), cycle := 1 }
theorem test_wit_preempt : (gr.tm 1).pre = .none ∧ (gr.tm 1).live = true ∧ (∀ ck ∈ (gr.tm 1).cores, (gr.co ck).holes = []) ∧ (gr.safeIdx 0) = none ∧
    (asked true).safeIdx 0 = some 3 ∧ tfind ((asked true).launchOf (asked true).me).hdr.safes 3 = some (0x100, 0x200) ∧ (asked true).me.sq = [] ∧
    tfind ((asked false).launchOf (asked false).me).hdr.safes 3 = none ∧ gr.deadline 1 = none ∧ (asked true).deadline 1 = some 2 ∧
    ({ (asked true) with cycle := 3 }).allSaved 1 = false := by decide
/-- A team whose group has stopped; one whose group has ended. -/
theorem test_wit_save_complete : let s := withTm (gr.setAg 0 { gr.me with wait := .saved }) (fun t => { t with pre := .asked 0 })
    let e := withTm (gr.setAg 0 { gr.me with live := false }) (fun t => { t with pre := .asked 0 })
    let gone (s : State) := s.agents.all (fun p => !(p.2.live && p.2.kind != Kind.firmware && p.2.team == 1)) && (s.teamCouriers 1).all (fun k => (s.cc k).queues.all (fun q => q.2.isEmpty))
    s.allSaved 1 = true ∧ s.mmaBusy 1 = false ∧ e.mmaBusy 1 = false ∧ e.teamOwes 1 = false ∧ gone s = false ∧ e.allSaved 1 = true ∧ gone e = true ∧ s.teamOwes 1 = false := by decide
/-- A saved team and a core with room for it. -/
theorem test_wit_resume : let f : Agent := { placeAgent .group with stopAt := some 3 }
    let s := withTm { (withHdr gr (fun h => { h with safes := [(3, (0x100, 0x200))] })) with agents := [] } (fun t => { t with pre := .saved, slots0 := [], frames := [(0, f)] })
    let l := s.la (s.tm 1).lid
    (s.tm 1).pre = .saved ∧ s.wsClash 1 1 = false ∧ l.hdr.paired = false ∧ s.teamRoom l.hdr 1 3 = some [([0], 0)] ∧ (s.tm 1).frames = [(0, f)] ∧ f.kind = .group ∧ f.core = (s.tm 1).core ∧
    4 ≤ f.ns ∧ f.stopAt = some 3 ∧ tfind l.hdr.safes 3 = some (0x100, 0x200) := by decide
/-- A kill under way at one home and complete at all of them. -/
theorem test_wit_kill : let s := gr.setCx 0 { gr.cx 0 with killing := true }
    let r := homes.foldl (fun s h => s.setNo h { s.no h with gens := [(0, 1)] }) s
    (gr.cx 0).killing = false ∧ (s.cx 0).killing = true ∧ 22 ∈ homes ∧ tget (s.no 22).gens 0 ≤ (s.cx 0).gen ∧ s.allRaised 0 = false ∧ r.allRaised 0 = true := by decide
theorem test_wit_team_end : let s := gr.setAg 0 { gr.me with live := false }
    (s.tm 1).live = true ∧ (s.tm 1).pre ≠ .saved ∧ (s.no (s.tm 1).die).fenced = false ∧ s.groupsDone 1 = true ∧ s.teamCouriers 1 = [] ∧ (s.la 1).cause = 0 ∧
    (∀ p ∈ s.teams, p.1 = 1) ∧ gr.groupsDone 1 = false ∧ s.teamOwes 1 = false := by decide

/-! ### Admission, placement, the timetable -/

/-- A context whose page holds a save area of 8 blocks, a kernel header at 0x100, its magic as given, and a launch prefix before 0x300. -/
def kernel (magic x : Nat) : State :=
  let hdr := leBytes 4 magic ++ leBytes 2 1 ++ [0, 1, 1, 1] ++ leBytes 18 0 ++ leBytes 4 1 ++ leBytes 8 0 ++ leBytes 4 0x100
  let s := { gr with agents := [], teams := [], launches := [] }
  { s with mem := memPutBytes (memPutBytes (memPut s.mem 0 8) 0x100 hdr) 0x2F0 (leBytes 4 x ++ leBytes 2 1 ++ leBytes 2 1), admq := [(1, [{ lid := 5, handle := 0x100, args := 0x300, ctx := 0, prio := 1, device := false, entry := none }])] }
def request : LReq := { lid := 5, handle := 0x100, args := 0x300, ctx := 0, prio := 1, device := false, entry := none }
theorem test_wit_admission_header : (kernel 0x314B5A50 7).fencing = [] ∧ (kernel 0x314B5A50 7).admOrder = [request] ∧ State.reset.admOrder = [] ∧
    (match (kernel 0 7).admRead request with | (.invalid d a, _) => d == 0 && a == 0 | _ => false) = true ∧
    (match (kernel 0x314B5A50 0).admRead request with | (.ok h p, v) => !v.limitsOk 0 h p | _ => false) = true := by decide
theorem test_wit_admission : (match (kernel 0x314B5A50 7).admRead request with
    | (.ok h p, v) => v.limitsOk 0 h p && !h.resident &&
        State.fitsDie { (v.dropReq request).setLa 5 (newLaunch request h p v.nextOrder) with nextOrder := v.nextOrder + 1, admLast := tput v.admLast 1 0 } 5
    | _ => false) = true := by decide
/-- A launch with block groups left on die 0, and a distributor with nothing. -/
def work : State :=
  { gr with agents := [], teams := [], cores := [], mem := memPut [] 0 8, launches := [(5, { live := true, lid := 5, ctx := 0, prio := 1, hdr := { placeHdr with entry := 0x100 }, bgx := 7, order := 1, ranges := [(0, 0, 7)] })] }
theorem test_wit_placement : State.reset.placeStep 0 = none ∧ (work.di 0).inService = true ∧ (∀ q, q < 1 → work.candidates 0 q = []) ∧ work.candidates 0 1 = [(5, 0, false)] ∧
    (work.no 0).fenced = false ∧ (∀ q, q ≤ 1 → work.residents q = []) ∧
    (match work.placeFrom 5 0 0 (List.range 16) (work.distAt 0) with | some v => v.keepsRoom 5 0 | none => false) = true := by decide
theorem test_wit_steal : let l := work.la 5
    work.placeable l = true ∧ l.hdr.resident = false ∧ (work.di 1).inService = true ∧ l.ranges = [(0, 0, 7)] ∧ State.reset.steal 5 1 = none := by decide
/-- A launch no cluster holds: sixteen teams of a whole scratchpad each. -/
theorem test_wit_cluster_sized : (work.setLa 5 { work.la 5 with hdr := { (work.la 5).hdr with bgteams := 16, spad := 393216 } }).clusterSized 5 = false ∧ work.clusterSized 5 = true := by decide
theorem test_wit_waiting : work.waiting (work.la 5) = some 0 ∧ work.prioWait = none ∧ work.serviceDies.any (fun d => (work.placeBg 5 0 d (List.range 16)).isSome) = true ∧
    State.reset.waiting (State.reset.la 5) = none := by decide

/-- A class 0 launch that waits while a class 3 team holds the only core in service. -/
def crowded : State :=
  { work with dies := [(0, { dieAtReset .inService with cores := 1, tlb := [placeTlb] })],
              launches := [(5, { work.la 5 with prio := 0 }), (6, { work.la 5 with lid := 6, prio := 3, ranges := [] })],
              teams := [(1, { live := true, lid := 6, ctx := 0, spad := 393216, slots0 := [0] })], cores := [(0, { zteam := some 1 })] }
theorem test_wit_priority : crowded.waiting (crowded.la 5) = some 0 ∧ crowded.prioWait = none ∧ crowded.serviceDies = [] ++ 0 :: [] ∧
    crowded.serviceDies.any (fun d => (crowded.placeBg 5 0 d (List.range 16)).isSome) = false ∧ crowded.enough 5 0 0 (crowded.victims 0 0) = some [(6, 0)] := by decide
theorem test_wit_weight_store : (State.reset.di 0).wsOwner ≠ some 0 ∧ (withDi gr (fun d => { d with wsOwner := some 0 }) |>.di 0).wsOwner = some 0 := by decide

/-- A timetable entry of context 0 with its slot at 100 ns, at 150 ns of the time base. -/
def timed (t : TTab) : State := { (gr.setCx 0 { live := true }) with timetable := [(4, { t with next := some 100, enable := true, period := 10000 })], ptb := 150, teams := [(1, { live := true, lid := 9 })] }
theorem test_wit_timetable : let t := tget (timed {}).timetable 4
    t.next = some 100 ∧ t.enable = true ∧ 100 ≤ (timed {}).ptbAt ioNode ∧ 0 < t.period ∧ (timed {}).ptbAt ioNode - 100 < t.period ∧ (timed {}).ttBlocked 0 0 = false ∧
    (timed {}).admFull 0 = false ∧ (timed {}).stoppedFor 0 = false ∧ (timed {}).launchTeams 9 ≠ [] ∧ (tget State.reset.timetable 4).next = none := by decide
/-- Overruns under each policy, an entry that holds an instance, free and blocked. -/
theorem test_wit_overrun : let h : Hold := { handle := 0, args := 0, ctx := 0, prio := 0, slot := 90 }
    ((List.range 3).all (fun p => (tget (timed { policy := p, running := some 9 }).timetable 4).running == some 9 && (tget (timed { policy := p, running := some 9 }).timetable 4).policy == p)) = true ∧
    (tget (timed { hold := some h }).timetable 4).hold = some h ∧ (tget (timed { hold := some h }).timetable 4).running = none ∧ (timed { hold := some h }).ttBlocked h.ctx h.prio = false ∧
    (tget (timed { hold := some h, running := some 9 }).timetable 4).running.isSome = true ∧
    (tget (timed { policy := 1, running := some 9, parked := some 8 }).timetable 4).held = true ∧ (tget (timed { policy := 2, running := some 9 }).timetable 4).held = false := by decide

/-! ### The engines -/

/-- The courier context with `x` at the head of queue `q`. -/
def queued (q : Nat) (x : Cmd) : State := cu.setCc cu.cur { queues := [(q, [x])] }
/-- FP32 vectors of one element at two places of the scratchpad. -/
def one (o : Nat) : TEntry := ⟨true, img (spad o) 2 1 [1] [1], []⟩
def cmd (k : CmdKind) : Cmd := { kind := k, dst := one 0, src := one 64, rcpt := 1 }
theorem test_wit_command_start : (queued 0 (cmd .copy)).head cu.cur 0 = some (cmd .copy) ∧ (queued 0 (cmd .copy)).cmdBad cu.cur { cmd .copy with started := true } = none ∧
    (queued 0 (cmd .copyDl)).cmdBad cu.cur { cmd .copyDl with started := true } = none ∧ (queued 0 (cmd .copyDl)).dlTeams cu.cur 0 = [] ∧
    (queued 0 { cmd .copy with dst := ⟨false, 0, []⟩ }).cmdBad cu.cur { cmd .copy with dst := ⟨false, 0, []⟩, started := true } = some 0 ∧ cu.head cu.cur 0 = none := by decide
theorem test_wit_engine_starts : let l : Cmd := cmd .layout
    let e : Cmd := { cmd .epi with dst := ⟨true, img 0x400 2 2 [4, 4] [1, 4], []⟩, act := 1 }
    let c : Cmd := { cmd .coll with dst := ⟨true, img 0x400 2 1 [4] [1], []⟩, src := ⟨true, img 0x500 2 1 [4] [1], []⟩ }
    (queued 4 l).cmdBad cu.cur { l with started := true } = none ∧ (queued 5 e).cmdBad cu.cur { e with started := true } = none ∧
    (queued 6 c).cmdBad cu.cur { c with started := true } = none ∧ ((queued 6 c).liveMask ((queued 6 c).ctxOf ((queued 6 c).ag cu.cur)) 0).getLsbD Config.pkg = false := by decide
theorem test_wit_command_end : let d : Cmd := { cmd .copy with started := true, result := some 2 }
    let z : Cmd := { cmd .copySeal with started := true, result := some 2 }
    let st : Cmd := { cmd .copy with started := true, stalled := true }
    (queued 0 d).head cu.cur 0 = some d ∧ (queued 0 z).head cu.cur 0 = some z ∧ (queued 0 st).head cu.cur 0 = some st ∧
    ((queued 0 st).di ((queued 0 st).ag cu.cur).die).ring.any (fun r => r.2.engine && r.2.agent == cu.cur) = false := by decide
/-- The last element of a copy, of a layout command and of an epilogue, each read and written without a stop. -/
theorem test_wit_engine_work : let x : Cmd := { cmd .copy with started := true }
    let s := queued 0 x
    let t := s.setCo 0 { s.co 0 with rotation := 1 }
    s.copyPairs 0 = [(0, cu.cur, 0)] ∧ x.dst.t.count = x.prog + 1 ∧ x.dst.t.f ≠ .p4 ∧ (∀ p ∈ (copySrc x (x.dst.t.idx 0)).zipIdx, p.1 < x.src.t.ex p.2 ∨ x.src.t.bc p.2 = true) ∧
    (match t.cRead cu.cur (x.src.t.addr (copySrc x (x.dst.t.idx 0))).1 x.dst.t.size with
      | (.ok (v, _), u) => (u.tWrite cu.cur 0 (copyAddr x (x.dst.t.idx 0)).1 x.dst.t.size v).1.isNone
      | _ => false) = true := by decide
/-- A command of `copy.dl` that reaches its own team, whose postbox at byte 0 is armed or not. -/
def toList (armed : Bool) : State :=
  let s := queued 0 { cmd .copyDl with started := true }
  withTm (s.setLa 1 { s.la 1 with hdr := { (s.la 1).hdr with dlists := [(0, 1)], ndl := 1 } }) (fun t => { t with pbx := if armed then [(0, .team)] else [] })
theorem test_wit_list_work : let x : Cmd := { cmd .copyDl with started := true }
    let at_ := copyAddr x (x.dst.t.idx 0)
    [false, true].all (fun b =>
      let s := toList b
      s.copyPairs 0 == [(0, cu.cur, 0)] && s.head cu.cur 0 == some x && s.dlTeams cu.cur 0 == [1] &&
        match (s.setCo 0 { s.co 0 with rotation := 1 }).cRead cu.cur (x.src.t.addr (copySrc x (x.dst.t.idx 0))).1 x.dst.t.size with
        | (.ok _, u) => u.dlHit at_.1 x.dst.t.size 1 == b
        | _ => false) = true := by decide
theorem test_wit_layout_work : let l : Cmd := { cmd .layout with started := true }
    let s := queued 4 l
    s.layoutHeads 0 0 = [(0, cu.cur)] ∧ l.dst.t.count = 1 ∧
    (match layoutSrc (dmapOf l.dmw) (((dmapOf l.dmw).outs l.src.t).getD []) (l.dst.t.idx 0) with
      | some i => (match s.cRead cu.cur (l.src.t.addr i).1 l.dst.t.size with | (.ok (v, _), u) => (u.tWrite cu.cur 0 (l.dst.t.addr (l.dst.t.idx 0)).1 l.dst.t.size v).1.isNone | _ => false)
      | none => true) = true := by decide
theorem test_wit_epilogue_work : let e : Cmd := { cmd .epi with dst := ⟨true, img 0x400 2 2 [1, 1] [1, 1], []⟩, act := 1, started := true }
    let s := queued 5 e
    let d := e.dst.t
    s.epiHeads 0 = [cu.cur] ∧ (sweepFrom (epiUnit cu.cur 0 16 false d none e.snap e.scale e.act e.rnd e.sat) d.unit ((d.count + d.unit - 1) / d.unit) 0 ⟨s, e.rng, 0⟩).2 = none ∧
    cu.epiHeads 0 = [] ∧ cu.copyPairs 0 = [] ∧ cu.layoutHeads 0 0 = [] := by decide
/-- An epilogue whose destination's page is not mapped. -/
theorem test_wit_epilogue_stop : let e : Cmd := { cmd .epi with dst := ⟨true, img 0x7650000 2 2 [1, 1] [1, 1], []⟩, act := 1, started := true }
    let s := queued 5 e
    let d := e.dst.t
    s.epiHeads 0 = [cu.cur] ∧ (sweepFrom (epiUnit cu.cur 0 16 false d none e.snap e.scale e.act e.rnd e.sat) d.unit ((d.count + d.unit - 1) / d.unit) 0 ⟨s, e.rng, 0⟩).2.isSome = true := by decide
/-- A collective under way in a group of this package and a lost one. -/
theorem test_wit_collectives : let x : Cmd := { cmd .coll with started := true }
    let s := queued 6 x
    s.couriers = [(cu.cur, s.cc cu.cur)] ∧ s.ctxOf (s.ag cu.cur) = 0 ∧ s.head cu.cur 6 = some x ∧ pkgsOf (s.liveMask 0 0) ≠ [Config.pkg] ∧
    ({ cu with domain := [0, 3] } : State).domain.contains 3 = true ∧ (3 : Nat) ≠ Config.pkg ∧ Mem.wf (cu.no ioNode).priv = true ∧
    cu.couriers.any (fun p => cu.ctxOf (cu.ag p.1) == 0 && (p.2.queue 6).any (fun x => x.kind == .coll && x.group == 0)) = false := by decide

/-! ### Coherence -/

/-- One message of die 3 for line 8, and the line's directory entry. -/
def msg (k : MKind) : Msg := mkMsg k 3 8
def sent (k : MKind) (d : Dir) : State := { State.reset with net := [msg k], dirs := [(8, d)] }
theorem test_wit_coherence : let k := [MKind.readS, .readM, .upgrade, .writeBack, .cleanEvict, .inv, .fwdS, .fwdI, .snoopAck, .readRC, .dirtyNotice, .merge, .recall, .wsRead, .wsWrite, .lineset]
    (k.all (fun k => (sent k {}).net.find? (fun y => y.kind == k && y.die == 3 && y.line == 8) == some (msg k))) = true ∧
    ([MKind.grantS, .grantE, .grantM].all (fun k => (sent k {}).net.find? (fun y => y.die == 3 && y.line == 8 && (y.kind == .grantS || y.kind == .grantE || y.kind == .grantM)) == some (msg k))) = true ∧
    ((sent .readS {}).no ((sent .readS {}).homeOf (128 * 8))).marks.contains 3 = false ∧ (sent .readS {}).genAt 8 0 ≤ (msg .merge).gen ∧ (sent .readS {}).lineLost 8 = false := by decide
/-- Directory entries of each clause: uncached, shared with and without others, owned by another die, in progress. -/
theorem test_wit_directory : let t : Txn := { want := 5, excl := true, data := true, acks := BitVec.twoPow 22 3 }
    ([DSt.u, .s (BitVec.twoPow 22 3), .s 0x3, .x 3, .x 5].all (fun d => ((sent .readM { sc := d }).dr 8).sc == d)) = true ∧ ((sent .snoopAck { busy := some t }).dr 8).busy = some t ∧
    t.acks &&& ~~~ BitVec.twoPow 22 3 = 0 ∧ (0x3 : BitVec 22) &&& ~~~ BitVec.twoPow 22 3 ≠ 0 ∧ (msg .snoopAck).mask = 0 ∧ ((sent .readS { busy := some t }).dr 8).busy = some t := by decide
/-- A write-back of an owned line that is lost, and one of a context whose generation its home has raised. -/
theorem test_wit_write_back : let m : Msg := { msg .writeBack with mask := fullMask }
    let s : State := { State.reset with net := [m], dirs := [(8, { sc := .x 3, lost := true })] }
    let h := s.homeOf (128 * 8)
    s.net.find? (fun y => y.kind == .writeBack && y.die == 3 && y.line == 8) = some m ∧ s.lineLost 8 = true ∧ s.genAt 8 m.ctx ≤ m.gen ∧ m.mask ≠ 0 ∧ (s.dr 8).sc = .x 3 ∧
    m.gen < (s.setNo h { s.no h with gens := [(0, 2)] }).genAt 8 m.ctx := by decide
/-- A die that holds the line modified; one that does not; a home that has marked the die. -/
theorem test_wit_lines : let x : L2Line := { line := 8, cls := .sc, st := .m, data := 7, mask := 1, fill := true, ctx := 0, gen := 0 }
    let s := (sent .fwdS {}).setDi 3 { State.reset.di 3 with l2 := [x] }
    let h := (sent .readS {}).homeOf (128 * 8)
    (s.di 3).line? 8 = some x ∧ ((sent .readRC {}).di 3).line? 8 = none ∧ (((sent .readS {}).setNo h { (sent .readS {}).no h with marks := [3] }).no h).marks.contains 3 = true := by decide
theorem test_wit_atomic_at_home : let s := gr
    s.net.find? (fun y => y.line == 0 && s.ripe y) = none ∧ (s.di 0).line? 0 = none ∧ s.homeAbort 0 (s.classAt (linePage 0)) = none ∧ s.genAt 0 0 ≤ (s.cx 0).gen ∧
    ({ s with domain := [] }).homeAbort 0 .rc = some .data := by decide

/-! ### Remote atomics, time, links -/

def req (sends : Nat) (dst : Option Nat) : Req :=
  { id := 4, agent := 0, lane := 63, pkg := 0, die := 0, core := 0, tag := 9, t0 := 0, sends := sends, pa := 0x400, va := 0x400, w64 := false, op := .add, b := 1, c := 0, dst := dst, fail := 0 }
/-- A request at its home: fresh and not yet performed, performed already, too late. -/
theorem test_wit_remote_home : let r : RemReq := { pkg := 1, die := 0, core := 0, tag := 9, t0 := 0, pa := 0x400, w64 := true, op := .add, b := 1, c := 0, ctx := 0, gen := 0 }
    let k : Kept := { pkg := 1, die := 0, core := 0, tag := 9, data := 5, at_ := 0 }
    gr.ptbAt (gr.homeOf r.pa) < r.t0 + 1000000 ∧ paPkg r.pa = Config.pkg ∧ gr.classAt (linePage (r.pa / 128)) = .rc ∧ gr.homeAbort (r.pa / 128) .rc = none ∧ gr.genAt (r.pa / 128) 0 ≤ 0 ∧
    (gr.no (gr.homeOf r.pa)).marks.contains (markKey 1 0) = false ∧ ({ gr with window := [k] }).window.find? (fun y => y.of r.pkg r.die r.core && y.tag == r.tag) = some k ∧
    (match ({ gr with losses := [], domain := [] }).remotePerform r with | (.error _, _) => true | _ => false) = true ∧
    1000000 ≤ ({ gr with ptb := 1000000 }).ptbAt (gr.homeOf r.pa) := by decide
/-- Requests at their requester: unsent, due again, answered, timed out; an `atom` and a `red`. -/
theorem test_wit_remote_requester : let s (n t : Nat) (d : Option Nat) : State := { gr.setAg 0 { gr.me with wait := .remote } with reqs := [req n d], ptb := t }
    (s 3 750000 (some 4)).reqs = [req 3 (some 4)] ∧ (req 3 none).t0 + 250000 * 3 ≤ (s 3 750000 none).ptbAt 0 ∧ (s 4 1000000 none).ptbAt 0 = 1000000 ∧
    ((s 1 0 (some 4)).ag 0).wait = .remote ∧ (req 1 (some 4)).pkg = Config.pkg ∧ 1000 * ((s 1 2000000 none).no 0).tmo ≤ (s 1 2000000 none).ptbAt 0 ∧
    ((s 1 0 none).co 0).landing < 128 ∧
    tget ((gr.setCo 0 { gr.co 0 with slots := [(1, 2)] }).co 0).slots 1 ≠ 0 ∧ gr.reqs = [] ∧ tget ({ gr with recent := [(3, [0, 5])], ptb := 1000000 }).recent (0 * 2 ^ 14 + 3) = [0, 5] := by decide
/-- Requests for a line at their requester: unsent, under way, timed out; a slot for the next one, and none. -/
theorem test_wit_remote_line : let q : Req := { req 1 none with kind := .line, pkg := 3 }
    let s (t : Nat) : State := { gr.setAg 0 { gr.me with wait := .remote } with reqs := [q], ptb := t }
    let full := gr.setCo 0 { gr.co 0 with slots := [(3, 8)] }
    (s 0).reqs = [q] ∧ (s 0).ptbAt 0 < q.t0 + 1000 * ((s 0).no 0).tmo ∧ q.t0 + 1000 * ((s 2000000).no 0).tmo ≤ (s 2000000).ptbAt 0 ∧ ((s 0).ag 0).live = true ∧
    ((s 0).co 0).landing < 128 ∧ ({ q with sends := 0 } : Req).waiting = true ∧ gr.slotFree 0 3 = true ∧ full.slotFree 0 3 = false := by decide
theorem test_wit_time : State.reset.timeSource = true ∧ ({ State.reset with domain := [0, 3] }).timeSource = false ∧ ({ State.reset with ptb := 10000000000 }).lastTime + 10000000000 ≤ 10000000000 ∧
    State.reset.ptb < State.reset.lastTime + 10000000000 ∧ (State.reset.no 3).powered = true ∧ (State.reset.no 20).powered = false := by decide
theorem test_wit_links : let down : State := { State.reset with ports := [(15, { up := false, lanes := 0x3 })] }
    (tget State.reset.ports 15).up = true ∧ (tget State.reset.ports 15).seqS = 0 ∧ (tget down.ports 15).up = false ∧ (tget State.reset.ports 15).lanes.getLsbD 7 = true ∧
    (tget down.ports 15).lanes.getLsbD 7 = false ∧ routerOf 32 = (3, 2) ∧ (State.reset.no 32).modules.getLsbD 13 = true ∧ (State.reset.no 3).modules.getLsbD 13 = false ∧
    far.syncPort 3 = some 15 ∧ far.bulkPort 3 0x1000 = some 15 ∧ far.reachable 64 = false ∧ far.reachable 5 = false ∧ paPkg 0x3000000000000 ≠ Config.pkg ∧
    (tget State.reset.ports 0).syncLane = some 0 ∧ ({ lanes := 0xF0 } : Port).syncLane = some 4 ∧ ({ lanes := 0xF0 } : Port).bulkLanes = [5, 6, 7] ∧
    ({ State.reset with held := [{ pkg := 3, die := 1 }] }).held.find? (fun (h : Held) => h.pkg == 3) = some { pkg := 3, die := 1 } := by decide

/-! ### Fencing, joining, errors, losses -/

/-- A node's fencing sequence at each stage; a node already fenced; a restartable launch's team on the die. -/
theorem test_wit_fencing : let s (n : Nat) (hs : List Nat) : State := { gr with fencing := [(0, { stage := n, homes := hs })] }
    let l := (s 2 [22, 23]).homeOf (128 * 8)
    (gr.no 31).fenced = false ∧ ((gr.setNo 3 { gr.no 3 with fenced := true }).no 3).fenced = true ∧ ((s 1 []).fenceSeq 0).stage = 1 ∧ homes.filter (fun h => !(gr.no h).fenced) = homes ∧
    ((s 2 [22, 23]).fenceSeq 0).homes.contains 23 = true ∧ l ∈ homes ∧ paPkg (128 * 8) = Config.pkg ∧ ((s 3 []).fenceSeq 0).stage = 3 ∧ ((s 4 []).fenceSeq 0).stage = 4 ∧
    tfind (s 4 []).launches 1 = some ((s 4 []).la 1) ∧ ((s 4 []).la 1).live = true ∧ ((s 4 []).la 1).cause = 0 ∧ (1, (s 4 []).tm 1) ∈ (s 4 []).teams ∧ ((s 4 []).tm 1).lid = 1 := by decide
/-- The mark of one home whose directory holds one line. -/
theorem test_wit_home_mark : let y : Dir := { sc := .x 0, dirty := 1 }
    let s : State := { State.reset with dirs := [(8, y)], fencing := [(0, { stage := 2, homes := [State.reset.homeOf (128 * 8)] })] }
    s.dirs = [(8, y)] ∧ y.busy = none ∧ (s.fenceSeq 0).homes.contains (s.homeOf (128 * 8)) = true ∧ s.homeOf (128 * 8) ∈ homes := by decide
theorem test_wit_joining : let j (n : Nat) : State := State.reset.setDi 20 { State.reset.di 20 with st := .joining n false }
    (State.reset.di 20).st = .spare ∧ (∀ i, i < 20 → (State.reset.di i).st ≠ .spare) ∧ (State.reset.di 21).st = .spare ∧ ((j 1).di 20).st = .joining 1 false ∧
    ((j 1).di 20).cores &&& ~~~ (0x7FFF : BitVec 16) ≠ 0 ∧ ((j 1).di 20).cores &&& ~~~ (0xFFFF : BitVec 16) = 0 ∧ popCount (0x0FFF : BitVec 16) = 12 ∧ popCount (0x07FF : BitVec 16) = 11 ∧
    ((j 2).di 20).st = .joining 2 false ∧ homes.any (fun h => !((j 2).no h).fenced && ((j 2).no h).marks.contains 20) = false ∧
    ((State.reset.setDi 3 { State.reset.di 3 with st := .fenced }).di 3).st = .fenced ∧ tfind State.reset.fencing 3 = none := by decide
/-- A word whose shadow check has failed is at hand again, or has been passed; an `mma` that repeats a failed self-check; a threshold the count has reached (R447, R450). -/
theorem test_wit_replays : let s (pc : W64) : State := gr.setAg gr.cur { gr.me with retried := some pc }
    (s gr.me.pc).me.retried = some (s gr.me.pc).me.pc ∧ (s (gr.me.pc + 8)).me.pc ≠ gr.me.pc + 8 ∧ ((s (gr.me.pc + 8)).retryEnd.no 0).trans = 1 ∧ mxDiff (some 5) 64 = some (0, 5, 0) ∧
    (let q := { held true false with checked := true, again := true }; ((gr.setCo 0 { gr.co 0 with mmas := [q] }).co 0).mmas = [q]) ∧
    (4 : Nat) ≤ ({ gr.no 3 with lasting := 4 } : Node).lasting ∧ ({ gr.no 3 with lasting := 4 } : Node).reached = true ∧ (gr.no 3).reached = false := by decide
theorem test_wit_errors : let e : ErrInfo := { node := 3, unit := 1, addr := 0x400, cause := 0x03, req := 0 }
    let s : State := { State.reset with errPend := [(40, e)], corrTimes := [(errArray e, List.replicate 1023 0)] }
    ((tget State.reset.corrTimes (errArray e)).filter (fun t => decide (State.reset.ptbAt ioNode < t + 1000000000)) ++ [State.reset.ptbAt ioNode]).length < 1024 ∧
    1024 ≤ ((tget s.corrTimes (errArray e)).filter (fun t => decide (s.ptbAt ioNode < t + 1000000000)) ++ [s.ptbAt ioNode]).length ∧ s.errPend.find? (fun p => p.2 == e) = some (40, e) ∧ State.reset.errPend.find? (fun p => p.2 == e) = none ∧
    ({ e with cause := 0x01, part := .scratch } : ErrInfo).part = .scratch ∧ ({ e with cause := 0x01, part := .control } : ErrInfo).part = .control ∧ e.cause ≠ 0x06 ∧ (State.reset.no 3).thresh = 4 ∧ (State.reset.di 3).slices.getLsbD 15 = true := by decide
/-- A modified line in a slice that fails. -/
theorem test_wit_slice : let x : L2Line := { line := 8, cls := .sc, st := .m, data := 7, mask := 1, fill := true, ctx := 0, gen := 0 }
    let s := State.reset.setDi 3 { State.reset.di 3 with l2 := [x] }
    x ∈ (s.di 3).l2 ∧ sliceOf (s.di 3).slices (s.di 3).variant 8 < 16 ∧ (s.di 3).slices.getLsbD (sliceOf (s.di 3).slices (s.di 3).variant 8) = true := by decide
theorem test_wit_losses : let c : State := State.reset.setNo 22 { State.reset.no 22 with chans := 0x7FFFFFFF }
    let f : State := State.reset.setNo 22 { State.reset.no 22 with chans := 0xFFFFFFF }
    let far : State := State.reset.setNo 30 { State.reset.no 30 with chans := 0xFFFFFFFFFFF }
    State.reset.stackUp &&& BitVec.twoPow 8 7 ≠ 0 ∧ (State.reset.no 22).chans.getLsbD 31 = true ∧ minChans 22 ≤ popCount ((State.reset.no 22).chans &&& ~~~ BitVec.twoPow 48 31) ∧
    popCount ((f.no 22).chans &&& ~~~ BitVec.twoPow 48 27) < minChans 22 ∧ popCount ((far.no 30).chans &&& ~~~ BitVec.twoPow 48 43) < minChans 30 ∧
    State.reset.forwarder = true ∧ c.chanHash 22 = true ∧ ({ State.reset with hbm := 0x7F, stackUp := 0x7F }).stackHash 29 = true ∧ State.reset.chanHash 22 = false := by decide
/-- A re-hash with a unit moved, with one to move, and at its last unit. -/
theorem test_wit_rehash : let s (b : Nat) (m : Bool) : State := State.reset.setNo 22 { State.reset.no 22 with chans := 0x7FFFFFFF, rehash := true, boundary := b, moved := m }
    ((s 5 true).no 22).rehash = true ∧ ((s 5 true).no 22).boundary ≠ 0 ∧ ((s 0 true).no 22).boundary = 0 ∧ ((s 5 false).no 22).moved = false ∧ (s 5 false).chanHash 22 = true := by decide
/-- Every die has the boundary of a home that re-hashes, at its last unit and before. -/
theorem test_wit_boundary : let s (b : Nat) : State := State.reset.setNo 22 { State.reset.no 22 with chans := 0x7FFFFFFF, rehash := true, boundary := b, moved := true }
    let seen (s : State) : State := (List.range 22).foldl (fun s d => s.setDi d { s.di d with bound := [(22, (s.no 22).boundary)] }) s
    (s 5).boundSeen 22 = false ∧ (seen (s 5)).boundSeen 22 = true ∧ (seen (s 0)).boundSeen 22 = true := by decide
/-- A page whose entry may be migrated and one whose entry is no page; one in the middle of a migration, kept, changed, and with no forwarder. -/
theorem test_wit_migration : let m : MigCmd := { src := 0x30000, dst := 0x40000, pte := 0x130008, ctx := 0, dc := 0 }
    let s (e : Nat) : State := { State.reset with mem := memPutBytes [] 0x130008 (leBytes 8 e) }
    let mid (e : Nat) (s : State) : State := { s with mem := memPutBytes [] 0x130008 (leBytes 8 e), moving := [(m, 0x30201)] }
    let may (s : State) : Bool := let p := s.tableWord m.pte; p.2.forwarder && p.2.pageServed m.src && p.2.pageServed m.dst && pteIs p.1 m.src 0
    let stays (s : State) : Bool := let p := s.tableWord m.pte; p.2.pageServed m.src && p.2.pageServed m.dst && pteKept p.1 0x30201
    may (s 0x30001) = true ∧ may (s 0) = false ∧ (s 0).moving = [] ∧ (mid 0 (s 0)).moving.find? (fun x => x.1 == m) = some (m, 0x30201) ∧
    stays (mid 0x30201 (s 0)) = true ∧ stays (mid 0x30203 (s 0)) = false ∧ ((mid 0x30201 (s 0)).tableWord m.pte).2.forwarder = true := by decide
/-- Firmware's next input, with no step of the machine due. -/
theorem test_wit_firmware_step : let s := { gr with go := false, fw := [FwAct.rehash 22] }
    s.todo = [] ∧ s.reqs = [] ∧ [0, 3].dedup.length ≠ s.domain.length ∧ (∀ x ∈ s.losses, x.forGood = false) := by decide

/-! ### The host port, management, power -/

/-- A session bound to context 0 that waits for message 5. -/
def port : State := { gr with sessions := [(2, { bound := true, ctx := 0, want := 5 })] }
def dhp (seq arg len : Nat) (p : List Byte) : Dhp := { session := 2, seq := seq, arg := arg, len := len, payload := p }
theorem test_wit_dhp_next : let se := tget port.sessions 2
    se.bound = true ∧ se.want = 5 ∧ se.ahead = [] ∧ port.hostPending 2 = false ∧ port.serving = true ∧ State.reset.serving = false ∧ port.redir.on = false ∧ port.admFull 3 = false ∧
    port.knows 0 = true ∧ port.knows 1 = false ∧ port.dhpOk 2 (dhp 5 0 1 [7]) = true ∧ port.dhpOk 2 { dhp 5 0 1 [7] with version := 2 } = false ∧ (port.acked 2 0).setSe 2 se = port.acked 2 0 := by decide
/-- A message ahead of a gap, one too many of them, and one performed before. -/
theorem test_wit_dhp_order : let full : Session := { bound := true, want := 5, ahead := (List.range 64).map (fun i => (2, dhp (6 + i) 0 1 [7])), kept := [(4, { chan := 0, typ := 2, session := 2, seq := 0, status := 0, payload := [] })] }
    seqAhead 70 5 < 2 ^ 31 ∧ 2 ^ 31 ≤ seqAhead 4 5 ∧ full.beyond = 64 ∧ full.first = 5 ∧ full.ahead.any (fun p => p.2.seq == 70) = false ∧ (full.kept.find? (fun p => p.1 == 4)).isSome = true ∧
    seqAhead 0xFFFFFFFF 0 = 2 ^ 32 - 1 := by decide
/-- A read and a write of the mapped page; a launch; a timetable entry that is taken and one that is not. -/
theorem test_wit_dhp_performs : let got (typ : Nat) (m : Dhp) : State := port.setSe 2 { tget port.sessions 2 with ahead := [(typ, m)], acks := true }
    let reach (typ : Nat) (m : Dhp) (k : AKind) : Bool := match (got typ m).translate port.admDie 0 m.arg k with
      | (.ok pa cls false _ _ _ _, v) => (v.homeAbort (pa / 128) cls).isNone && cls != .sc && decide (v.sessions = (got typ m).sessions)
      | _ => false
    let tt (p : Nat) : List Byte := leBytes 8 0 ++ leBytes 8 p ++ leBytes 8 0x100 ++ leBytes 8 0x40 ++ [0, 0x80, 0, 0]
    reach 1 (dhp 5 0x400 8 []) .read = true ∧ reach 2 (dhp 5 0x478 8 (leBytes 8 7)) .write = true ∧ 0x478 % 128 + 8 ≤ 128 ∧ (tt 10000).length = 36 ∧ port.ttOk (tt 10000) = true ∧
    port.ttOk (tt 9999) = false ∧ fld (leBytes 8 0x40 ++ [3]) 8 1 = 3 ∧ (leBytes 8 0x40 ++ [(3 : Byte)]).length = 9 := by decide
theorem test_wit_host_events : let e : Event := { ctx := 0, code := 7, die := 0, lid := 1, ptb := 0 }
    let o : Out := { chan := 0, typ := 6, session := 2, seq := 9, status := 0, payload := [] }
    let s : State := { (port.setCx 0 { gr.cx 0 with evq := [e] }) with sessions := [(2, { bound := true, ctx := 0, unacked := [(0, o)], acks := true })], ptb := 1000000 }
    (s.cx 0).evq = [e] ∧ s.eventSession 0 = some 2 ∧ (tget s.sessions 2).unacked.find? (fun p => p.2.seq == 9 && decide (p.1 + 1000000 ≤ s.ptbAt ioNode)) = some (0, o) ∧
    (tget s.sessions 2).acks = true ∧ State.reset.eventSession 0 = none := by decide
theorem test_wit_redirection : let s (n t : Nat) : State := { gr with redir := { step := n, target := 3, sent := 5, total := t }, domain := [0, 3], routes := [(3, [0])] }
    (s 3 9).reachable 3 = true ∧ min 9 (5 + 2) < 9 ∧ (9 ≤ 5 + 4) ∧ (s 4 9).peers = [3] ∧ (3 : Nat) ∉ (s 4 9).redir.acks ∧ (s 5 9).redir.step = 5 ∧
    ({ gr with redir := { step := 4, target := 3 } }).reachable 3 = false := by decide
theorem test_wit_management : State.reset.power ≠ .off ∧ ({ State.reset with power := .off }).power = .off ∧ ({ State.reset with mgmtAddr := some 5 }).mgmtAddr ≠ none ∧ State.reset.redir.step = 0 ∧
    ({ State.reset with mgmtq := List.replicate 9 (1, []) }).mgmtq.length = 9 ∧ (((State.reset.setNo 32 { State.reset.no 32 with temp := some 400 }).no 32).temp = some 400) ∧
    (List.replicate 32 (0 : Byte)).length = 32 := by decide
theorem test_wit_power : State.reset.power = .boot ∧ State.reset.bootFail = false ∧ State.reset.bootSlot = 0 ∧ imageOk 0 0 true true true = true ∧ imageOk 0x80 6 true true true = false ∧
    imageOk 0x80 7 true true true = true ∧ ({ State.reset with power := .capped 3100 }).power = .capped 3100 ∧ ¬ (1 ≤ State.reset.redir.step ∧ State.reset.redir.step ≤ 5) := by decide

/-! ### Steps -/

/-- An agent's word in memory: one word, one with its literal, one that decodes to nothing, a misaligned address; then the queues. -/
theorem test_wit_step : let at_ (pc : W64) (ws : List Nat) : State :=
      let s : State := gr.setAg gr.cur { gr.me with pc := pc }
      { s with mem := memPutBytes [] 0 (ws.flatMap (leBytes 8)), go := false }
    let word (s : State) : Nat := match s.fetchWord s.me s.me.pc with | (.ok w, _) => w.toNat | _ => 0
    gr.go = true ∧ word (at_ 0 [0x0001042021000201]) = 0x0001042021000201 ∧ wantsLit 0x0001042021000201 = false ∧ wantsLit 0x0101042021000001 = true ∧
    word (at_ 0 [0x0101042021000001, 0x8000000000000007]) = 0x0101042021000001 ∧ (at_ 4 []).me.pc.toNat % 8 = 4 ∧ fw.me.kind = .firmware ∧ fw.me.pc.toNat < 2 ^ 20 := by decide
/-- A load that misses in a die that holds its misses back. -/
theorem test_wit_missed : let s : State := withDi (at8 gr 0x400) (fun d => { d with stall := true, l2 := [] })
    let s : State := { s with mem := memPutBytes s.mem 0 (leBytes 8 0x0005081020000000), go := false }
    (match s.fetchNow with | (.ok i, t) => (match exec i t with | .next u => u.missed | _ => false) | _ => false) = true ∧ s.me.kind = .group := by decide
theorem test_wit_encodings : (Instr.vadd c0 false vb).wf = true ∧ (encode (.vadd c0 false vb)).isSome = true ∧ encode (.ptbCode) = none ∧ kindOf 0x8000000000000000 = 2 ∧
    kindOf 0xC000000000000000 = 3 ∧ assigned.all (fun r => 0xC < r.1 || r.2 < 0xC) = true := by decide
theorem test_wit_memory_form : Mem.wf State.reset.mem = true ∧ Mem.wf gr.mem = true ∧ Mem.wf [(3, 1), (5, 2)] = true := by decide

/-! ### More clauses -/

/-- An agent that owes nothing, a page that is not moving, a machine with main power. -/
theorem test_wit_quiet : gr.owes gr.cur = false ∧ cu.owes cu.cur = false ∧ gr.moving = [] ∧ gr.dark = false ∧ ({ gr with power := .off } : State).dark = true ∧ gr.reqs = [] ∧
    gr.agents.all (fun p => p.2.sq.isEmpty) = true := by decide
/-- A yielded group beside a ready one, its last opportunity and an earlier one; groups the barrier unit and a pigeonhole gave back; two of one age. -/
theorem test_wit_yield : let s (n : Nat) : State := (gr.setAg 0 { gr.me with wait := .yielded n }).setAg 4 { gr.me with slot := 4 }
    (s 1).onPipe 0 0 = [(0, { gr.me with wait := .yielded 1 }), (4, { gr.me with slot := 4 })] ∧ (s 1).isReady { gr.me with slot := 4 } = true ∧
    (s 3).onPipe 0 0 = [(0, { gr.me with wait := .yielded 3 }), (4, { gr.me with slot := 4 })] ∧ ((s 3).ag 0).wait = .yielded 3 := by decide
theorem test_wit_ties : let s (w f : Bool) : State := { ((gr.setAg 0 { gr.me with filed := f }).setAg 4 { gr.me with slot := 4, woken := w }) with go := false }
    ((s true true).onPipe 0 0).length = 2 ∧ (∀ p ∈ (s false true).onPipe 0 0, p.2.woken = false) ∧ (∀ p ∈ (s true false).onPipe 0 0, p.2.filed = false) := by decide
/-- A save block that holds the frame as it was written, and one where software has changed it. -/
theorem test_wit_frame : let f : Agent := { placeAgent .group with stopAt := some 3 }
    let t : Team := { gr.tm 1 with pre := .saved, frames := [(0, f)] }
    let s := withDi gr (fun d => { d with tlb := [placeTlb, { placeTlb with vpage := 1 }] })
    let kept : State := { s with mem := memPutBytes (memPutBytes s.mem 64 (frameBytes f ⟨0, 0⟩ 3 0 (f.core - t.core))) 0x1100 (divBytes f) }
    f.core % 65536 = t.core % 65536 ∧ kept.frameKept t 0 0 f = true ∧ s.frameKept t 0 0 f = false := by decide
/-- A block group whose first word has come, and one in its placement step. -/
theorem test_wit_started : (gr.tm 1).started ≤ gr.cycle ∧ (withTm gr (fun t => { t with started := 90 })).cycle < ((withTm gr (fun t => { t with started := 90 })).tm 1).started := by decide
/-- A copied element that the fault input changes, and none; one that overlaps no source element, and one that does; a command that failed before it started. -/
theorem test_wit_flips : let x : Cmd := { cmd .copy with started := true }
    let s : State := (queued 0 x).setCo 0 { cu.co 0 with flips := [(0, 4)] }
    (s.co 0).flips.find? (fun f => f.1 == 0) = some (0, 4) ∧ (cu.co 0).flips.find? (fun f => f.1 == 0) = none ∧
    x.src.t.hits (some (x.src.t.addr [0]).1) (copyAddr x (x.dst.t.idx 0)).1 x.dst.t.size = false ∧
    x.dst.t.hits none (x.dst.t.addr (x.dst.t.idx 0)).1 x.dst.t.size = true ∧
    (queued 0 { cmd .copy with result := some 3 }).head cu.cur 0 = some { cmd .copy with result := some 3 } ∧
    (queued 6 { cmd .coll with started := true, result := some 2 }).head cu.cur 6 = some { cmd .coll with started := true, result := some 2 } := by decide
theorem test_wit_matched : let x (m : Bool) : Cmd := { cmd .coll with started := true, matched := m }
    let s (m : Bool) := queued 6 (x m)
    [false, true].all (fun m => (s m).head cu.cur 6 == some (x m) && (x m).matched == m && (x m).result == none && (s m).ctxOf ((s m).ag cu.cur) == 0) = true := by decide
/-- Each message is the first of its channel; the line has room in its set, its home serves it; a fenced home; a home's bytes that are not gone; a line held exclusively. -/
theorem test_wit_channels : ([MKind.readS, .readM, .upgrade, .writeBack, .cleanEvict, .inv, .fwdS, .fwdI, .snoopAck, .grantS, .grantE, .grantM, .readRC, .dirtyNotice, .merge, .recall, .wsRead, .wsWrite].all
      (fun k => (sent k {}).ripe (msg k))) = true ∧
    ((sent .readS {}).dirs.filter (fun p => p.2.tracked && paPkg (128 * p.1) == Config.pkg && (sent .readS {}).dirSet p.1 == (sent .readS {}).dirSet 8)).length ≤ 15 ∧
    (sent .readS { sc := .x 5 }).dr 8 = { sc := .x 5 } ∧ ({ sc := .x 5 } : Dir).tracked = true := by decide
theorem test_wit_homes : let s : State := { sent .readS {} with domain := [0] }
    let h := s.homeOf (128 * 8)
    let f := s.setNo h { s.no h with fenced := true }
    ({ s with classes := [(0, .sc)] } : State).homeAbort 8 .sc = none ∧ ({ s with classes := [(0, .rc)] } : State).homeAbort 8 .rc = none ∧ f.homeAbort 8 .sc ≠ none ∧ s.homeFenced 8 = false ∧ f.homeFenced 8 = true ∧ s.lineGone 8 = false ∧ s.moving = [] ∧
    (s.no h).marks.contains 3 = false ∧ (s.di 3).line? 8 = none := by decide
theorem test_wit_exclusive : let x : L2Line := { line := 8, cls := .sc, st := .e, data := 7, mask := 0, fill := true, ctx := 0, gen := 0 }
    let s := (sent .fwdS {}).setDi 3 { State.reset.di 3 with l2 := [x] }
    (s.di 3).line? 8 = some x ∧ x.cls = .sc ∧ x.st = .e := by decide
theorem test_wit_home_atomic : gr.net.find? (fun (y : Msg) => y.line == 0 && y.kind != .lineset) = none ∧ gr.net = [] ∧ gr.homeAbort 0 (gr.classAt (linePage 0)) = none ∧ gr.moving = [] ∧
    ({ gr with net := [mkMsg .lineset 3 0] } : State).net.find? (fun (y : Msg) => y.line == 0 && y.kind != .lineset) = none := by decide
/-- A neighbour that is drained, and one that is not; a request whose acquire empties the L1. -/
theorem test_wit_drained : gr.draining.contains 3 = false ∧ ({ gr with draining := [3] }).draining.contains 3 = true ∧ ({ req 1 (some 4) with acq := some .pkg } : Req).acq = some .pkg ∧
    (req 1 (some 4)).acq = none := by decide
/-- The time base near a master's and not; a lock that has lasted 1 s; a step forward over an enabled entry. -/
theorem test_wit_ptp : let s : State := { State.reset with ptb := 2000000000, ptpSince := some 1000000000 }
    (s.ptb ≤ 2000000050 + 100 ∧ 2000000050 ≤ s.ptb + 100) ∧ ¬ (s.ptb ≤ 5 + 100 ∧ 5 ≤ s.ptb + 100) ∧ (some 1000000000).any (fun t => decide (t + 1000000000 ≤ s.ptb)) = true ∧
    ({ s with ptpLock := true, lastTime := 2000000000 }).timeSource = true ∧ ({ s with domain := [0, 3], locked := [] }).timeSource = false ∧
    (let u : State := { (timed {}) with domain := [0, 3] }
     u.timeSource = false ∧ u.ptb + 1000000 ≤ 2000000 ∧ (tget u.timetable 4).next = some 100 ∧ (tget u.timetable 4).enable = true ∧ 0 < (tget u.timetable 4).period) := by decide
/-- Frames: a resend outstanding and none, a plane resent 1,000 times in a millisecond. -/
theorem test_wit_resends : let s : State := { State.reset with ports := [(0, { redoS := some 5, resends := List.replicate 1000 0 })] }
    (tget s.ports 0).redoS = some 5 ∧ (tget s.ports 0).up = true ∧ 1000 ≤ ((tget s.ports 0).resends.filter (fun t => decide (s.ptbAt ioNode < t + 1000000))).length ∧ (tget s.ports 0).syncLane = some 0 ∧
    (tget State.reset.ports 0).redoS = none ∧ (tget State.reset.ports 0).resends.length < 1000 := by decide
/-- Flits: whole, failing its CRC, malformed, at its destination and before it, at its source and past it, one the last router kept and none; a node's last module. -/
def flitOf (src dst len : Nat) (ok : Bool) : FlitHdr := { dst := BitVec.ofNat 6 dst, src := BitVec.ofNat 6 src, len := BitVec.ofNat 4 len, tag := 5, crcOk := ok }
theorem test_wit_flits : let f := flitOf 3 32 0 true
    let at3 := routerOf 3
    let s : State := { State.reset with links := [(linkNo at3 (at3.1 + 1, at3.2), [f])] }
    f.src.toNat ≤ 32 ∧ f.dst.toNat ≤ 32 ∧ 4 < (flitOf 3 32 5 true).len.toNat ∧ 32 < (flitOf 3 33 0 true).dst.toNat ∧ 32 < (flitOf 40 3 0 true).src.toNat ∧ routerOf 32 ≠ at3 ∧
    (flitOf 3 32 0 false).crcOk = false ∧ f.crc = none ∧ { f with crc := some (flitCrc (flitWord f)) }.crc = some (flitCrc (flitWord f)) ∧
    (tget s.links (linkNo at3 (at3.1 + 1, at3.2))).reverse.find? (fun z => z.src == f.src && z.tag == f.tag) = some f ∧
    (tget State.reset.links (linkNo at3 (at3.1 + 1, at3.2))).reverse.find? (fun z => z.src == f.src && z.tag == f.tag) = none ∧
    ((State.reset.setNo 23 { State.reset.no 23 with modules := 1 }).no 23).modules &&& ~~~ BitVec.twoPow 14 0 = 0 := by decide
/-- A fence with a package to wait for, and with none; a dirty notice on its way to the home; a migration of a home that is fenced. -/
theorem test_wit_fence_peers : let s : State := { gr with domain := [0, 3], fencing := [(0, { stage := 1, homes := [] })] }
    let m : MigCmd := { src := 0x30000, dst := 0x40000, pte := 0x130008, ctx := 0, dc := 0 }
    let h := gr.homeOf (128 * 8)
    s.domain.filter (· != Config.pkg) = [3] ∧ gr.domain.filter (· != Config.pkg) = [] ∧ (s.fenceSeq 0).stage = 1 ∧
    (∃ x ∈ ({ gr with net := [mkMsg .dirtyNotice 0 8] }).net, x.kind = .dirtyNotice ∧ x.die = 0 ∧ x.line = 8) ∧ h ∈ homes ∧ (gr.dr 8).busy = none ∧
    ({ gr with moving := [(m, 0x30201)] }).homeOf m.src = gr.homeOf m.src ∧ 22 ≤ gr.homeOf m.src ∧
    (∀ x ∈ gr.net, x.kind ≠ .dirtyNotice) := by decide
/-- A die that joins: its image accepted or not yet, enough modules and too few, marks kept at a home and at another package, and none. -/
theorem test_wit_joins : let j (c : Bool) (n : Nat) : State := (State.reset.setDi 20 { State.reset.di 20 with st := .joining n false, checked := c }).setNo 20 { State.reset.no 20 with modules := 0x3F }
    ((j true 1).di 20).checked = true ∧ ((j false 1).di 20).checked = false ∧ ((j true 1).di 20).st = .joining 1 false ∧ tfind (j true 1).fencing 20 = none ∧ 3 ≤ popCount ((j true 1).no 20).modules ∧
    popCount (((j true 1).setNo 20 { (j true 1).no 20 with modules := 3 }).no 20).modules < 3 ∧
    (tget ({ (j true 2) with domain := [0, 3], rejoins := [(20, [3])] }).rejoins 20).any (fun p => [0, 3].contains p) = true ∧
    (tget (j true 2).rejoins 20).any (fun p => (j true 2).domain.contains p) = false := by decide
/-- Errors of each array of a core and of the controlling units. -/
theorem test_wit_error_parts : let e (p : ErrPart) : ErrInfo := { node := 3, unit := 1, addr := 0x400, cause := 0x01, req := 0, part := p }
    [ErrPart.l1, .l2, .scratch, .control].all (fun p => (e p).part == p && (({ State.reset with errPend := [(40, e p)] }).errPend.find? (fun x => x.2 == e p)) == some (40, e p)) = true := by decide
/-- A table line that cannot be read, and one that can. -/
theorem test_wit_table_line : ({ gr with classes := [(0x13, .sc)] } : State).tableAbort 0x130008 = none ∧ ({ gr with domain := [] }).tableAbort 0x130008 ≠ none := by decide
theorem test_wit_firmware_acts : [FwAct.reinit 8, .rehash 22, .domain [0, 3], .route 3 [0, 1], .errBase 0 0x1000, .bind 2 0 5, .fuses 3, .peerLock 3 true, .peerLock 3 false, .drain 3, .address (some 9) none,
      .cleared 3 20, .marked 3 0, .unbind 2].all (fun f =>
    let s : State := { gr with go := false, fw := [f] }
    !s.go && !s.dark && s.todo.isEmpty && s.fw == [f]) = true ∧
    ({ gr with fencing := [(0, { stage := 2, homes := [22], pkgs := [3] })] }).fenceSeq 0 = { stage := 2, homes := [22], pkgs := [3] } := by decide
/-- Frames that arrive, too long, and with a header whole and cut; the port's own addresses. -/
theorem test_wit_frames : (dhp 5 0 1 [7]).frame ≤ 9216 ∧ 9216 < ({ dhp 5 0 1 [7] with frame := 9217 } : Dhp).frame ∧ (dhp 5 0 1 [7]).raw = [] ∧ ({ dhp 5 0 1 [7] with raw := List.replicate 32 0 } : Dhp).raw.length = 32 ∧
    ({ dhp 5 0 1 [7] with raw := List.replicate 31 0 } : Dhp).raw ≠ [] ∧ ({ port with ipv4 := some 9 }).ipv4 = some (dhp 5 9 1 [7]).arg ∧ ({ port with ipv6 := some 9 }).ipv6 = some (dhp 5 9 1 [7]).arg ∧
    port.ipv4 ≠ some 0 ∧ port.ipv6 ≠ some 0 := by decide
/-- A redirection at step 7 toward the same neighbour and another; a neighbour lost for 1 s, for less, and not; an acknowledgement of a session beyond the last. -/
theorem test_wit_redirection_loss : let s (n : Nat) (t : Option Nat) : State := { gr with redir := { step := n, target := 3, lostAt := t }, ptb := 1500000000 }
    (s 7 none).redir.step = 7 ∧ (s 7 none).redir.target ≠ 4 ∧ (s 4 (some 0)).redirCut = true ∧ (s 4 (some 1000000000)).redirCut = false ∧ (s 4 none).reachable 3 = false ∧
    (s 4 (some 0)).ptbAt ioNode = 1500000000 ∧ ((tget ({ gr with sessions := [(300, { bound := true })] }).sessions 300).bound) = true := by decide
/-- The bus with an address and nothing waiting, with something, and without power; a message at the limit and over it. -/
theorem test_wit_bus : let b : State := { State.reset with mgmtAddr := some 5 }
    b.dark = false ∧ b.mgmtAddr ≠ none ∧ b.mgmtq = [] ∧ ({ b with mgmtq := [(1, [])] }).mgmtq ≠ [] ∧ ({ b with power := .off }).dark = true ∧ b.power = .boot ∧
    ({ b with power := .run }).redir.step = 0 ∧ ({ b with power := .capped 2000 }).power = .capped 2000 ∧ (List.replicate 1017 (0 : Byte)).length ≤ 1017 ∧
    1017 < (List.replicate 1018 (0 : Byte)).length := by decide
/-- Images: the I/O die's accepted and not; every controller's checked, one not; a die that joins, one in service and one absent. -/
theorem test_wit_boot : let b : State := { State.reset with ioImage := true }
    let all : State := (List.range 22).foldl (fun s d => s.setDi d { s.di d with checked := true }) b
    State.reset.ioImage = false ∧ b.ioImage = true ∧ (b.di 3).inService = true ∧ (b.di 3).checked = false ∧ (∀ d, d < 22 → (all.di d).checked = true) ∧ (b.di 3).st = .inService ∧
    (b.di 25).st = .absent ∧ ((b.setDi 20 { b.di 20 with st := .joining 1 false }).di 20).st = .joining 1 false ∧ b.rollback = 0 := by decide
/-- Inputs of a machine without main power, and a slot that is due before a message that launches. -/
theorem test_wit_inputs : standby .mainPowerOn = true ∧ standby .getId = false ∧ startsLaunch (.dhpLaunch (dhp 5 0 9 [])) = true ∧ startsLaunch .getId = false ∧
    (timed {}).dueSlot.isSome = true ∧ gr.dueSlot = none ∧ ({ gr with inbox := [.getId], go := false }).inbox = [.getId] := by decide
/-- The last pass of an `mma`'s word: at once, or once it has been held; a word of half B that does not decode. -/
theorem test_wit_arrival : gr.me.passes ≤ 1 ∧ 1 < g32.me.passes ∧ ((g32.setAg 0 { g32.me with held := some (0, 1) }).ag 0).held ≠ none ∧ (gr.co 0).badAt 0 1024 = false ∧
    (({ gr.co 0 with bad := [3] } : Core).badAt 0 1024) = true := by decide
/-- A stop that a placing waits for, results of other groups at a latch, a first-waiting launch, a thief's clusters. -/
theorem test_wit_first_waiting : crowded.firstWaiting 5 = true ∧ work.keepsRoom 5 0 = true ∧ distDie 0 = 0 := by decide

/-- R219, R220: a load reads the group's own queued store before the scratchpad has it. -/
theorem test_store_forward : let s := at8 (withV gr [(4 * 64, 7)]) (spad 64)
    let t := run (.stB32 c0 mo) s
    t.me.sq.length = 16 ∧ memGet (t.co 0).scratch 64 = 0 ∧ (me (.ldB32 c0 { mo with d := 12 }) t).v32 12 0 = 0 ∧
    (me (.ldB32 c0 { mo with d := 12 }) (run (.stB32 c0 mo) (withAct s 1))).v32 12 5 = 0 ∧ (me (.ldB32 c0 { mo with d := 12 }) (run (.stB32 c0 mo) (withAct s 1))).v32 12 0 = 7 := by decide
/-- R211: the sum of 16 lanes of 3. -/
theorem test_vred : (me (.vred c0 .add ⟨4, 5⟩) (withV gr ((List.range 16).map (fun l => (5 * 64 + l, 3))))).v32 4 9 = 48 := by decide
/-- R101: 1 + 2 = 3; 1 + 2^-25 rounds to 1 and is inexact. -/
theorem test_fadd : let s := withV gr [(6 * 64, 0x3F800000), (8 * 64, 0x40000000), (6 * 64 + 1, 0x3F800000), (8 * 64 + 1, 0x33000000)]
    (me (.faddF32 c0 .rn ⟨4, 6, .v 8⟩) s).v32 4 0 = 0x40400000 ∧ (me (.faddF32 c0 .rn ⟨4, 6, .v 8⟩) s).v32 4 1 = 0x3F800000 ∧
    (me (.faddF32 c0 .rn ⟨4, 6, .v 8⟩) s).flags = flNX := by decide
/-- R204: 1 in FP16; 65,536 overflows to infinity, or to 65,504 with `.sat`. -/
theorem test_cvt : let s := withV gr [(5 * 64, 0x3F800000), (5 * 64 + 1, 0x47800000)]
    (me (.cvt c0 ⟨.f16, .f32, .u, false, .rn, 4, 5⟩) s).v32 4 0 = 0x3C00 ∧ (me (.cvt c0 ⟨.f16, .f32, .u, false, .rn, 4, 5⟩) s).v32 4 1 = 0x7C00 ∧
    (me (.cvt c0 ⟨.f16, .f32, .u, true, .rn, 4, 5⟩) s).v32 4 1 = 0x7BFF := by decide
/-- R233, R234: the last arrival of a phase counts, and the test at the end of the cycle inverts the phase. -/
theorem test_pbarrive : let t := run (.pbarrive c0 8) (box ⟨0, 1, 2, false, true⟩ true)
    t.pbx 1 64 = ⟨0, 2, 2, false, true⟩ ∧ (t.pbxTest 1 64).pbx 1 64 = ⟨0, 0, 2, true, true⟩ := by decide
/-- R310, R311, R320: `trap 7` without a kernel handler waits in the ring with cause 0x01, its code and the next address. -/
theorem test_trap_ring : let t := run (.trap c0 7) gr
    t.me.wait = .ring 0 ∧ ((t.di 0).ring.map (fun r => (r.2.cause, r.2.detail32, r.2.pc))) = [(1, 7, 8)] := by decide
/-- R316, R317: the handler is entered at its vector and left for the word after the `trap`. -/
theorem test_trap_handler : let s := withHdr gr (fun h => { h with trapvec := some 0x100 })
    (me (.trap c0 7) s).pc = 0x100 ∧ (me (.trap c0 7) s).inHandler = true := by decide
/-- R315: `eret` with nothing pending goes back to the saved address. -/
theorem test_eret : (me (.eret c0) (withDi fw (fun d => { d with excPc := 0x40, excF := true, inTrap := true }))).pc = 0x40 := by decide
/-- R46: TMO takes 64 to 65,536. -/
theorem test_mts_tmo : ((run (.mts c0 .tmo 4) (withS fw [(4, 64)])).no 0).tmo = 64 ∧ ((run (.mts c0 .tmo 4) (withS fw [(4, 63)])).no 0).tmo = 2000 := by decide
/-- R235: the first of two waits. -/
theorem test_bar_sync : (me (.barSync c0 3 (.imm 2)) gr).wait = .barrier 3 false := by decide
/-- R262: a base field written. -/
theorem test_ttset : ((run (.ttset c0 1 4 0) (withS gr [(4, 0x1234)])).entry gr.me 1).t.base = 0x1234 := by decide
/-- R254: a row written in a tile. -/
theorem test_zwr : let t := run (.zwr c0 3 8 (.imm 5)) (withV gr [(8 * 64 + 2, 9)])
    (t.tile 0 3).at 5 2 = 9 ∧ (t.tile 0 3).rows = 0x20 ∧ (t.tile 0 3).valid = false := by decide
/-- R278: a courier whose receipt counts a command waits. -/
theorem test_qwait : (me (.qwait c0 2) (cu.setCc cu.cur ((cu.cc cu.cur).name 1))).wait = .receipts 2 := by decide
/-- R471: a cap above 3,100 W is refused. -/
theorem test_set_power : (run (.setPower 3 3101) { State.reset with power := .run, mgmtAddr := some 9 }).power = .run ∧
    (run (.setPower 3 3100) { State.reset with power := .run, mgmtAddr := some 9 }).power = .capped 3100 := by decide

end Sys2Proof.Tests
end

section
/-! SUPPORT. What a word that has begun finds of the machine, and what a ready word does by the shape of its effect: register writes over
the state it began in, a change of its own agent, or a wait at its word. -/

namespace Sys2Proof.Machine

/-! ## The state a word begins in -/

@[simp] theorem State.begun_co (s : State) (i : Instr) : (s.begun i).co = s.co := (congrArg State.co (s.begun_rest i) : (s.begun i).rest.co = s.rest.co)
@[simp] theorem State.begun_capWords (s : State) (i : Instr) : (s.begun i).capWords = s.capWords :=
  (congrArg State.capWords (s.begun_rest i) : (s.begun i).rest.capWords = s.rest.capWords)

@[simp] theorem State.sees_ck (s : State) (i : Instr) : (s.sees i).ck = s.me.ck := (congrArg Agent.ck (s.sees_rest i) : (s.sees i).rest.ck = s.me.rest.ck)

@[simp] theorem State.begun_me_die (s : State) (i : Instr) : ((s.begun i).ag s.cur).die = s.me.die := by
  rcases s.begun_me i with h | h <;> rw [h]

/-! ## Registers after scalar writes -/

/-- Agents of one kind and width with equal tables of registers and equal flags hold the same registers. -/
theorem SameRegs.of_tables {a b : Agent} (hk : b.kind = a.kind) (hw : b.width = a.width) (hs : b.sreg = a.sreg) (hv : b.vreg = a.vreg)
    (hp : b.kreg = a.kreg) (hf : b.flags = a.flags) : SameRegs a b :=
  ⟨Agent.s32_congr hs, Agent.v32_congr hk hs hv, Agent.k_congr hw hp, hf⟩

@[simp] theorem Agent.s32_writes_wS_same (a : Agent) (r : BitVec n) (x : W64) : (a.writes (wS false r x)).s32 r.toNat = lo32 x := by
  simp [wS, write]

/-- The writes of a list of words to the scalar registers from `d` up. -/
def sRun (d : Nat) (xs : List W32) : List RegW := xs.zipIdx.map (fun p => .s (d + p.2) p.1)

theorem sRun_cons (d : Nat) (x : W32) (xs : List W32) : sRun d (x :: xs) = .s d x :: sRun (d + 1) xs := by
  simp [sRun, List.zipIdx_succ, Nat.add_comm, Nat.add_left_comm]

@[simp] theorem Agent.vreg_writes_sRun (a : Agent) (d : Nat) (xs : List W32) : (a.writes (sRun d xs)).vreg = a.vreg := by
  induction xs generalizing a d with
  | nil => rfl
  | cons x xs ih => rw [sRun_cons, writes_cons, ih]; rfl

@[simp] theorem Agent.kreg_writes_sRun (a : Agent) (d : Nat) (xs : List W32) : (a.writes (sRun d xs)).kreg = a.kreg := by
  induction xs generalizing a d with
  | nil => rfl
  | cons x xs ih => rw [sRun_cons, writes_cons, ih]; rfl

/-- A run of scalar writes leaves every register outside it alone. -/
theorem Agent.s32_writes_sRun_other (a : Agent) {d q : Nat} {xs : List W32} (h : q < d ∨ d + xs.length ≤ q) :
    (a.writes (sRun d xs)).s32 q = a.s32 q := by
  induction xs generalizing a d with
  | nil => rfl
  | cons x xs ih =>
    rw [List.length_cons] at h
    rw [sRun_cons, writes_cons, ih _ (by omega), write, putS_s32, if_neg (by omega)]

/-- Each word of a run reads back from its own register. -/
theorem Agent.s32_writes_sRun (a : Agent) {d j : Nat} {xs : List W32} {x : W32} (h : xs[j]? = some x) :
    (a.writes (sRun d xs)).s32 (d + j) = x := by
  induction xs generalizing a d j with
  | nil => simp at h
  | cons y ys ih =>
    rw [sRun_cons, writes_cons]
    cases j with
    | zero =>
      obtain rfl : y = x := by simpa using h
      rw [s32_writes_sRun_other _ (.inl (by omega))]
      simp [write]
    | succ j =>
      rw [← Nat.add_assoc, Nat.add_right_comm]
      exact ih _ (by simpa using h)

/-! ## The shapes of an effect -/

/-- A ready word whose effect, over the state it began in, is register writes and flags alone is one that writes registers. -/
theorem exec_eq_issueRegs {s : State} {i : Instr} (h : s.ready i = true) {f : Agent → LaneMask → List RegW × BitVec 6}
    (e : exec i s = s.finish i (.ok { s := s.begun i, ws := (f (s.sees i) (s.lanes i)).1, fl := (f (s.sees i) (s.lanes i)).2 })) :
    exec i s = issueRegs i s f := by
  rw [e, issueRegs, issue_ready h]

/-- The state a word completes in whose effect also sets its own agent to `b`. -/
theorem finish_setAg {s : State} {i : Instr} {b : Agent} {ws : List RegW}
    (e : exec i s = s.finish i (.ok { s := (s.begun i).setAg s.cur b, ws := ws })) :
    ∃ t, exec i s = .next t ∧ KeptButMe s t ∧ t.cur = s.cur ∧ t.me.sreg = (b.writes ws).sreg ∧ t.me.vreg = (b.writes ws).vreg ∧
      t.me.kreg = (b.writes ws).kreg ∧ t.me.flags = b.flags ∧ t.me.pc = b.pc + BitVec.ofNat 64 i.size ∧ t.me.rest = b.rest := by
  obtain ⟨t, h0, h1, h2, h3⟩ := finish_mine e rfl rfl rfl (s.begun_rest i) (s.begun_cur i)
    (fun _ hk => (State.setAg_ag_other _ _ hk).trans (s.begun_ag_other i hk))
  simp only [State.setAg_ag] at h3
  obtain ⟨hs, hv, hk, hf, hp, -, hr⟩ := h3
  exact ⟨t, h0, h1, h2, hs, hv, hk, by simpa using hf, hp, hr⟩

/-- A word that waits for tiles stays at its word, with its registers as they were (R213, R252). -/
theorem goes_of_waitTile {s : State} {i : Instr} {c : Nat} {till : Option Nat}
    (e : exec i s = s.finish i (.ok ((s.begun i).waitTile s.cur c till))) :
    Goes i s s.me.pc (fun t => t.me.wait = .tile till ∧ SameRegs s.me t.me) := by
  obtain ⟨hs, hv, hk, hf, hkind, hwidth, hpc, -⟩ := s.begun_me_regs i
  have hme : ((s.begun i).waitTile s.cur c till).s.me = { (s.begun i).ag s.cur with
      wait := .tile till, wpc := ((s.begun i).ag s.cur).pc, held := some (c, till.getD (s.begun i).cycle) } := by
    simp [State.waitTile, State.me]
  refine ⟨((s.begun i).waitTile s.cur c till).s, ?_, ⟨s.begun_rest i, fun k hk => ?_⟩, s.begun_cur i, ?_, ?_, ?_⟩
  · rw [e, State.finish_done _ _ _ rfl rfl, State.complete_gone _ _ _ _ _ rfl]
  · exact (State.setAg_ag_other _ _ hk).trans (s.begun_ag_other i hk)
  · rw [hme]; exact hpc
  · rw [hme]
  · rw [hme]; exact .of_tables hkind hwidth hs hv hk hf

end Sys2Proof.Machine
end

section
/-! The special registers, the flag word, capacity records and the time base (R44, R45, R50, R213, R324, R325). -/

namespace Sys2Proof.Machine

/-! ## What a special register reads -/

/-- A special register depends on no register of the agent that reads it. -/
theorem State.special_congr (s : State) {a b : Agent} (h : a.rest = b.rest) (sel : Spec) (l : Nat) : s.special a sel l = s.special b sel l := by
  have hrest (a : Agent) : s.special a sel l = s.special a.rest sel l := by cases sel <;> rfl
  rw [hrest a, hrest b, h]

/-- The special registers whose reads R162 never refuses and R45 never latches: all but lane.id and the time base. -/
def Spec.plain : Spec → Bool
  | .laneId | .ptbLo | .ptbHi => false
  | _ => true

/-- They read the same before and after the clock has moved. -/
theorem State.special_begun (s : State) (i : Instr) (a : Agent) {sel : Spec} (hp : Spec.plain sel = true) (l : Nat) :
    (s.begun i).special a sel l = s.special a sel l := by
  have hrest (u : State) : u.special a sel l = u.rest.special a sel l := by
    cases sel
    case laneId | ptbLo | ptbHi => cases hp
    all_goals rfl
  rw [hrest, hrest s, s.begun_rest]

/-- A read of them leaves the latch alone. -/
theorem State.afterMovs_plain (s : State) (k : Nat) {sel : Spec} (hp : Spec.plain sel = true) : s.afterMovs k sel = s := by
  cases sel
  case laneId | ptbLo | ptbHi => cases hp
  all_goals rfl

/-! ## `movs` -/

section
variable {s : State} {c : Ctl} {sel : Spec}

/-- What a ready `movs` answers: R162's refusal, or what its agent reads in the destination and the latch as R45 says. -/
theorem exec_movs {d : SVDst} (h : s.ready (.movs c sel d) = true) :
    exec (.movs c sel d) s = s.finish (.movs c sel d) (
      if sel = .laneId ∧ s.me.kind = .group ∧ !SVDst.dcls d then .error { cause := .illegal }
      else .ok {
        s := (s.begun (.movs c sel d)).afterMovs s.cur sel
        ws := wSV sel.wide d (s.lanes (.movs c sel d)) (fun l => (s.begun (.movs c sel d)).special s.me sel l) }) := by
  have e : exec (.movs c sel d) s = execMovs c sel d s := rfl
  have hspecial (l : Nat) := (s.begun (.movs c sel d)).special_congr (s.sees_rest (.movs c sel d)) sel l
  simp only [e, execMovs, issue_ready h, hspecial, State.begun_cur, State.sees_kind]

theorem exec_movs_ok {d : SVDst} (h : s.ready (.movs c sel d) = true) (hl : sel = .laneId → SVDst.dcls d = true) :
    exec (.movs c sel d) s = s.finish (.movs c sel d) (.ok {
      s := (s.begun (.movs c sel d)).afterMovs s.cur sel
      ws := wSV sel.wide d (s.lanes (.movs c sel d)) (fun l => (s.begun (.movs c sel d)).special s.me sel l) }) := by
  rw [exec_movs h, if_neg]
  rintro ⟨h1, -, h2⟩
  simp [hl h1] at h2

theorem movs_plain {d : BitVec 6} (hp : Spec.plain sel = true) (h : s.ready (.movs c sel (.s d)) = true) :
    WritesScalar (.movs c sel (.s d)) s sel.wide d (s.special s.me sel 0) := by
  have hlane : sel ≠ .laneId := by rintro rfl; cases hp
  have e := exec_movs_ok h (fun e => absurd e hlane)
  rw [State.afterMovs_plain _ _ hp] at e
  rw [← s.special_begun (.movs c sel (.s d)) s.me hp]
  exact writesScalar_of h (x := fun _ _ => _) (exec_eq_issueRegs h e)

/-- A `movs` of the time base that leaves the latch `x`. -/
theorem movs_latch {d : BitVec 6} {x : Option W32} (h : s.ready (.movs c sel (.s d)) = true) (hw : sel.wide = false) (hl : sel ≠ .laneId)
    (ha : (s.begun (.movs c sel (.s d))).afterMovs s.cur sel =
      (s.begun (.movs c sel (.s d))).setAg s.cur { (s.begun (.movs c sel (.s d))).ag s.cur with ptbLatch := x }) :
    Goes (.movs c sel (.s d)) s (s.after (.movs c sel (.s d))) (fun u =>
      u.me.s32 d.toNat = lo32 ((s.begun (.movs c sel (.s d))).special s.me sel 0) ∧ u.me.ptbLatch = x) := by
  obtain ⟨-, -, -, -, -, -, hpc, -⟩ := s.begun_me_regs (.movs c sel (.s d))
  have e := exec_movs_ok h (fun e => absurd e hl)
  rw [ha, hw] at e
  obtain ⟨t, h0, h1, h2, hs, -, -, -, hp, hr⟩ := finish_setAg e
  refine ⟨t, h0, h1, h2, hp.trans (congrArg (· + _) hpc), ?_, (congrArg Agent.ptbLatch hr : t.me.rest.ptbLatch = _)⟩
  rw [Agent.s32_congr hs]
  exact Agent.s32_writes_wS_same _ _ _

/-- R162: a group's `movs` of lane.id to a scalar register is refused. -/
theorem movs_laneId_traps {d : BitVec 6} (h : s.ready (.movs c .laneId (.s d)) = true) (hg : s.me.kind = .group) :
    Traps (.movs c .laneId (.s d)) s { cause := .illegal } := by
  rw [Traps, exec_movs h, if_pos ⟨rfl, hg, rfl⟩]
  rfl

/-- R162: to a vector register it writes each active lane's number. -/
theorem movs_laneId_lanes {v : BitVec 8} (h : s.ready (.movs c .laneId (.v v)) = true) (hg : s.me.kind = .group) :
    WritesLanes (.movs c .laneId (.v v)) s false v (fun l => BitVec.ofNat 64 l) 0 := by
  have hval (l : Nat) : (s.begun (.movs c .laneId (.v v))).special s.me .laneId l = BitVec.ofNat 64 l := if_pos hg
  have e := exec_movs_ok h (fun _ => rfl)
  simp only [hval] at e
  exact writesLanes_of h hg (w64 := false) (d := v) (f := fun _ _ l => BitVec.ofNat 64 l) (fl := fun _ _ => 0) (exec_eq_issueRegs h e)

end

/-- R45: the latch event of a reader changes its latch alone. -/
theorem ptbLoLatch_steps {s : State} {k : Nat} (hk : (s.ag k).live = true) : Steps (.ptbLoLatch k) s (fun u =>
    (u.ag k).ptbLatch = some (BitVec.ofNat 32 (s.ptbAt (s.ag k).die / 2 ^ 32)) ∧ SameRegs (s.ag k) (u.ag k) ∧ u.mem = s.mem) := by
  have e : exec (.ptbLoLatch k) s = .next (s.latchPtb k) := congrArg Host.Outcome.next (if_pos hk)
  refine ⟨s.latchPtb k, e, ?_, ?_, rfl⟩
  · simp [State.latchPtb]
  · rw [State.latchPtb, State.setAg_ag]
    exact .of_tables rfl rfl rfl rfl rfl rfl

theorem specialRegisters : Claims.SpecialRegisters := by
  intro s c d v k
  refine ⟨movs_plain rfl, movs_plain rfl, movs_plain rfl, movs_plain rfl, movs_plain rfl, movs_plain rfl, movs_plain rfl, movs_plain rfl,
    fun hx hy => ⟨fun h => ?bgX, fun h => ?bgY, fun h => ?bgZ⟩, movs_plain rfl, movs_plain rfl, movs_plain rfl, movs_plain rfl,
    fun h => ?ptbLo, fun h => ?ptbHi, movs_laneId_traps, movs_laneId_lanes, ptbLoLatch_steps⟩
  case bgX => simpa only [State.special, max_eq_right hx] using movs_plain rfl h
  case bgY => simpa only [State.special, max_eq_right hx, max_eq_right hy] using movs_plain rfl h
  case bgZ => simpa only [State.special, max_eq_right hx, max_eq_right hy] using movs_plain rfl h
  case ptbLo =>
    have hlow (x : Nat) : lo32 (BitVec.ofNat 64 (x % 2 ^ 32)) = BitVec.ofNat 32 x := BitVec.eq_of_toNat_eq (by simp [lo32])
    simpa only [State.special, hlow] using movs_latch h rfl nofun (by rw [← s.begun_me_die (.movs c .ptbLo (.s d))]; rfl)
  case ptbHi =>
    have hlow (x : W32) : lo32 (x.setWidth 64) = x := by simp [lo32]
    simpa only [State.special, hlow] using movs_latch h rfl nofun rfl

/-! ## `vflags` -/

section
variable {s : State} {c : Ctl} {d : BitVec 6}

/-- What a ready `vflags` answers: a wait for an unfinished `mma`, a wait for results, or the flag word, taken and cleared. -/
theorem exec_vflags (h : s.ready (.vflags c d) = true) :
    let u := s.begun (.vflags c d)
    let a := u.ag s.cur
    let wait := u.waitTile s.cur (u.accepted (s.sees (.vflags c d)))
    exec (.vflags c d) s = s.finish (.vflags c d) (
      if (s.co s.me.ck).mmas.any (fun m => m.members.contains s.cur) then .ok (wait none)
      else if u.cycle < a.landed u.cycle then .ok (wait (some (a.landed u.cycle)))
      else .ok { s := u.setAg s.cur { a with flags := 0 }, ws := [.s d.toNat (a.flags.setWidth 32)] }) := by
  have e : exec (.vflags c d) s = execVflags c d s := rfl
  simp only [e, execVflags, issue_ready h, State.begun_cur, State.begun_co, State.sees_ck]

/-- A `vflags` that waits for nothing takes the flag word and clears it. -/
theorem vflags_takes
    (e : exec (.vflags c d) s = s.finish (.vflags c d) (.ok {
      s := (s.begun (.vflags c d)).setAg s.cur { (s.begun (.vflags c d)).ag s.cur with flags := 0 }
      ws := [.s d.toNat (((s.begun (.vflags c d)).ag s.cur).flags.setWidth 32)] })) :
    RegisterWord (.vflags c d) s (fun t => t.me.s32 d.toNat = s.me.flags.setWidth 32 ∧ t.me.flags = 0 ∧
      (∀ q, q ≠ d.toNat → t.me.s32 q = s.me.s32 q) ∧ t.me.vreg = s.me.vreg ∧ t.me.kreg = s.me.kreg) := by
  obtain ⟨hs, hv, hk, hf, -, -, hpc, hrest⟩ := s.begun_me_regs (.vflags c d)
  obtain ⟨t, h0, h1, h2, hs', hv', hk', hf', hp', hr'⟩ := finish_setAg e
  refine ⟨t, h0, h1, h2, hp'.trans (congrArg (· + _) hpc), hr'.trans hrest, ?_, hf', fun q hq => ?_, hv'.trans hv, hk'.trans hk⟩
  · rw [Agent.s32_congr hs', ← hf]
    exact Agent.putS_s32_same _ _ _
  · rw [Agent.s32_congr hs', ← Agent.s32_congr hs]
    exact (Agent.putS_s32 _ _ _ _).trans (if_neg hq)

end

theorem flagWord : Claims.FlagWord := by
  intro s c d i u busy lands h
  have e := exec_vflags h
  refine ⟨fun hb hl => ?taken, fun hb => ?tiles, fun hb hl => ?results⟩
  case taken => exact vflags_takes (e.trans (by rw [if_neg (ne_true_of_eq_false hb), if_neg (Nat.not_lt.2 hl)]))
  case tiles => exact goes_of_waitTile (e.trans (by rw [if_pos hb]))
  case results => exact goes_of_waitTile (e.trans (by rw [if_neg (ne_true_of_eq_false hb), if_pos hl]))

/-! ## `capq` and `ptbrd` -/

theorem State.capNow_length (s : State) (sel : Nat) : (s.capNow sel).length = 8 := by
  unfold capNow
  split
  · rfl
  · dsimp only
    split <;> rfl

/-- A table written from a function of its keys reads that function at each of them. -/
theorem tget_map_keys [Inhabited α] (f : Nat → α) {ks : List Nat} {k : Nat} (h : k ∈ ks) : tget (ks.map (fun i => (i, f i))) k = f k := by
  induction ks with
  | nil => cases h
  | cons j ks ih =>
    by_cases hj : j = k
    · simp [tget, tfind, hj]
    · have hk : k ∈ ks := (List.mem_cons.1 h).resolve_left (Ne.symm hj)
      simpa [tget, tfind, hj] using ih hk

/-- A move of the capacity generation writes every record from the machine as it then stands. -/
theorem State.bumpCap_capWords (s : State) {sel : Nat} (h : sel = 255 ∨ sel < 22) : s.bumpCap.capWords sel = s.bumpCap.capNow sel :=
  tget_map_keys _ (by simpa using h)

/-- R324: `capq` writes the words of the record it names to a run of registers. -/
theorem exec_capq {s : State} {c : Ctl} {d : BitVec 6} {sel : BitVec 8} (h : s.ready (.capq c d sel) = true) :
    exec (.capq c d sel) s = s.finish (.capq c d sel) (.ok {
      s := s.begun (.capq c d sel)
      ws := sRun d.toNat ((s.capWords sel.toNat).map (BitVec.ofNat 32)) }) := by
  have e : exec (.capq c d sel) s = execCapq c d sel s := rfl
  simp only [e, execCapq, issue_ready h, State.begun_capWords, sRun, List.zipIdx_map, List.map_map]
  rfl

theorem capq_registers {s : State} {c : Ctl} {d : BitVec 6} {sel : BitVec 8} (h : s.ready (.capq c d sel) = true) :
    RegisterWord (.capq c d sel) s (fun u =>
      (∀ j x, (s.capWords sel.toNat)[j]? = some x → u.me.s32 (d.toNat + j) = BitVec.ofNat 32 x) ∧
      ((s.capWords sel.toNat).length = 8 → ∀ q, ¬ (d.toNat ≤ q ∧ q < d.toNat + 8) → u.me.s32 q = s.me.s32 q) ∧
      u.me.vreg = s.me.vreg ∧ u.me.kreg = s.me.kreg ∧ u.me.flags = s.me.flags) := by
  refine registerWord_of h (exec_eq_issueRegs h (f := fun _ _ => (sRun _ _, 0)) (exec_capq h)) fun t hs hv hk hf _ _ => ⟨fun j x hj => ?_, fun hn q hq => ?_, ?_, ?_, ?_⟩
  · rw [Agent.s32_congr hs]
    exact Agent.s32_writes_sRun _ (by simp [hj])
  · rw [Agent.s32_congr hs]
    exact Agent.s32_writes_sRun_other _ (by rw [List.length_map, hn]; omega)
  · rw [hv, Agent.vreg_writes_sRun]
  · rw [hk, Agent.kreg_writes_sRun]
  · simpa using hf

theorem ptbrd_writes {s : State} {c : Ctl} {d : BitVec 6} (h : s.ready (.ptbrd c d) = true) :
    WritesScalar (.ptbrd c d) s true d (BitVec.ofNat 64 ((s.begun (.ptbrd c d)).ptbAt s.me.die)) := by
  have e : exec (.ptbrd c d) s = execPtbrd c d s := rfl
  simp only [execPtbrd, issue_ready h, State.sees_die] at e
  exact writesScalar_of h (x := fun _ _ => _) (exec_eq_issueRegs h e)

theorem capacityAndTime : Claims.CapacityAndTime := fun s _ _ _ =>
  ⟨capq_registers, s.capNow_length _, rfl, fun h => s.bumpCap_capWords (h.imp_left (congrArg BitVec.toNat)), ptbrd_writes⟩

/-- Settles O30: special registers, the flag word, and capacity records and the time base, each by what its word's effect does. -/
theorem specialRegistersAndFlags : Obligations.SpecialRegistersAndFlags := ⟨specialRegisters, flagWord, capacityAndTime⟩

end Sys2Proof.Machine
end

section
/-! SUPPORT. Steps that change agents one by one, and steps that count an error of a node or stop an agent at firmware: what each leaves alone. -/

namespace Sys2Proof.Machine

/-! ## Agents changed one by one -/

/-- A state without its agents. -/
def State.noAgents (s : State) : State := { s with agents := [] }

/-- Each agent becomes what `g` makes of it, and nothing else of the state changes. -/
def AgentsBy (g : Nat → Agent → Agent) (s t : State) : Prop := t.noAgents = s.noAgents ∧ ∀ k, t.ag k = g k (s.ag k)

section
variable {g : Nat → Agent → Agent} {s t : State} (h : AgentsBy g s t)
include h

theorem AgentsBy.cycle : t.cycle = s.cycle := (congrArg State.cycle h.1 : t.noAgents.cycle = s.noAgents.cycle)
theorem AgentsBy.mem : t.mem = s.mem := (congrArg State.mem h.1 : t.noAgents.mem = s.noAgents.mem)
theorem AgentsBy.todo : t.todo = s.todo := (congrArg State.todo h.1 : t.noAgents.todo = s.noAgents.todo)
theorem AgentsBy.co : t.co = s.co := (congrArg State.co h.1 : t.noAgents.co = s.noAgents.co)
theorem AgentsBy.no : t.no = s.no := (congrArg State.no h.1 : t.noAgents.no = s.noAgents.no)
theorem AgentsBy.tile : t.tile = s.tile := (congrArg State.tile h.1 : t.noAgents.tile = s.noAgents.tile)

end

/-- `f` for the agents of a list, and every other agent as it is. -/
def onKeys (ks : List Nat) (f : Agent → Agent) (k : Nat) (a : Agent) : Agent := if k ∈ ks then f a else a

theorem onKeys_mem {ks : List Nat} {f : Agent → Agent} {k : Nat} {a : Agent} (h : k ∈ ks) : onKeys ks f k a = f a := if_pos h
theorem onKeys_not_mem {ks : List Nat} {f : Agent → Agent} {k : Nat} {a : Agent} (h : k ∉ ks) : onKeys ks f k a = a := if_neg h

theorem onKeys_rec {ks : List Nat} {f : Agent → Agent} {k : Nat} {a : Agent} {P : Agent → Prop} (hf : P (f a)) (ha : P a) : P (onKeys ks f k a) := by
  unfold onKeys
  split
  · exact hf
  · exact ha

/-- The write of one agent. -/
theorem AgentsBy.setAg (s : State) (k : Nat) (f : Agent → Agent) : AgentsBy (onKeys [k] f) s (s.setAg k (f (s.ag k))) := by
  refine ⟨rfl, fun j => ?_⟩
  by_cases hj : j = k
  · simp [onKeys, hj]
  · simp [onKeys, hj, State.setAg_ag_other]

/-- No write, where `f` leaves the agent as it is. -/
theorem AgentsBy.unchanged {s : State} {k : Nat} {f : Agent → Agent} (h : f (s.ag k) = s.ag k) : AgentsBy (onKeys [k] f) s s := by
  refine ⟨rfl, fun j => ?_⟩
  by_cases hj : j = k <;> simp [onKeys, hj, h]

/-- A change that made twice is made once, for each agent of a list, within one cycle. -/
theorem AgentsBy.foldl {f : Agent → Agent} (hf : ∀ a, f (f a) = f a) {c : Nat} {op : State → Nat → State}
    (hop : ∀ u k, u.cycle = c → AgentsBy (onKeys [k] f) u (op u k)) (ks : List Nat) {s : State} (hc : s.cycle = c) :
    AgentsBy (onKeys ks f) s (ks.foldl op s) := by
  induction ks generalizing s with
  | nil => exact ⟨rfl, fun _ => rfl⟩
  | cons k ks ih =>
    have h1 := hop s k hc
    have h2 := ih (h1.cycle.trans hc)
    refine ⟨h2.1.trans h1.1, fun j => ?_⟩
    rw [List.foldl_cons, h2.2, h1.2]
    simp only [onKeys, List.mem_cons, List.not_mem_nil, or_false]
    by_cases hj : j = k <;> by_cases hm : j ∈ ks <;> simp [hj, hm, hf]

/-- The record of a key in a table whose records are all changed alike, the default among them. -/
theorem tget_map_vals [Inhabited α] {F : Nat × α → Nat × α} {f : α → α} (hF : ∀ p, F p = (p.1, f p.2)) (h0 : f default = default)
    (t : Tab α) (k : Nat) : tget (t.map F) k = f (tget t k) := by
  induction t with
  | nil => exact h0.symm
  | cons p t ih =>
    by_cases hp : p.1 = k
    · simp [tget, tfind, hF, hp]
    · simpa [tget, tfind, hF, hp] using ih

/-! ## Errors counted (R447, R449) -/

/-- A state without what a health record and a count of errors change: nodes, the next record's number, and steps to come. -/
def State.noHealth (s : State) : State := { s with nodes := [], healthSeq := 0, todo := [] }

/-- The cores and every node's counts of errors stay. -/
def KeepsCounts (s t : State) : Prop := t.cores = s.cores ∧ ∀ n, (t.no n).lasting = (s.no n).lasting ∧ (t.no n).trans = (s.no n).trans

theorem KeepsCounts.refl (s : State) : KeepsCounts s s := ⟨rfl, fun _ => ⟨rfl, rfl⟩⟩

theorem KeepsCounts.trans {s t u : State} (h : KeepsCounts s t) (h' : KeepsCounts t u) : KeepsCounts s u :=
  ⟨h'.1.trans h.1, fun n => ⟨(h'.2 n).1.trans (h.2 n).1, (h'.2 n).2.trans (h.2 n).2⟩⟩

theorem KeepsCounts.tile {s t : State} (h : KeepsCounts s t) : t.tile = s.tile := by
  funext ck z
  simp only [State.tile, State.co, h.1]

/-- What keeps them at every step of a list keeps them over the list. -/
theorem KeepsCounts.foldl {op : State → β → State} (hop : ∀ u b, KeepsCounts u (op u b)) (l : List β) (s : State) : KeepsCounts s (l.foldl op s) :=
  List.foldlRecOn l op (KeepsCounts.refl s) (fun _ h b _ => h.trans (hop _ b))

/-- A write of one node that keeps its counts of errors. -/
theorem KeepsCounts.of_nodes {s t : State} {k : Nat} {x : Node} (hc : t.cores = s.cores) (hn : t.nodes = tput s.nodes k x)
    (hx : x.lasting = (s.no k).lasting ∧ x.trans = (s.no k).trans) : KeepsCounts s t := by
  refine ⟨hc, fun n => ?_⟩
  simp only [State.no, hn, tget_tput]
  split
  · next h => rw [h]; exact hx
  · exact ⟨rfl, rfl⟩

section
variable {s t : State} (h : t.noHealth = s.noHealth)
include h

theorem State.co_of_noHealth : t.co = s.co := (congrArg State.co h : t.noHealth.co = s.noHealth.co)
theorem State.ag_of_noHealth : t.ag = s.ag := (congrArg State.ag h : t.noHealth.ag = s.noHealth.ag)
theorem State.mem_of_noHealth : t.mem = s.mem := (congrArg State.mem h : t.noHealth.mem = s.noHealth.mem)
theorem State.cycle_of_noHealth : t.cycle = s.cycle := (congrArg State.cycle h : t.noHealth.cycle = s.noHealth.cycle)
theorem State.tile_of_noHealth : t.tile = s.tile := (congrArg State.tile h : t.noHealth.tile = s.noHealth.tile)

end

section
variable (s : State) (ptb node kind icause unit addr req : Nat)

theorem State.healthRecOf_noHealth : (s.healthRecOf ptb node kind icause unit addr req).noHealth = s.noHealth := by
  dsimp only [healthRecOf]
  split <;> rfl

theorem State.transientOf_noHealth : (s.transientOf ptb node icause unit addr req).noHealth = s.noHealth := healthRecOf_noHealth _ _ _ _ _ _ _ _

theorem State.lastingOf_noHealth : (s.lastingOf ptb node icause unit addr req).noHealth = s.noHealth := by
  dsimp only [lastingOf]
  split
  · exact healthRecOf_noHealth _ _ _ _ _ _ _ _
  · exact healthRecOf_noHealth _ _ _ _ _ _ _ _

theorem State.healthRecOf_keepsCounts : KeepsCounts s (s.healthRecOf ptb node kind icause unit addr req) := by
  unfold healthRecOf
  lift_lets
  intro bs io v n
  have hio : KeepsCounts s v := .of_nodes rfl rfl ⟨rfl, rfl⟩
  split
  · exact hio.trans (.of_nodes rfl rfl ⟨rfl, rfl⟩)
  · exact hio

/-- R447: a transient error adds one to its node's count of them. -/
theorem State.transientOf_counts : ((s.transientOf ptb node icause unit addr req).no node).lasting = (s.no node).lasting ∧
    ((s.transientOf ptb node icause unit addr req).no node).trans = min 0xFFFF ((s.no node).trans + 1) := by
  obtain ⟨hl, ht⟩ := (State.healthRecOf_keepsCounts (s.setNo node { s.no node with trans := min 0xFFFF ((s.no node).trans + 1) }) ptb node 1 icause unit addr req).2 node
  exact ⟨hl.trans (by simp), ht.trans (by simp)⟩

/-- R447: a lasting error adds one to its node's count of them. -/
theorem State.lastingOf_counts : ((s.lastingOf ptb node icause unit addr req).no node).lasting = min 255 ((s.no node).lasting + 1) ∧
    ((s.lastingOf ptb node icause unit addr req).no node).trans = (s.no node).trans := by
  obtain ⟨hl, ht⟩ := (State.healthRecOf_keepsCounts (s.setNo node { s.no node with lasting := min 255 ((s.no node).lasting + 1), icause := icause })
    ptb node 2 icause unit addr req).2 node
  have hno : (s.lastingOf ptb node icause unit addr req).no node =
      (State.healthRecOf (s.setNo node { s.no node with lasting := min 255 ((s.no node).lasting + 1), icause := icause }) ptb node 2 icause unit addr req).no node := by
    dsimp only [lastingOf]
    split <;> rfl
  rw [hno]
  exact ⟨hl.trans (by simp), ht.trans (by simp)⟩

end

/-! ## Agents stopped at firmware (R310, R312) -/

theorem State.toRing_keepsCounts (s : State) (key : Nat) (r : TrapRec) : KeepsCounts s (s.toRing key r) := by
  dsimp only [toRing]
  split
  · exact .refl s
  · exact .of_nodes rfl rfl ⟨rfl, rfl⟩

/-- R309, R310: a trap of class Firmware enters the ring, whatever handler its kernel has. -/
theorem State.routeTrap_firmware (s : State) (key : Nat) {t : Trap} (h : t.cause.firmware = true) : s.routeTrap key t = s.toRing key (s.record key t) := by
  dsimp only [routeTrap]
  split
  · rfl
  · rw [if_pos (.inl h)]

theorem State.trapMembers_keepsCounts (s : State) (ks : List Nat) {t : Trap} (h : t.cause.firmware = true) : KeepsCounts s (s.trapMembers ks t) := by
  refine KeepsCounts.foldl (fun u k => ?_) ks s
  dsimp only
  split
  · rw [routeTrap_firmware _ _ h]
    exact toRing_keepsCounts (u.setAg k _) _ _
  · exact .refl u

end Sys2Proof.Machine
end

section
/-! SUPPORT. The matrix engine: the words it lets go on, the members it re-inserts, the flags it raises, the tile it writes and the results it
lists (R107, R250–R252). -/

namespace Sys2Proof.Machine

/-! ## Agents the engine changes -/

/-- An agent whose word waits for an `mma` of a core goes on with it in the cycle `now` (R252). -/
def Agent.goesOn (ck now : Nat) (a : Agent) : Agent :=
  if a.ck = ck ∧ a.wait = .tile none then { a with wait := .tile (some now), held := a.held.map (fun h => (h.1, now)) } else a

/-- A member of an `mma` that waits for the engine issues again from the cycle after `now` (R251). -/
def Agent.reinserted (now : Nat) (a : Agent) : Agent :=
  if a.live ∧ a.wait = .engine then { a with wait := .none, ready := max a.ready (now + 1), since := now + 1, woken := true } else a

/-- A group of a team takes flags (R107). -/
def Agent.raised (team : Nat) (fl : BitVec 6) (a : Agent) : Agent := if a.team = team then { a with flags := a.flags ||| fl } else a

section
variable (ck now team : Nat) (fl : BitVec 6) (a : Agent)

theorem Agent.goesOn_waits (hc : a.ck = ck) (hw : a.wait = .tile none) : (a.goesOn ck now).wait = .tile (some now) := by
  rw [goesOn, if_pos ⟨hc, hw⟩]

theorem Agent.goesOn_other (hw : a.wait ≠ .tile none) : a.goesOn ck now = a := if_neg (fun h => hw h.2)

@[simp] theorem Agent.goesOn_flags : (a.goesOn ck now).flags = a.flags := by unfold goesOn; split <;> rfl
@[simp] theorem Agent.goesOn_team : (a.goesOn ck now).team = a.team := by unfold goesOn; split <;> rfl
@[simp] theorem Agent.goesOn_sreg : (a.goesOn ck now).sreg = a.sreg := by unfold goesOn; split <;> rfl
@[simp] theorem Agent.goesOn_vreg : (a.goesOn ck now).vreg = a.vreg := by unfold goesOn; split <;> rfl
@[simp] theorem Agent.goesOn_pc : (a.goesOn ck now).pc = a.pc := by unfold goesOn; split <;> rfl

theorem Agent.reinserted_wait (hl : a.live = true) (hw : a.wait = .engine) : (a.reinserted now).wait = .none := by
  rw [reinserted, if_pos ⟨hl, hw⟩]

theorem Agent.reinserted_twice : (a.reinserted now).reinserted now = a.reinserted now := by
  by_cases h : a.live ∧ a.wait = .engine <;> simp [reinserted, h]

theorem Agent.reinserted_sameRegs : SameRegs a (a.reinserted now) ∧ (a.reinserted now).pc = a.pc := by
  unfold reinserted
  split <;> exact ⟨.of_tables rfl rfl rfl rfl rfl rfl, rfl⟩

theorem Agent.raised_twice : (a.raised team fl).raised team fl = a.raised team fl := by
  by_cases h : a.team = team <;> simp [raised, h, BitVec.or_assoc]

@[simp] theorem Agent.raised_sreg : (a.raised team fl).sreg = a.sreg := by unfold raised; split <;> rfl
@[simp] theorem Agent.raised_vreg : (a.raised team fl).vreg = a.vreg := by unfold raised; split <;> rfl
@[simp] theorem Agent.raised_pc : (a.raised team fl).pc = a.pc := by unfold raised; split <;> rfl

end

/-- R252: words that wait for a tile go on, and nothing else changes. -/
theorem State.wakeTile_agents (s : State) (ck : Nat) : AgentsBy (fun _ => Agent.goesOn ck s.cycle) s (s.wakeTile ck) := by
  refine ⟨rfl, tget_map_vals (fun p => ?_) (Agent.goesOn_other _ _ _ (by decide)) s.agents⟩
  unfold Agent.goesOn
  split <;> rfl

/-- R251: members that wait for the engine are re-inserted, and nothing else changes. -/
theorem State.reinsert_agents (s : State) (ks : List Nat) : AgentsBy (onKeys ks (Agent.reinserted s.cycle)) s (s.reinsert ks) := by
  refine AgentsBy.foldl (Agent.reinserted_twice _) (fun u k hu => ?_) ks rfl
  have hset := AgentsBy.setAg u k (Agent.reinserted s.cycle)
  dsimp only
  rw [hu]
  split
  · next h => rwa [Agent.reinserted, if_pos h] at hset
  · next h => exact .unchanged (if_neg h)

/-- Flags raised in the members of an `mma` that are of its team (R107, R251). -/
def State.raiseFlags (s : State) (ks : List Nat) (team : Nat) (fl : BitVec 6) : State :=
  ks.foldl (fun s k => if (s.ag k).team = team then s.setAg k { s.ag k with flags := (s.ag k).flags ||| fl } else s) s

theorem State.raiseFlags_agents (s : State) (ks : List Nat) (team : Nat) (fl : BitVec 6) :
    AgentsBy (onKeys ks (Agent.raised team fl)) s (s.raiseFlags ks team fl) := by
  refine AgentsBy.foldl (Agent.raised_twice _ _) (fun u k _ => ?_) ks rfl
  have hset := AgentsBy.setAg u k (Agent.raised team fl)
  split
  · next h => rwa [Agent.raised, if_pos h] at hset
  · next h => exact .unchanged (if_neg h)

/-! ## Tiles -/

@[simp] theorem State.advance_tile (s : State) (n : Nat) : (s.advance n).tile = s.tile := rfl

@[simp] theorem State.putTile_tile (s : State) (ck z : Nat) (t : Tile) : (s.putTile ck z t).tile ck z = t := by
  simp [putTile, tile, tfind_tput_same]

theorem State.putTile_tile_other (s : State) (ck : Nat) {z y : Nat} (t : Tile) (h : y ≠ z) : (s.putTile ck z t).tile ck y = s.tile ck y := by
  simp [putTile, tile, tfind_tput_other _ _ h]

@[simp] theorem State.putTile_mmas (s : State) (ck z : Nat) (t : Tile) : ((s.putTile ck z t).co ck).mmas = (s.co ck).mmas := by simp [putTile]
@[simp] theorem State.putTile_scratch (s : State) (ck z : Nat) (t : Tile) : ((s.putTile ck z t).co ck).scratch = (s.co ck).scratch := by simp [putTile]

/-- Writes of a list leave a key it does not name alone. -/
theorem tfind_foldl_tput_other {l : Tab α} {a : Nat} (h : ∀ p ∈ l, p.1 ≠ a) (e : Tab α) :
    tfind (l.foldl (fun e p => tput e p.1 p.2) e) a = tfind e a := by
  induction l generalizing e with
  | nil => rfl
  | cons p l ih => rw [List.foldl_cons, ih (fun x hx => h x (.tail _ hx)), tfind_tput_other _ _ (h p (.head _)).symm]

/-- A key that a list of writes names holds one of the values it gives it. -/
theorem tfind_foldl_tput {l : Tab α} {a : Nat} (h : a ∈ l.map Prod.fst) (e : Tab α) :
    ∃ y, (a, y) ∈ l ∧ tfind (l.foldl (fun e p => tput e p.1 p.2) e) a = some y := by
  induction l generalizing e with
  | nil => cases h
  | cons p l ih =>
    by_cases ha : a ∈ l.map Prod.fst
    · obtain ⟨y, hy, hf⟩ := ih ha (tput e p.1 p.2)
      exact ⟨y, .tail _ hy, hf⟩
    · have hp : a = p.1 := by simpa [ha] using h
      have hother (x : Nat × α) (hx : x ∈ l) : x.1 ≠ a := fun hxa => ha (hxa ▸ List.mem_map_of_mem hx)
      exact ⟨p.2, hp ▸ .head _, by rw [List.foldl_cons, tfind_foldl_tput_other hother, hp, tfind_tput_same]⟩

theorem forall_ne_of_tfind_eq_none {l : Tab α} {a : Nat} (h : tfind l a = none) : ∀ p ∈ l, p.1 ≠ a := by
  simpa [tfind] using h

/-! ## Results -/

/-- The keys of a table to which each element of a list appends its own. -/
theorem foldl_keys {op : Tab α × γ → β → Tab α × γ} {ks : β → List Nat} (h : ∀ acc b, (op acc b).1.map Prod.fst = acc.1.map Prod.fst ++ ks b)
    (l : List β) (acc : Tab α × γ) : (l.foldl op acc).1.map Prod.fst = acc.1.map Prod.fst ++ l.flatMap ks := by
  induction l generalizing acc with
  | nil => simp
  | cons b l ih => rw [List.foldl_cons, ih, h, List.flatMap_cons, List.append_assoc]

theorem flatMap_zipIdx_snd (l : List β) (g : Nat → Nat) : l.zipIdx.flatMap (fun b => [g b.2]) = (List.range l.length).map g := by
  rw [← List.map_eq_flatMap, List.range_eq_range', ← List.zipIdx_map_snd, List.map_map]
  rfl

/-- R250: an `mma` has one result for each element of each row of its members, row by row. -/
theorem Mma.result_keys (q : Mma) (t : Tile) :
    (q.result t).1.map Prod.fst = (List.range (16 * q.size)).flatMap (fun i => (List.range 64).map (fun j => 64 * i + j)) := by
  refine (foldl_keys (fun acc i => ?_) _ _).trans (List.nil_append _)
  refine (foldl_keys (ks := fun b => [64 * i + b.2]) (fun acc b => ?_) _ _).trans (congrArg _ ?_)
  · exact List.map_append
  · exact (flatMap_zipIdx_snd _ _).trans (by rw [List.length_map, List.length_range])

end Sys2Proof.Machine
end

section
/-! The matrix engine's start (R249, R251, R252, R448). -/

namespace Sys2Proof.Machine

/-! ## What the start answers, case by case -/

/-- The state with another list of `mma`s of a core. -/
def State.setMmas (s : State) (ck : Nat) (l : List Mma) : State := s.setCo ck { s.co ck with mmas := l }

@[simp] theorem State.setMmas_mmas (s : State) (ck : Nat) (l : List Mma) : ((s.setMmas ck l).co ck).mmas = l := by simp [setMmas]
@[simp] theorem State.setMmas_tiles (s : State) (ck : Nat) (l : List Mma) : ((s.setMmas ck l).co ck).tiles = (s.co ck).tiles := by simp [setMmas]

/-- An `mma` with no scale bytes as it starts now: its members' B and the first block of A are read (R251). -/
def State.mmaBegun (s : State) (ck : Nat) (q : Mma) : Mma :=
  { q with
    started := true
    begun := s.cycle
    scales := []
    bregs := (q.members.zip (q.vbs.zip q.bregs)).map (fun p => (s.ag p.1).bPart (bRegs (mfmtOf q.word.fmt) q.size q.width) p.2.1 p.2.2)
    abuf := s.mmaBlocks ck { q with abuf := [] } 512 }

/-- It starts in the cycle it may start in, or now where that has passed, and reads the first 512 bytes of A. -/
theorem mmaBegun_at_due (s : State) (ck : Nat) (q : Mma) : (s.advance (q.due - s.cycle)).mmaBegun ck q =
    { q with
      started := true
      begun := max s.cycle q.due
      scales := []
      bregs := (q.members.zip (q.vbs.zip q.bregs)).map (fun p => (s.ag p.1).bPart (bRegs (mfmtOf q.word.fmt) q.size q.width) p.2.1 p.2.2)
      abuf := memBytes (s.co ck).scratch q.base (min 512 (1024 * q.size)) } := by
  have hc : s.cycle + (q.due - s.cycle) = max s.cycle q.due := by omega
  rw [State.mmaBegun, State.advance_cycle, hc]
  rfl

section
variable {s : State} {die core : Nat} {q : Mma} {rest : List Mma}

theorem mmaStart_empty (h : (s.co (coreKey die core)).mmas = []) : s.mmaStart die core = s := by
  simp only [State.mmaStart, h]

variable (h : (s.co (coreKey die core)).mmas = q :: rest)
include h

theorem mmaStart_waits (hn : ¬ (q.started = false ∧ (s.ag q.lead).wait = .engine)) : s.mmaStart die core = s := by
  have hw : q.started = true ∨ (s.ag q.lead).wait ≠ .engine := by
    rw [not_and_or, Bool.not_eq_false] at hn
    exact hn
  simp only [State.mmaStart, h, if_pos hw]

variable (hs : q.started = false ∧ (s.ag q.lead).wait = .engine)
include hs

/-- R251, R252: an accumulating `mma` whose tile is invalid ends at its start. -/
theorem mmaStart_invalid (ha : q.word.acc = true) (hv : (s.tile (coreKey die core) q.word.zd).valid = false) :
    s.mmaStart die core = (s.advance (q.due - s.cycle)).mmaTrap (coreKey die core) q.members { cause := .zinvalid } := by
  have hw : ¬ (q.started = true ∨ (s.ag q.lead).wait ≠ .engine) := by simp [hs]
  have hz : (q.word.acc && !((s.advance (q.due - s.cycle)).tile (coreKey die core) q.word.zd).valid) = true := by simp [ha, hv]
  simp only [State.mmaStart, h, if_neg hw, if_pos hz]

variable (hv : q.word.acc = false ∨ (s.tile (coreKey die core) q.word.zd).valid = true)
include hv

/-- R448: one of whose A a word is withheld ends at its start. -/
theorem mmaStart_withheld (hb : (s.co (coreKey die core)).badAt q.base (1024 * q.size) = true) :
    s.mmaStart die core = (s.advance (q.due - s.cycle)).mmaTrap (coreKey die core) q.members
      { cause := .dataAbort, lane := 0xFF, addr := BitVec.ofNat 64 q.image.t.base } := by
  have hw : ¬ (q.started = true ∨ (s.ag q.lead).wait ≠ .engine) := by simp [hs]
  have hz : ¬ (q.word.acc && !((s.advance (q.due - s.cycle)).tile (coreKey die core) q.word.zd).valid) = true := by
    rcases hv with hv | hv <;> simp [hv]
  simp only [State.mmaStart, h, if_neg hw, if_neg hz, State.advance_co, if_pos hb]
  rfl

/-- R251: the start of an `mma` of a format without block scales. -/
theorem mmaStart_reads (hb : (s.co (coreKey die core)).badAt q.base (1024 * q.size) = false) (hf : mfmtOf q.word.fmt ≠ .p4) :
    s.mmaStart die core =
      let u := s.advance (q.due - s.cycle)
      (u.setMmas (coreKey die core) (u.mmaBegun (coreKey die core) q :: rest)).reinsert (if q.checked then [] else q.members) := by
  have hw : ¬ (q.started = true ∨ (s.ag q.lead).wait ≠ .engine) := by simp [hs]
  have hz : ¬ (q.word.acc && !((s.advance (q.due - s.cycle)).tile (coreKey die core) q.word.zd).valid) = true := by
    rcases hv with hv | hv <;> simp [hv]
  simp only [State.mmaStart, h, if_neg hw, if_neg hz, State.advance_co, if_neg (ne_true_of_eq_false hb), if_neg hf]
  split <;> rfl

end

/-! ## The statement -/

theorem engineStart : Claims.EngineStart := by
  intro s die core q rest ck e u n bs starts valid
  have he : exec e s = .next (s.mmaStart die core) := rfl
  rw [he]
  refine ⟨fun h => ?empty, fun h hs => ?waits, fun h hs ha hv => ?invalid, fun h hs hv hb => ?withheld, fun k hc hw => ?wakes, fun h hs hv hb hf => ?reads⟩
  case empty => rw [mmaStart_empty h]
  case waits => rw [mmaStart_waits h hs]
  case invalid => rw [mmaStart_invalid h hs ha hv]
  case withheld => rw [mmaStart_withheld h hs hv hb]
  case wakes =>
    rw [((u.popMma ck).wakeTile_agents ck).2]
    exact Agent.goesOn_waits _ _ _ hc hw
  case reads =>
    have ha := (u.setMmas ck (u.mmaBegun ck q :: rest)).reinsert_agents (if q.checked then [] else q.members)
    refine ⟨_, congrArg Host.Outcome.next (mmaStart_reads h hs hv hb hf), ?_, ?_, ha.todo, ha.mem, fun hc k hk hl hw => ?_, fun k => ?_⟩
    · rw [ha.co, State.setMmas_mmas, mmaBegun_at_due]
    · rw [ha.co, State.setMmas_tiles, State.advance_co]
    · rw [ha.2, hc, if_neg Bool.false_ne_true, onKeys_mem hk]
      exact Agent.reinserted_wait _ _ hl hw
    · rw [ha.2]
      exact onKeys_rec (P := fun b => SameRegs (s.ag k) b ∧ b.pc = (s.ag k).pc) (Agent.reinserted_sameRegs _ _) ⟨.of_tables rfl rfl rfl rfl rfl rfl, rfl⟩

end Sys2Proof.Machine
end

section
/-! The matrix engine's tile write (R107, R112, R250–R252, R447). -/

namespace Sys2Proof.Machine

/-! ## The parts of the last cycle an `mma` occupies the engine -/

/-- What its self-check finds, of one that has one (R112). -/
def Mma.differs (q : Mma) (c : Core) : Option (Nat × Nat × Nat) := if q.checked then mxDiff c.mxUpset (16 * q.size) else none

/-- An `mma` whose A has been read to its end (R251). -/
def State.mmaWhole (s : State) (ck : Nat) (q : Mma) : Mma := { q with abuf := q.abuf ++ s.mmaBlocks ck q 4096 }

/-- The engine has ended an `mma`: words that wait for it go on, and the fault input of its self-check is used. It has written nothing yet. -/
def State.mmaOver (s : State) (ck : Nat) (q : Mma) : State :=
  let v := ((s.advance (q.last - s.cycle)).mmaEnd ck).wakeTile ck
  if q.checked then v.setCo ck { v.co ck with mxUpset := none } else v

/-- A repeat that runs through makes its error transient (R447). -/
def State.repeatRan (s : State) (die core : Nat) (q : Mma) : State :=
  if q.again then s.transientOf (s.ag q.lead).retryTime die 0x09 core 0 0xFF else s

/-- A repeat that fails as well makes it lasting (R447). -/
def State.repeatFailed (s : State) (die core : Nat) (q : Mma) : State :=
  if q.again then s.lastingOf (s.ag q.lead).retryTime die 0x09 core 0 0xFF else s

/-- A tile after the results of an `mma` over it. -/
def Mma.writes (q : Mma) (t : Tile) : Tile :=
  { t with el := (q.result t).1.foldl (fun e p => tput e p.1 p.2) t.el, valid := t.valid || !q.word.acc }

/-- The results of an `mma` in its tile, and its flags in its team's members (R251). -/
def State.mmaResult (s : State) (ck : Nat) (q : Mma) : State :=
  (s.putTile ck q.word.zd (q.writes (s.tile ck q.word.zd))).raiseFlags q.members q.team (q.result (s.tile ck q.word.zd)).2

/-- Its members repeat it, and their error's time is this one (R112, R447). -/
def State.mmaRetry (s : State) (q : Mma) : State := q.members.foldl (fun s k => s.setAg k { s.ag k with recheck := true, retryTime := s.ptbAt ioNode }) s

theorem State.repeatRan_noHealth (s : State) (die core : Nat) (q : Mma) : (s.repeatRan die core q).noHealth = s.noHealth := by
  unfold repeatRan
  split
  · exact s.transientOf_noHealth _ _ _ _ _ _
  · rfl

theorem State.repeatFailed_noHealth (s : State) (die core : Nat) (q : Mma) : (s.repeatFailed die core q).noHealth = s.noHealth := by
  unfold repeatFailed
  split
  · exact s.lastingOf_noHealth _ _ _ _ _ _
  · rfl

/-! ## What the tile write answers, case by case -/

section
variable {s : State} {die core : Nat} {q : Mma} {rest : List Mma}

theorem mmaWrite_waits (h : (s.co (coreKey die core)).mmas = [] ∨ (s.co (coreKey die core)).mmas = q :: rest ∧ q.started = false) :
    s.mmaWrite die core = s := by
  rcases h with h | ⟨h, hs⟩
  · simp only [State.mmaWrite, h]
  · simp [State.mmaWrite, h, hs]

/-- The self-check of an `mma` reads the fault input as it was before the engine ended it. -/
theorem mmaOver_mxUpset (s : State) (ck : Nat) (q : Mma) :
    ((((s.advance (q.last - s.cycle)).mmaEnd ck).wakeTile ck).co ck).mxUpset = (s.co ck).mxUpset := by
  rw [(State.wakeTile_agents _ _).co, State.mmaEnd, State.setCo_co, State.advance_co]

variable (h : (s.co (coreKey die core)).mmas = q :: rest) (hs : q.started = true)
include h hs

/-- R251: an `mma` whose self-check, if it has one, finds no difference writes its results. -/
theorem mmaWrite_agrees (hd : q.differs (s.co (coreKey die core)) = none) :
    s.mmaWrite die core =
      let u := ((s.mmaOver (coreKey die core) q).repeatRan die core q).mmaResult (coreKey die core) (s.mmaWhole (coreKey die core) q)
      if q.checked then u.reinsert q.members else u := by
  have hs' : ¬ (!q.started) = true := by simp [hs]
  rw [Mma.differs, ← mmaOver_mxUpset] at hd
  unfold State.mmaWrite
  simp only [h, if_neg hs']
  split
  · next hd' => exact absurd (hd'.symm.trans hd) nofun
  · rfl

/-- One without a self-check writes its results over the state it is over in, but for its node's count of errors. -/
theorem mmaWrite_unchecked (hc : q.checked = false) : ∃ v : State, v.noHealth = (s.mmaOver (coreKey die core) q).noHealth ∧
    s.mmaWrite die core = v.mmaResult (coreKey die core) (s.mmaWhole (coreKey die core) q) :=
  ⟨_, (s.mmaOver (coreKey die core) q).repeatRan_noHealth die core q,
    (mmaWrite_agrees h hs (if_neg (ne_true_of_eq_false hc))).trans (if_neg (ne_true_of_eq_false hc))⟩

/-- R112: one whose self-check finds a difference writes none, and its members trap. -/
theorem mmaWrite_differs {r c i : Nat} (hd : q.differs (s.co (coreKey die core)) = some (r, c, i)) :
    s.mmaWrite die core = (((s.mmaOver (coreKey die core) q).repeatFailed die core q).mmaRetry q).trapMembers q.members
      { cause := .mxchk, replay := true, detail32 := mxDetail r c i } := by
  have hs' : ¬ (!q.started) = true := by simp [hs]
  rw [Mma.differs, ← mmaOver_mxUpset] at hd
  unfold State.mmaWrite
  simp only [h, if_neg hs']
  split
  · next hd' =>
    cases hd'.symm.trans hd
    rfl
  · next hd' => exact absurd (hd'.symm.trans hd) nofun

end

/-! ## What each part changes -/

theorem Mma.writes_el_other (q : Mma) (t : Tile) {a : Nat} (h : tfind (q.result t).1 a = none) : tget (q.writes t).el a = tget t.el a := by
  rw [writes, tget, tfind_foldl_tput_other (forall_ne_of_tfind_eq_none h), tget]

/-- R250: each element of each row of its members is written, with a result listed for it. -/
theorem Mma.writes_el (q : Mma) (t : Tile) {i j : Nat} (hi : i < 16 * q.size) (hj : j < 64) :
    ∃ y, (64 * i + j, y) ∈ (q.result t).1 ∧ tget (q.writes t).el (64 * i + j) = y := by
  have hk : 64 * i + j ∈ (q.result t).1.map Prod.fst := by
    rw [result_keys, List.mem_flatMap]
    exact ⟨i, List.mem_range.2 hi, List.mem_map.2 ⟨j, List.mem_range.2 hj, rfl⟩⟩
  obtain ⟨y, hy, hf⟩ := tfind_foldl_tput hk t.el
  exact ⟨y, hy, by rw [writes, tget, hf, Option.getD_some]⟩

section
variable (s : State) (ck : Nat) (q : Mma)

@[simp] theorem State.mmaOver_no : (s.mmaOver ck q).no = s.no := by unfold mmaOver; split <;> rfl
@[simp] theorem State.mmaOver_mem : (s.mmaOver ck q).mem = s.mem := by unfold mmaOver; split <;> rfl
@[simp] theorem State.mmaOver_cycle : (s.mmaOver ck q).cycle = s.cycle + (q.last - s.cycle) := by unfold mmaOver; split <;> rfl

theorem State.mmaOver_ag (k : Nat) : (s.mmaOver ck q).ag k = (s.ag k).goesOn ck (s.cycle + (q.last - s.cycle)) := by
  have hw := (((s.advance (q.last - s.cycle)).mmaEnd ck).wakeTile_agents ck).2 k
  unfold mmaOver
  split <;> exact hw

/-- The core of an `mma` that is over: the next one starts no earlier than in the cycle after. -/
theorem State.mmaOver_co : ∃ x, (s.mmaOver ck q).co ck = { s.co ck with
    mmas := ((s.co ck).mmas.drop 1).map (fun m => { m with due := max m.due (s.cycle + (q.last - s.cycle) + 1) }), mxUpset := x } := by
  have hco : (((s.advance (q.last - s.cycle)).mmaEnd ck).wakeTile ck).co ck = { s.co ck with
      mmas := ((s.co ck).mmas.drop 1).map (fun m => { m with due := max m.due (s.cycle + (q.last - s.cycle) + 1) }) } := by
    rw [(State.wakeTile_agents _ _).co, mmaEnd, setCo_co]
    rfl
  unfold mmaOver
  dsimp only
  split
  · exact ⟨none, by rw [setCo_co, hco]⟩
  · exact ⟨_, hco⟩

theorem State.mmaOver_mmas {rest : List Mma} (h : (s.co ck).mmas = q :: rest) :
    ((s.mmaOver ck q).co ck).mmas = rest.map (fun m => { m with due := max m.due (s.cycle + (q.last - s.cycle) + 1) }) := by
  obtain ⟨x, hx⟩ := s.mmaOver_co ck q
  rw [hx, h, List.drop_one, List.tail_cons]

theorem State.mmaOver_scratch : ((s.mmaOver ck q).co ck).scratch = (s.co ck).scratch := by
  obtain ⟨x, hx⟩ := s.mmaOver_co ck q
  rw [hx]

theorem State.mmaOver_tile (z : Nat) : (s.mmaOver ck q).tile ck z = s.tile ck z := by
  obtain ⟨x, hx⟩ := s.mmaOver_co ck q
  rw [tile, hx, tile]

end

theorem State.mmaRetry_keepsCounts (s : State) (q : Mma) : KeepsCounts s (s.mmaRetry q) := by
  refine KeepsCounts.foldl (fun u k => ?_) q.members s
  exact ⟨rfl, fun _ => ⟨rfl, rfl⟩⟩

/-- The results change the tile, and flags of the members. -/
theorem State.mmaResult_agents (s : State) (ck : Nat) (q : Mma) : AgentsBy (onKeys q.members (Agent.raised q.team (q.result (s.tile ck q.word.zd)).2))
    (s.putTile ck q.word.zd (q.writes (s.tile ck q.word.zd))) (s.mmaResult ck q) := raiseFlags_agents _ _ _ _

/-! ## Repeats, and the statement -/

/-- R112, R447: a self-check that differs again makes the error lasting, and writes no tile. -/
theorem mmaWrite_fails_again {s : State} {die core : Nat} {q : Mma} {rest : List Mma} (h : (s.co (coreKey die core)).mmas = q :: rest) (hs : q.started = true)
    (ha : q.again = true) {d : Nat × Nat × Nat} (hd : q.differs (s.co (coreKey die core)) = some d) :
    ((s.mmaWrite die core).no die).lasting = min 255 ((s.no die).lasting + 1) ∧ ((s.mmaWrite die core).no die).trans = (s.no die).trans ∧
      ∀ z, (s.mmaWrite die core).tile (coreKey die core) z = s.tile (coreKey die core) z := by
  obtain ⟨r, c, i⟩ := d
  rw [mmaWrite_differs h hs hd]
  have hk := (State.mmaRetry_keepsCounts _ q).trans (State.trapMembers_keepsCounts
    (((s.mmaOver (coreKey die core) q).repeatFailed die core q).mmaRetry q) q.members (t := { cause := .mxchk, replay := true, detail32 := mxDetail r c i }) rfl)
  obtain ⟨hl, ht⟩ := (s.mmaOver (coreKey die core) q).lastingOf_counts ((s.mmaOver (coreKey die core) q).ag q.lead).retryTime die 0x09 core 0 0xFF
  have hf : (s.mmaOver (coreKey die core) q).repeatFailed die core q = _ := if_pos ha
  refine ⟨?_, ?_, fun z => ?_⟩
  · rw [(hk.2 die).1, hf, hl, State.mmaOver_no]
  · rw [(hk.2 die).2, hf, ht, State.mmaOver_no]
  · rw [hk.tile, ← s.mmaOver_tile _ q z, State.tile_of_noHealth (State.repeatFailed_noHealth _ die core q)]

/-- R447: one that agrees makes it transient. -/
theorem mmaWrite_runs_again {s : State} {die core : Nat} {q : Mma} {rest : List Mma} (h : (s.co (coreKey die core)).mmas = q :: rest) (hs : q.started = true)
    (ha : q.again = true) (hd : q.differs (s.co (coreKey die core)) = none) :
    ((s.mmaWrite die core).no die).lasting = (s.no die).lasting ∧ ((s.mmaWrite die core).no die).trans = min 0xFFFF ((s.no die).trans + 1) := by
  have hno : (s.mmaWrite die core).no = ((s.mmaOver (coreKey die core) q).repeatRan die core q).no := by
    rw [mmaWrite_agrees h hs hd]
    dsimp only
    split
    · exact (State.reinsert_agents _ _).no.trans (State.mmaResult_agents _ _ _).no
    · exact (State.mmaResult_agents _ _ _).no
  obtain ⟨hl, ht⟩ := (s.mmaOver (coreKey die core) q).transientOf_counts ((s.mmaOver (coreKey die core) q).ag q.lead).retryTime die 0x09 core 0 0xFF
  have hr : (s.mmaOver (coreKey die core) q).repeatRan die core q = _ := if_pos ha
  rw [hno, hr, hl, ht, State.mmaOver_no]
  exact ⟨rfl, rfl⟩

theorem tileWrite : Claims.TileWrite := by
  intro s die core q rest ck e t x done
  have he : exec e s = .next (s.mmaWrite die core) := rfl
  refine ⟨fun h => ?waits, fun h hs hc ha _ => ?again, fun h hs hc _ => ?unchecked⟩
  case waits => rw [he, mmaWrite_waits h]
  case again =>
    refine ⟨_, he, ?_⟩
    have hq : q.differs (s.co ck) = mxDiff (s.co ck).mxUpset (16 * q.size) := if_pos hc
    dsimp only
    rw [← hq]
    cases hd : q.differs (s.co ck) with
    | none => simp [mmaWrite_runs_again h hs ha hd]
    | some d =>
      obtain ⟨hl, ht, hz⟩ := mmaWrite_fails_again h hs ha hd
      exact ⟨hl, ht, fun _ => hz⟩
  case unchecked =>
    obtain ⟨v, hv, hw⟩ := mmaWrite_unchecked h hs hc
    have htile (z : Nat) : v.tile ck z = s.tile ck z := by rw [State.tile_of_noHealth hv, s.mmaOver_tile]
    have hr : AgentsBy (onKeys q.members (Agent.raised q.team x.2)) (v.putTile ck q.word.zd ((s.mmaWhole ck q).writes t)) (v.mmaResult ck (s.mmaWhole ck q)) := by
      have hr := v.mmaResult_agents ck (s.mmaWhole ck q)
      rwa [htile] at hr
    have hagent (k : Nat) : ((v.mmaResult ck (s.mmaWhole ck q)).ag k) = onKeys q.members (Agent.raised q.team x.2) k ((s.ag k).goesOn ck done) := by
      rw [← s.mmaOver_ag ck q, ← State.ag_of_noHealth hv]
      exact hr.2 k
    refine ⟨_, he.trans (congrArg Host.Outcome.next hw), ?mmas, ?cycle, ?valid, ?rows, fun a hx => ?kept, fun i j hi hj => ?written, fun z hz => ?others, ?scratch, ?mem,
      fun k hk hteam => ?raised, fun k hk => ⟨?flags, fun hwait => ?outside⟩, fun k => ?registers⟩
    case mmas => rw [hr.co, State.putTile_mmas, State.co_of_noHealth hv, s.mmaOver_mmas ck q h]
    case cycle => exact hr.cycle.trans ((State.cycle_of_noHealth hv).trans (s.mmaOver_cycle ck q))
    case valid => rw [hr.tile, State.putTile_tile]; rfl
    case rows => rw [hr.tile, State.putTile_tile]; rfl
    case kept => rw [hr.tile, State.putTile_tile]; exact Mma.writes_el_other _ _ hx
    case written => rw [hr.tile, State.putTile_tile]; exact Mma.writes_el _ _ hi hj
    case others => rw [hr.tile, State.putTile_tile_other _ _ _ hz, htile]
    case scratch => rw [hr.co, State.putTile_scratch, State.co_of_noHealth hv, s.mmaOver_scratch]
    case mem => exact hr.mem.trans ((State.mem_of_noHealth hv).trans (s.mmaOver_mem ck q))
    case raised =>
      rw [hagent, onKeys_mem hk, Agent.raised, if_pos (by rw [Agent.goesOn_team, hteam])]
      exact congrArg (· ||| x.2) (Agent.goesOn_flags ..)
    case flags => rw [hagent, onKeys_not_mem hk, Agent.goesOn_flags]
    case outside => rw [hagent, onKeys_not_mem hk, Agent.goesOn_other _ _ _ hwait]
    case registers =>
      rw [hagent]
      exact onKeys_rec (P := fun b => b.sreg = (s.ag k).sreg ∧ b.vreg = (s.ag k).vreg ∧ b.pc = (s.ag k).pc) (by simp) (by simp)

end Sys2Proof.Machine
end

section
/-! The matrix engine's arithmetic (R104–R106), and the statement about the engine. -/

namespace Sys2Proof.Machine

/-- R90: a pattern of a signed format stands for its two's-complement value. -/
theorem Fmt.int_eq_toInt {f : Fmt} (hf : f ≠ .u8) (x : Nat) : f.int x = (BitVec.ofNat f.bits x).toInt := by
  have hpow : 2 ^ f.bits = 2 * 2 ^ (f.bits - 1) := by cases f <;> rfl
  have hneg (y : Nat) : y ≥ 2 ^ (f.bits - 1) ↔ ¬ 2 * y < 2 ^ f.bits := by
    rw [hpow]
    omega
  rw [Fmt.int, if_neg hf, BitVec.toInt_eq_toNat_cond, BitVec.toNat_ofNat]
  simp only [hneg, ite_not]
  push_cast
  rfl

theorem Fmt.int_i8 (x : Nat) : Fmt.int .i8 x = (BitVec.ofNat 8 x).toInt := Fmt.int_eq_toInt (by decide) x
theorem Fmt.int_i32 (x : Nat) : Fmt.int .i32 x = (BitVec.ofNat 32 x).toInt := Fmt.int_eq_toInt (by decide) x

/-- The low bits of an integer are it as a word. -/
theorem ofNat_lowBits (n : Nat) (z : Int) : BitVec.ofNat n (lowBits n z) = BitVec.ofInt n z := by
  have hlow : lowBits n z = (BitVec.ofInt n z).toNat := by simp [lowBits, BitVec.toNat_ofInt]
  rw [hlow, BitVec.ofNat_toNat, BitVec.setWidth_eq]

/-- R106: a sum of exact products wraps as the sum of the wrapped ones. -/
theorem ofInt_sum_products (ps : List ((Nat × Nat) × (Nat × Nat))) :
    BitVec.ofInt 32 (ps.foldl (fun (z : Int) p => z + Fmt.int .i8 p.1.1 * Fmt.int .i8 p.2.1) 0) =
      (ps.map (fun p => (BitVec.ofNat 8 p.1.1).signExtend 32 * (BitVec.ofNat 8 p.2.1).signExtend 32)).foldl (· + ·) 0 := by
  rw [List.foldl_map]
  refine (List.foldl_hom (BitVec.ofInt 32) (init := 0) fun z p => ?_).symm
  rw [BitVec.ofInt_add, BitVec.ofInt_mul, Fmt.int_i8, Fmt.int_i8]
  rfl

theorem matrixArithmetic : Claims.MatrixArithmetic := by
  intro f m acc ps _
  refine ⟨fun hf => ?int8, fun hf => ?floating⟩
  case int8 =>
    rw [mmaElem, if_pos hf]
    refine ⟨rfl, ?_⟩
    rw [ofNat_lowBits, BitVec.ofInt_add, ofInt_sum_products, Fmt.int_i32, BitVec.ofInt_toInt]
  case floating =>
    rw [mmaElem, if_neg hf]

/-- Settles O20: what the engine's start answers in each case, what its tile write does to each part of the machine, and its sums. -/
theorem matrixEngine : Obligations.MatrixEngine := ⟨engineStart, tileWrite, matrixArithmetic⟩

end Sys2Proof.Machine
end

section
/-! SUPPORT. Scalar and predicate words: the integer operations of the model as operations on words, the lanes a mask lists, and what a word of
each shape writes. -/

namespace Sys2Proof.Machine

/-! ## Values at a width -/

theorem bitsAt_le (w64 : Bool) : bitsAt w64 ≤ 64 := by cases w64 <;> decide

theorem toNat_setWidth_lt (x : W32) : (x.setWidth 64).toNat < 2 ^ 32 := by
  rw [BitVec.toNat_setWidth_of_le (by decide)]
  exact x.isLt

/-- A scalar operand holds no bit at or above its width. -/
theorem Agent.sw_lt (a : Agent) (w64 : Bool) (r : Nat) : (a.sw w64 r).toNat < 2 ^ bitsAt w64 := by
  cases w64 with
  | true => exact (a.sw true r).isLt
  | false => exact toNat_setWidth_lt _

/-- Source b holds no bit at or above its width. -/
theorem Agent.ssrc_lt (a : Agent) (w64 sgn : Bool) (b : SSrc) : (a.ssrc w64 sgn b).toNat < 2 ^ bitsAt w64 := by
  cases w64 with
  | true => exact (a.ssrc true sgn b).isLt
  | false =>
    cases b with
    | reg r => exact a.sw_lt false r.toNat
    | lit l => exact toNat_setWidth_lt _
    | imm x =>
      cases sgn with
      | true => exact toNat_setWidth_lt _
      | false =>
        have hx : (x.setWidth 64).toNat = x.toNat := BitVec.toNat_setWidth_of_le (by decide)
        exact hx.trans_lt (x.isLt.trans (by decide))

/-- Two values agree at a width when their bits below it do. -/
theorem atWidth_congr {w64 : Bool} {x y : W64} (h : ∀ i, i < bitsAt w64 → x.getLsbD i = y.getLsbD i) : atWidth w64 x = atWidth w64 y := by
  cases w64 with
  | true => exact BitVec.eq_of_getLsbD_eq h
  | false =>
    have hlow : x.setWidth 32 = y.setWidth 32 := BitVec.eq_of_getLsbD_eq fun i hi => by
      rw [BitVec.getLsbD_setWidth, BitVec.getLsbD_setWidth, h i hi]
    exact congrArg (BitVec.setWidth 64) hlow

/-! ## Operations on naturals as operations on words -/

/-- `clz` counts from the top what the place of the highest one bit counts from below. -/
theorem toNat_clz_add_log2 {a : W64} (h : a ≠ 0) : a.clz.toNat + Nat.log2 a.toNat = 63 := by
  have ha : a.toNat ≠ 0 := fun h0 => h (BitVec.eq_of_toNat_eq h0)
  have hlt : a.clz.toNat < 64 := BitVec.clz_lt_iff_ne_zero.2 h
  have hlog : Nat.log2 a.toNat = 63 - a.clz.toNat := (Nat.log2_eq_iff ha).2
    ⟨BitVec.two_pow_sub_clz_le_toNat_of_ne_zero (by decide) h,
      BitVec.toNat_lt_two_pow_sub_clz.trans_le (Nat.pow_le_pow_right (by decide) (by omega))⟩
  omega

theorem ofNat_iClz {n : Nat} {a : W64} (hn : n ≤ 64) (h : a.toNat < 2 ^ n) :
    BitVec.ofNat 64 (iClz n a.toNat) = a.clz - BitVec.ofNat 64 (64 - n) := by
  apply BitVec.eq_of_toNat_eq
  by_cases h0 : a = 0
  · have hz : a.clz.toNat = 64 := congrArg BitVec.toNat (BitVec.clz_eq_iff_eq_zero.2 h0)
    have ha : a.toNat = 0 := congrArg BitVec.toNat h0
    simp only [iClz, ha, hz, if_true, BitVec.toNat_sub, BitVec.toNat_ofNat]
    omega
  · have ha : a.toNat ≠ 0 := fun hz => h0 (BitVec.eq_of_toNat_eq hz)
    have hsum := toNat_clz_add_log2 h0
    have hlog : Nat.log2 a.toNat < n := (Nat.log2_lt ha).2 h
    simp only [iClz, ha, if_false, BitVec.toNat_sub, BitVec.toNat_ofNat]
    omega

theorem cpopNatRec_eq_length (x : BitVec w) (n : Nat) : x.cpopNatRec n 0 = ((List.range n).filter (fun i => x.getLsbD i)).length := by
  induction n with
  | zero => rfl
  | succ n ih =>
    rw [BitVec.cpopNatRec_succ, BitVec.cpopNatRec_eq, ih, List.range_succ, List.filter_append, List.length_append]
    cases h : x.getLsbD n <;> simp [h]

theorem ofNat_iPopc {n : Nat} {a : W64} (hn : n ≤ 64) (h : a.toNat < 2 ^ n) : BitVec.ofNat 64 (iPopc n a.toNat) = a.cpop := by
  have hset : (a.setWidth n).setWidth 64 = a := BitVec.eq_of_toNat_eq (by
    rw [BitVec.toNat_setWidth_of_le hn, BitVec.toNat_setWidth, Nat.mod_eq_of_lt h])
  have hcount : a.cpop.toNat = iPopc n a.toNat := calc
    a.cpop.toNat = (a.setWidth n).cpop.toNat := by rw [← BitVec.toNat_cpop_setWidth_eq_of_le hn, hset]
    _ = a.cpopNatRec n 0 := by rw [BitVec.toNat_cpop, BitVec.cpopNatRec_setWidth_of_le _ le_rfl]
    _ = iPopc n a.toNat := cpopNatRec_eq_length a n
  rw [← hcount, BitVec.ofNat_toNat, BitVec.setWidth_eq]

theorem iBfe_unsigned {n a : Nat} (h : a < 2 ^ n) (pos m : Nat) : iBfe false n a pos m = a / 2 ^ pos % 2 ^ m := by
  unfold iBfe
  split
  · next h0 =>
    rcases h0 with rfl | hp
    · simp [Nat.mod_one]
    · rw [Nat.div_eq_of_lt (h.trans_le (Nat.pow_le_pow_right (by decide) hp)), Nat.zero_mod]
  · simp

theorem ofNat_iBfe {n : Nat} {a : W64} (h : a.toNat < 2 ^ n) (pos : Nat) {m : Nat} (hm : m ≤ 64) :
    BitVec.ofNat 64 (iBfe false n a.toNat pos m) = (a >>> pos) &&& BitVec.ofNat 64 (2 ^ m - 1) := by
  apply BitVec.eq_of_toNat_eq
  have hmask : 2 ^ m - 1 < 2 ^ 64 := by
    have := Nat.pow_le_pow_right (show 0 < 2 by decide) hm
    have := Nat.two_pow_pos m
    omega
  rw [iBfe_unsigned h, BitVec.toNat_and, BitVec.toNat_ushiftRight, Nat.shiftRight_eq_div_pow, BitVec.toNat_ofNat, BitVec.toNat_ofNat,
    Nat.mod_eq_of_lt hmask, Nat.and_two_pow_sub_one_eq_mod]
  exact Nat.mod_eq_of_lt (((Nat.mod_le _ _).trans (Nat.div_le_self _ _)).trans_lt a.isLt)

/-- A field of R165: `m` bits from `pos` up. -/
theorem getLsbD_field (pos m : Nat) {i : Nat} (hi : i < 64) :
    (BitVec.ofNat 64 (2 ^ m - 1) <<< pos).getLsbD i = decide (pos ≤ i ∧ i - pos < m) := by
  by_cases hp : pos ≤ i
  · rw [BitVec.getLsbD_shiftLeft, BitVec.getLsbD_ofNat, Nat.testBit_two_pow_sub_one]
    simp [hi, hp, show ¬ i < pos by omega, show i - pos < 64 by omega]
  · simp [hp, show i < pos by omega]

/-- Within the field the inserted bits stand, outside it those of the word inserted into. -/
theorem getLsbD_inserted (a c : W64) (pos m : Nat) {i : Nat} (hi : i < 64) :
    ((c &&& ~~~ (BitVec.ofNat 64 (2 ^ m - 1) <<< pos)) ||| ((a <<< pos) &&& (BitVec.ofNat 64 (2 ^ m - 1) <<< pos))).getLsbD i =
      if pos ≤ i ∧ i - pos < m then a.getLsbD (i - pos) else c.getLsbD i := by
  rw [BitVec.getLsbD_or, BitVec.getLsbD_and, BitVec.getLsbD_and, BitVec.getLsbD_not, getLsbD_field pos m hi, BitVec.getLsbD_shiftLeft]
  split
  · next h => simp [hi, h]
  · next h => simp [hi, h]

theorem testBit_iBfi {n : Nat} (a c pos m : Nat) {i : Nat} (hi : i < n) :
    (iBfi n a c pos m).testBit i = if pos ≤ i ∧ i - pos < m then a.testBit (i - pos) else c.testBit i := by
  have hshift (x : Nat) : (x * 2 ^ pos % 2 ^ n).testBit i = (decide (pos ≤ i) && x.testBit (i - pos)) := by
    simp [Nat.testBit_mod_two_pow, hi, Nat.testBit_mul_two_pow]
  have hnot (x : Nat) : (iNot n x).testBit i = !(x % 2 ^ n).testBit i := by
    rw [iNot, Nat.sub_sub, Nat.add_comm, Nat.testBit_two_pow_sub_succ (Nat.mod_lt _ (Nat.two_pow_pos _))]
    simp [hi]
  have hlor (x y : Nat) : (Nat.lor x y).testBit i = (x.testBit i || y.testBit i) := Nat.testBit_or x y i
  have hland (x y : Nat) : (Nat.land x y).testBit i = (x.testBit i && y.testBit i) := Nat.testBit_and x y i
  simp only [iBfi, hlor, hland, hnot, Nat.mod_mod, hshift, Nat.testBit_two_pow_sub_one]
  split
  · next h => simp [h]
  · next h =>
    have h' : (decide (pos ≤ i) && decide (i - pos < m)) = false := by simpa using h
    simp [h']

theorem atWidth_iBfi (w64 : Bool) (a c : W64) (pos m : Nat) :
    atWidth w64 (BitVec.ofNat 64 (iBfi (bitsAt w64) a.toNat c.toNat pos m)) =
      atWidth w64 ((c &&& ~~~ (BitVec.ofNat 64 (2 ^ m - 1) <<< pos)) ||| ((a <<< pos) &&& (BitVec.ofNat 64 (2 ^ m - 1) <<< pos))) := by
  refine atWidth_congr fun i hi => ?_
  have h64 : i < 64 := hi.trans_le (bitsAt_le w64)
  rw [getLsbD_inserted a c pos m h64, BitVec.getLsbD_ofNat, testBit_iBfi _ _ _ _ hi, decide_eq_true h64, Bool.true_and]
  rfl

theorem sInt_toNat {w64 : Bool} {a : W64} (h : a.toNat < 2 ^ bitsAt w64) : sInt (bitsAt w64) a.toNat = signedAt w64 a := by
  cases w64 with
  | true =>
    simp only [sInt, signedAt, bitsAt, if_true, BitVec.toInt_eq_toNat_cond]
    split <;> split <;> omega
  | false =>
    have hs : (a.setWidth 32).toNat = a.toNat := by
      rw [BitVec.toNat_setWidth]
      exact Nat.mod_eq_of_lt h
    simp only [sInt, signedAt, bitsAt, Bool.false_eq_true, if_false, BitVec.toInt_eq_toNat_cond, hs]
    split <;> split <;> omega

/-- The model's conditions are those of R147. -/
theorem iccHolds_eq_iccMeans (cc : ICC) {w64 : Bool} {a b : W64} (ha : a.toNat < 2 ^ bitsAt w64) (hb : b.toNat < 2 ^ bitsAt w64) :
    iccHolds cc (bitsAt w64) a.toNat b.toNat = iccMeans cc w64 a b := by
  have hbeq : (a.toNat == b.toNat) = (a == b) := by simp [BEq.beq, BitVec.toNat_inj]
  cases cc
  case eq => exact hbeq
  case ne => exact congrArg not hbeq
  all_goals simp [iccHolds, iccMeans, iLt, sInt_toNat ha, sInt_toNat hb, ← decide_not]

/-! ## The lanes of a mask -/

theorem length_lanesOf (m : LaneMask) : (lanesOf m).length = m.cpop.toNat := by
  rw [BitVec.toNat_cpop, cpopNatRec_eq_length, lanesOf]

@[simp] theorem lanesOf_zero : lanesOf 0 = [] := List.filter_eq_nil_iff.2 fun l _ => by simp

/-- The first lane listed is the lowest of the mask. -/
theorem headD_lanesOf {m : LaneMask} {l : Nat} (h : m.getLsbD l = true) (hmin : ∀ q, q < l → m.getLsbD q = false) (x : Nat) : (lanesOf m).headD x = l := by
  have hfind : (List.range 64).find? (fun l => m.getLsbD l) = some l :=
    List.find?_range_eq_some.2 ⟨h, List.mem_range.2 (BitVec.lt_of_getLsbD h), fun q hq => by simp [hmin q hq]⟩
  rw [lanesOf, List.headD_eq_head?_getD, List.head?_filter, hfind, Option.getD_some]

/-! ## The shapes of the scalar and predicate words -/

theorem RegisterWord.imp {i : Instr} {s : State} {p q : State → Prop} (h : RegisterWord i s p) (hpq : ∀ t, p t → q t) : RegisterWord i s q := by
  obtain ⟨t, h0, h1, h2, h3, h4, h5⟩ := h
  exact ⟨t, h0, h1, h2, h3, h4, hpq t h5⟩

theorem WritesScalar.of_atWidth_eq {i : Instr} {s : State} {w64 : Bool} {d : BitVec 6} {x y : W64} (h : WritesScalar i s w64 d x) (e : atWidth w64 x = atWidth w64 y) :
    WritesScalar i s w64 d y := by
  rwa [WritesScalar, ← e]

/-- What a predicate word writes is told by the bits of the active lanes. -/
theorem WritesMask.of_active_eq {i : Instr} {s : State} {kd : BitVec 3} {p q : Nat → Bool} {fl : BitVec 6} (h : WritesMask i s kd p fl)
    (e : ∀ l, (s.lanes i).getLsbD l = true → p l = q l) : WritesMask i s kd q fl :=
  h.imp fun _ ⟨hset, hrest⟩ => ⟨fun l hl h0 => (hset l hl h0).trans (e l hl), hrest⟩

section
variable {s : State} {i : Instr}

theorem scalarUnaryForm_of {o : SUn} {f : Nat → Nat → Nat} {g : W64 → W64} (e : exec i s = sUnary i s o f)
    (hf : ∀ a : W64, a.toNat < 2 ^ bitsAt o.w64 → BitVec.ofNat 64 (f (bitsAt o.w64) a.toNat) = g a) : ScalarUnaryForm i s o g := by
  intro h
  rw [← hf _ ((s.sees i).sw_lt o.w64 o.a.toNat)]
  exact writesScalar_of h e

theorem scalarForm_of {o : SBin} {sgn : Bool} {f : Nat → Nat → Nat → Nat} {g : W64 → W64 → W64} (e : exec i s = sBinary i s o sgn f)
    (hf : ∀ a b : W64, a.toNat < 2 ^ bitsAt o.w64 → b.toNat < 2 ^ bitsAt o.w64 → BitVec.ofNat 64 (f (bitsAt o.w64) a.toNat b.toNat) = g a b) :
    ScalarForm i s o sgn g := by
  intro h
  rw [← hf _ _ ((s.sees i).sw_lt o.w64 o.a.toNat) ((s.sees i).ssrc_lt o.w64 sgn o.b)]
  exact writesScalar_of h e

theorem writesMask_of_kOp {kd : BitVec 3} {f : Agent → LaneMask} {p : Nat → Bool} (h : s.ready i = true) (e : exec i s = kOp i s kd f)
    (hp : ∀ l, l < 64 → (f (s.sees i)).getLsbD l = p l) : WritesMask i s kd p 0 :=
  (writesMask_of h e).of_active_eq fun l hl => hp l (BitVec.lt_of_getLsbD hl)

theorem writesScalar_of_kReduce {d : BitVec 6} {ka : BitVec 3} {f : LaneMask → LaneMask → Nat} (h : s.ready i = true) (e : exec i s = kReduce i s d ka f) :
    WritesScalar i s false d (BitVec.ofNat 64 (f (s.lanes i) (s.lanes i &&& (s.sees i).k ka.toNat))) := by
  have hlow (x : Nat) : [RegW.s d.toNat (BitVec.ofNat 32 x)] = wS false d (BitVec.ofNat 64 x) := by simp [wS, lo32]
  simp only [kReduce, hlow] at e
  exact writesScalar_of h e

end

end Sys2Proof.Machine
end

section
/-! Counts, bit fields, the address sum and the select (R163, R165–R167); moves, scalar compares, predicate operations and mask reductions
(R161, R168–R170). -/

namespace Sys2Proof.Machine

/-! ## Scalar results -/

theorem scalarCounts : Claims.ScalarCounts := fun s c o =>
  ⟨scalarUnaryForm_of (rfl : exec (.sclz c o) s = execSclz c o s) fun _ ha => ofNat_iClz (bitsAt_le o.w64) ha,
    scalarUnaryForm_of (rfl : exec (.spopc c o) s = execSpopc c o s) fun _ ha => ofNat_iPopc (bitsAt_le o.w64) ha⟩

theorem scalarFields : Claims.ScalarFields := by
  intro s c o sc sh kc n pos len
  refine ⟨?sbfe, fun h => ?sbfi, fun h => ?slea, fun h l hl hmin => ?ssel⟩
  case sbfe =>
    have e : exec (.sbfe c o) s = execSbfe c o s := rfl
    exact scalarForm_of e fun a b ha _ => ofNat_iBfe ha _ ((min_le_right _ _).trans (bitsAt_le o.w64))
  case sbfi =>
    have e : exec (.sbfi c o sc) s = execSbfi c o sc s := rfl
    exact (writesScalar_of h e).of_atWidth_eq (atWidth_iBfi o.w64 _ _ _ _)
  case slea =>
    have e : exec (.slea c sh o sc) s = execSlea c sh o sc s := rfl
    exact writesScalar_of h e
  case ssel =>
    have e : exec (.ssel c o kc) s = execSsel c o kc s := rfl
    have hw := writesScalar_of h e
    rwa [headD_lanesOf hl hmin] at hw

/-- Settles O2: each word writes what its operation on naturals gives, and that is the operation on words of R163 and R165 to R167. -/
theorem scalarBitFields : Obligations.ScalarBitFields := ⟨scalarCounts, scalarFields⟩

/-! ## Moves and predicates -/

theorem moves : Claims.Moves := by
  intro s c w64 b ds dv
  refine ⟨fun h => ?scalar, fun h hg => ?vector⟩
  case scalar =>
    have e : exec (.movi c w64 (.s ds) b) s = execMovi c w64 (.s ds) b s := rfl
    exact writesScalar_of h e
  case vector =>
    have e : exec (.movi c w64 (.v dv) b) s = execMovi c w64 (.v dv) b s := rfl
    exact writesLanes_of h hg e

theorem scalarCompare : Claims.ScalarCompare := by
  intro s c cc w64 kd sa b h v
  have e : exec (.scmp c cc w64 kd sa b) s = execScmp c cc w64 kd sa b s := rfl
  refine (writesMask_of h e).of_active_eq fun l hl => ?_
  rw [← iccHolds_eq_iccMeans cc (v.sw_lt w64 sa.toNat) (v.ssrc_lt w64 true b)]
  split
  · next hc => exact hl.trans hc.symm
  · next hc => exact BitVec.getLsbD_zero.trans (eq_false_of_ne_true hc).symm

theorem predicates : Claims.Predicates := by
  intro s c kd ka kb bit
  refine ⟨fun h => ?kand, fun h => ?kor, fun h => ?kxor, fun h => ?knot, fun h => ?kmov⟩
  case kand =>
    have e : exec (.kand c kd ka kb) s = execKand c kd ka kb s := rfl
    exact writesMask_of_kOp h e fun _ _ => BitVec.getLsbD_and
  case kor =>
    have e : exec (.kor c kd ka kb) s = execKor c kd ka kb s := rfl
    exact writesMask_of_kOp h e fun _ _ => BitVec.getLsbD_or
  case kxor =>
    have e : exec (.kxor c kd ka kb) s = execKxor c kd ka kb s := rfl
    exact writesMask_of_kOp h e fun _ _ => BitVec.getLsbD_xor
  case knot =>
    have e : exec (.knot c kd ka) s = execKnot c kd ka s := rfl
    exact writesMask_of_kOp h e fun l hl => by rw [BitVec.getLsbD_not, decide_eq_true hl, Bool.true_and]
  case kmov =>
    have e : exec (.kmov c kd ka) s = execKmov c kd ka s := rfl
    exact writesMask_of_kOp h e fun _ _ => rfl

theorem maskReductions : Claims.MaskReductions := by
  intro s c d ka m
  have hfirst : exec (.kfirst c d ka) s = execKfirst c d ka s := rfl
  refine ⟨fun h => ?kpopc, fun h => ⟨fun h0 => ?none, fun l hl hmin => ?lowest⟩, fun h => ?kany, fun h => ?kall⟩
  case kpopc =>
    have e : exec (.kpopc c d ka) s = execKpopc c d ka s := rfl
    have hw := writesScalar_of_kReduce h e
    rwa [length_lanesOf, BitVec.ofNat_toNat, BitVec.setWidth_eq] at hw
  case none =>
    have hw := writesScalar_of_kReduce h hfirst
    simp only [m] at h0
    rwa [h0, lanesOf_zero] at hw
  case lowest =>
    have hw := writesScalar_of_kReduce h hfirst
    rwa [headD_lanesOf hl hmin] at hw
  case kany =>
    have e : exec (.kany c d ka) s = execKany c d ka s := rfl
    have hw := writesScalar_of_kReduce h e
    rwa [apply_ite (BitVec.ofNat 64)] at hw
  case kall =>
    have e : exec (.kall c d ka) s = execKall c d ka s := rfl
    have hw := writesScalar_of_kReduce h e
    rwa [apply_ite (BitVec.ofNat 64)] at hw

/-- Settles O3: the moves and reductions by the result each word writes, the compares and predicate operations by its bit in each active lane. -/
theorem movesComparesAndMasks : Obligations.MovesComparesAndMasks := ⟨moves, scalarCompare, predicates, maskReductions⟩

end Sys2Proof.Machine
end

section
/-! SUPPORT. Vector words of integers: their operands, the integer operations of the model as operations on words at a width, and what a word of
each shape writes (R184, R189, R190). -/

namespace Sys2Proof.Machine

/-! ## Vector operands -/

/-- A vector operand holds no bit at or above its width. -/
theorem Agent.vw_lt (a : Agent) (w64 : Bool) (r l : Nat) : (a.vw w64 r l).toNat < 2 ^ bitsAt w64 := by
  cases w64 with
  | true => exact (a.vw true r l).isLt
  | false => exact toNat_setWidth_lt _

/-- Nor does a scalar operand as a lane reads it. -/
theorem Agent.swAt_lt (a : Agent) (w64 : Bool) (r l : Nat) : (a.swAt w64 r l).toNat < 2 ^ bitsAt w64 := by
  cases w64 with
  | true => exact (a.swAt true r l).isLt
  | false => exact toNat_setWidth_lt _

/-- Nor does source b of a vector word, whose immediates are those of a scalar word. -/
theorem Agent.vsrc_lt (a : Agent) (w64 sgn : Bool) (l : Nat) (b : VSrc) : (a.vsrc w64 sgn l b).toNat < 2 ^ bitsAt w64 := by
  cases b with
  | v r => exact a.vw_lt w64 r.toNat l
  | s r => exact a.swAt_lt w64 r.toNat l
  | imm x => exact a.ssrc_lt w64 sgn (.imm x)
  | lit x => exact a.ssrc_lt w64 sgn (.lit x)

/-! ## Integers kept at a width -/

/-- Two naturals agree at a width when they are congruent modulo it. -/
theorem atWidth_ofNat_congr {w64 : Bool} {x y : Nat} (h : x ≡ y [MOD 2 ^ bitsAt w64]) :
    atWidth w64 (BitVec.ofNat 64 x) = atWidth w64 (BitVec.ofNat 64 y) := by
  refine atWidth_congr fun i hi => ?_
  have hbit : x.testBit i = y.testBit i := by
    have hmod := congrArg (Nat.testBit · i) h
    simpa only [Nat.testBit_mod_two_pow, hi, decide_true, Bool.true_and] using hmod
  rw [BitVec.getLsbD_ofNat, BitVec.getLsbD_ofNat, hbit]

theorem lowBits_modEq {n m : Nat} (h : n ≤ m) (z : Int) : lowBits n z ≡ lowBits m z [MOD 2 ^ n] := by
  have hcast (k : Nat) : ((lowBits k z : Nat) : Int) = z % 2 ^ k := Int.toNat_of_nonneg (Int.emod_nonneg z (by positivity))
  refine Int.natCast_modEq_iff.1 ?_
  rw [hcast, hcast, Int.ModEq]
  push_cast
  rw [Int.emod_emod, Int.emod_emod_of_dvd z (pow_dvd_pow 2 h)]

/-- The low bits of an integer at a width are it as a word kept at the width. -/
theorem atWidth_lowBits (w64 : Bool) (z : Int) : atWidth w64 (BitVec.ofNat 64 (lowBits (bitsAt w64) z)) = atWidth w64 (BitVec.ofInt 64 z) := by
  rw [← ofNat_lowBits 64 z]
  exact atWidth_ofNat_congr (lowBits_modEq (bitsAt_le w64) z)

/-- A result of the model is a word, kept at a width, with its flags. -/
def AgreesAt (w64 : Bool) (p : Nat × BitVec 6) (q : W64 × BitVec 6) : Prop := atWidth w64 (BitVec.ofNat 64 p.1) = atWidth w64 q.1 ∧ p.2 = q.2

/-- R90, R189: the model wraps or clamps as `keptAt` says. -/
theorem iSat_agreesAt (w64 sat : Bool) (z : Int) : AgreesAt w64 (iSat sat (bitsAt w64) z) (keptAt w64 sat z) := by
  cases sat with
  | false =>
    simp only [iSat, keptAt, Bool.false_eq_true, false_and, if_false]
    exact ⟨atWidth_lowBits w64 z, rfl⟩
  | true =>
    simp only [iSat, keptAt, clampSat, if_true, true_and, Int.sub_one_lt_iff]
    split
    · exact ⟨atWidth_lowBits w64 _, rfl⟩
    · split
      · exact ⟨atWidth_lowBits w64 _, rfl⟩
      · exact ⟨atWidth_lowBits w64 z, rfl⟩

/-! ## Operations on naturals as operations on words -/

theorem ofNat_mul_two_pow (a : W64) (k : Nat) : BitVec.ofNat 64 (a.toNat * 2 ^ k) = a <<< k := by
  apply BitVec.eq_of_toNat_eq
  rw [BitVec.toNat_ofNat, BitVec.toNat_shiftLeft, Nat.shiftLeft_eq]

theorem ofNat_div_two_pow (a : W64) (k : Nat) : BitVec.ofNat 64 (a.toNat / 2 ^ k) = a >>> k := by
  apply BitVec.eq_of_toNat_eq
  rw [BitVec.toNat_ofNat, BitVec.toNat_ushiftRight, Nat.shiftRight_eq_div_pow]
  exact Nat.mod_eq_of_lt ((Nat.div_le_self _ _).trans_lt a.isLt)

/-- A word shifted left and kept at a width: no bit beyond the width counts. -/
theorem atWidth_shiftLeft (w64 : Bool) (a : W64) (k : Nat) :
    atWidth w64 (BitVec.ofNat 64 (a.toNat * 2 ^ k % 2 ^ bitsAt w64)) = atWidth w64 (a <<< k) := by
  rw [← ofNat_mul_two_pow]
  exact atWidth_ofNat_congr (Nat.mod_modEq _ _)

theorem sInt_eq_toInt (x : BitVec n) : sInt n x.toNat = x.toInt := by
  cases n with
  | zero => simp [BitVec.of_length_zero, sInt]
  | succ n =>
    simp only [sInt, BitVec.toInt_eq_toNat_cond, Nat.add_sub_cancel, Nat.pow_succ]
    push_cast
    split <;> split <;> omega

/-- The count of `vshr.s`: b[7:0] read as signed (R189). -/
theorem sInt_byte (b : W64) : sInt 8 (b.toNat % 256) = (b.setWidth 8).toInt := by
  rw [← sInt_eq_toInt, BitVec.toNat_setWidth]

theorem atWidth_iShrS (w64 : Bool) (a b : W64) :
    atWidth w64 (BitVec.ofNat 64 (iShrS (bitsAt w64) a.toNat b.toNat)) = atWidth w64 (
      let k := (b.setWidth 8).toInt
      if (bitsAt w64 : Int) ≤ |k| then 0 else if k < 0 then a <<< k.natAbs else a >>> k.natAbs) := by
  simp only [iShrS, sInt_byte, Int.abs_eq_natAbs, Nat.cast_le, ge_iff_le]
  generalize (b.setWidth 8).toInt = k
  split
  · rfl
  · split
    · exact atWidth_shiftLeft w64 a _
    · next hk =>
      rw [show k.toNat = k.natAbs by omega, ofNat_div_two_pow]

section
variable {w64 : Bool} {a b : W64} (ha : a.toNat < 2 ^ bitsAt w64) (hb : b.toNat < 2 ^ bitsAt w64)
include ha hb

/-- The high half of a product, of the signed readings or of the words (R189). -/
theorem atWidth_iMulH (sgn : Bool) : atWidth w64 (BitVec.ofNat 64 (iMulH sgn (bitsAt w64) a.toNat b.toNat)) =
    atWidth w64 (if sgn then BitVec.ofInt 64 (signedAt w64 a * signedAt w64 b / 2 ^ bitsAt w64) else BitVec.ofNat 64 (a.toNat * b.toNat / 2 ^ bitsAt w64)) := by
  cases sgn with
  | true =>
    simp only [iMulH, if_true, sInt_toNat ha, sInt_toNat hb]
    exact atWidth_lowBits w64 _
  | false => exact atWidth_ofNat_congr (Nat.mod_modEq _ _)

/-- The model chooses by the order of the signed readings, or of the words. -/
theorem ofNat_ite_iLt (sgn : Bool) (x y : W64) : BitVec.ofNat 64 (if iLt sgn (bitsAt w64) a.toNat b.toNat then x.toNat else y.toNat) =
    if (if sgn then signedAt w64 a < signedAt w64 b else a.toNat < b.toNat) then x else y := by
  have hlt : (iLt sgn (bitsAt w64) a.toNat b.toNat = true) = if sgn then signedAt w64 a < signedAt w64 b else a.toNat < b.toNat := by
    cases sgn <;> simp [iLt, sInt_toNat ha, sInt_toNat hb]
  simp only [hlt, apply_ite (BitVec.ofNat 64), BitVec.ofNat_toNat, BitVec.setWidth_eq]

end

/-! ## The shapes of the vector words -/

/-- What a vector word writes is told by its results at their width, and by its flags. -/
theorem writesLanes_of_perLane {s : State} {i : Instr} (h : s.ready i = true) (hg : s.me.kind = .group) {w64 : Bool} {d : BitVec 8}
    {f : Agent → Nat → Nat × BitVec 6} {g : Nat → W64 × BitVec 6} (e : exec i s = issueRegs i s (fun a act => perLane w64 d act (f a)))
    (hf : ∀ l, AgreesAt w64 (f (s.sees i) l) (g l)) : WritesLanes i s w64 d (fun l => (g l).1) (lanesFlags (s.lanes i) (fun l => (g l).2)) := by
  simp only [perLane_eq] at e
  have hflags : (fun l => (f (s.sees i) l).2) = fun l => (g l).2 := funext fun l => (hf l).2
  rw [← hflags]
  exact (writesLanes_of h hg e).imp fun _ ⟨hset, hrest⟩ => ⟨fun l hl => (hset l hl).trans (hf l).1, hrest⟩

section
variable {s : State} {i : Instr} {o : VBin} {sgn : Bool}

theorem vectorForm_of {f : Nat → Nat → Nat → Nat × BitVec 6} {g : W64 → W64 → W64 × BitVec 6} (e : exec i s = vBinary i s o sgn f)
    (hf : ∀ a b : W64, a.toNat < 2 ^ bitsAt o.w64 → b.toNat < 2 ^ bitsAt o.w64 → AgreesAt o.w64 (f (bitsAt o.w64) a.toNat b.toNat) (g a b)) :
    VectorForm i s o sgn g := fun h hg =>
  writesLanes_of_perLane h hg e fun l => hf _ _ ((s.sees i).vw_lt o.w64 o.a.toNat l) ((s.sees i).vsrc_lt o.w64 sgn l o.b)

/-- A word that raises no flag. -/
theorem vectorForm_of_noFlag {f : Nat → Nat → Nat → Nat} {g : W64 → W64 → W64} (e : exec i s = vBinary i s o sgn (noFlag f))
    (hf : ∀ a b : W64, a.toNat < 2 ^ bitsAt o.w64 → b.toNat < 2 ^ bitsAt o.w64 →
      atWidth o.w64 (BitVec.ofNat 64 (f (bitsAt o.w64) a.toNat b.toNat)) = atWidth o.w64 (g a b)) :
    VectorForm i s o sgn (fun a b => (g a b, 0)) :=
  vectorForm_of e fun a b ha hb => ⟨hf a b ha hb, rfl⟩

/-- A word that keeps an exact result of its two signed operands (R189). -/
theorem vectorForm_of_iSat {sat : Bool} (op : Int → Int → Int)
    (e : exec i s = vBinary i s o sgn (fun n a b => iSat sat n (op (sInt n a) (sInt n b)))) :
    VectorForm i s o sgn (fun a b => keptAt o.w64 sat (op (signedAt o.w64 a) (signedAt o.w64 b))) :=
  vectorForm_of e fun a b ha hb => by
    rw [sInt_toNat ha, sInt_toNat hb]
    exact iSat_agreesAt o.w64 sat _

theorem vectorTernaryForm_of {vc : BitVec 8} {f : Nat → Nat → Nat → Nat → Nat × BitVec 6} {g : W64 → W64 → W64 → W64 × BitVec 6}
    (e : exec i s = vTernary i s o sgn vc f)
    (hf : ∀ a b x : W64, a.toNat < 2 ^ bitsAt o.w64 → b.toNat < 2 ^ bitsAt o.w64 → x.toNat < 2 ^ bitsAt o.w64 →
      AgreesAt o.w64 (f (bitsAt o.w64) a.toNat b.toNat x.toNat) (g a b x)) :
    VectorTernaryForm i s o sgn vc g := fun h hg =>
  writesLanes_of_perLane h hg e fun l =>
    hf _ _ _ ((s.sees i).vw_lt o.w64 o.a.toNat l) ((s.sees i).vsrc_lt o.w64 sgn l o.b) ((s.sees i).vw_lt o.w64 vc.toNat l)

end

end Sys2Proof.Machine
end

section
/-! The two- and three-operand integer instructions of vectors (R189, R190). -/

namespace Sys2Proof.Machine

/-- Settles O4: `vadd`, `vsub`, `vmul` and `vmad` keep the exact result of the signed readings by `iSat_agreesAt`; each of the others writes what its
operation on naturals gives, and that is the operation on words of R189. -/
theorem vectorInteger : Obligations.VectorInteger := by
  intro s c sat sgn o vc n z
  refine ⟨?vadd, ?vsub, ?vmul, ?vmad, ?vmulh, ?vand, ?vor, ?vxor, ?vshl, ?vshru, ?vshrs, ?vsra, ?vmin, ?vmax⟩
  case vadd =>
    have e : exec (.vadd c sat o) s = execVadd c sat o s := rfl
    exact vectorForm_of_iSat (· + ·) e
  case vsub =>
    have e : exec (.vsub c sat o) s = execVsub c sat o s := rfl
    exact vectorForm_of_iSat (· - ·) e
  case vmul =>
    have e : exec (.vmul c sat o) s = execVmul c sat o s := rfl
    exact vectorForm_of_iSat (· * ·) e
  case vmad =>
    have e : exec (.vmad c sat o vc) s = execVmad c sat o vc s := rfl
    refine vectorTernaryForm_of e fun a b x ha hb hx => ?_
    rw [sInt_toNat ha, sInt_toNat hb, sInt_toNat hx]
    exact iSat_agreesAt o.w64 sat _
  case vmulh =>
    have e : exec (.vmulh c sgn o) s = execVmulh c sgn o s := rfl
    exact vectorForm_of_noFlag e fun a b ha hb => atWidth_iMulH ha hb sgn
  case vand =>
    have e : exec (.vand c o) s = execVand c o s := rfl
    refine vectorForm_of_noFlag e fun a b _ _ => congrArg (atWidth o.w64) ?_
    exact BitVec.eq_of_toNat_eq (Nat.mod_eq_of_lt (a &&& b).isLt)
  case vor =>
    have e : exec (.vor c o) s = execVor c o s := rfl
    refine vectorForm_of_noFlag e fun a b _ _ => congrArg (atWidth o.w64) ?_
    exact BitVec.eq_of_toNat_eq (Nat.mod_eq_of_lt (a ||| b).isLt)
  case vxor =>
    have e : exec (.vxor c o) s = execVxor c o s := rfl
    refine vectorForm_of_noFlag e fun a b _ _ => congrArg (atWidth o.w64) ?_
    exact BitVec.eq_of_toNat_eq (Nat.mod_eq_of_lt (a ^^^ b).isLt)
  case vshl =>
    have e : exec (.vshl c o) s = execVshl c o s := rfl
    exact vectorForm_of_noFlag e fun a b _ _ => atWidth_shiftLeft o.w64 a _
  case vshru =>
    have e : exec (.vshr c false o) s = execVshr c false o s := rfl
    exact vectorForm_of_noFlag e fun a b _ _ => congrArg (atWidth o.w64) (ofNat_div_two_pow a _)
  case vshrs =>
    have e : exec (.vshr c true o) s = execVshr c true o s := rfl
    exact vectorForm_of_noFlag e fun a b _ _ => atWidth_iShrS o.w64 a b
  case vsra =>
    have e : exec (.vsra c o) s = execVsra c o s := rfl
    refine vectorForm_of_noFlag e fun a b ha _ => ?_
    rw [iSra, sInt_toNat ha]
    exact atWidth_lowBits o.w64 _
  case vmin =>
    have e : exec (.vmin c sgn o) s = execVmin c sgn o s := rfl
    refine vectorForm_of_noFlag e fun a b ha hb => congrArg (atWidth o.w64) ?_
    exact ofNat_ite_iLt hb ha sgn b a
  case vmax =>
    have e : exec (.vmax c sgn o) s = execVmax c sgn o s := rfl
    refine vectorForm_of_noFlag e fun a b ha hb => congrArg (atWidth o.w64) ?_
    exact ofNat_ite_iLt ha hb sgn b a

end Sys2Proof.Machine
end
